-- ==== Sys2Proof/Word.lean ====
section
/-!
DEFINITION. The words of the PXU-4016 (R6, R7: bit 0 least significant, byte 0 at the lowest address).
-/
namespace Sys2Proof

/-- One byte. -/
abbrev Byte := BitVec 8
/-- A byte string, byte 0 first. -/
abbrev Bytes := List (BitVec 8)
/-- 16, 32 and 64 bit words of registers and descriptors. -/
abbrev W16 := BitVec 16
abbrev W32 := BitVec 32
abbrev W64 := BitVec 64

end Sys2Proof
end

