-- ==== Sys2Proof/Syntax.lean ====
section
/-!
DEFINITION. The commands the block takes: one constructor of `Instr` per row of spec/opcode_table.json, in the table's order
(the 11 rows added at its end included), with the row's operands. What the outside supplies at that moment (a sensor reading,
an answer of a host, a received packet) is an operand; what the block already holds is read from State.
-/
namespace Sys2Proof

/-- The two management controllers (R318). -/
inductive Mc where
  | a
  | b
deriving DecidableEq, Repr

/-- The paths that reach the dictionary, with the path codes of R467: 1 CAN FD, 2 I3C, 3 PCIe on HP0, 4 on HP1, 5 internal. -/
inductive Path where
  | can
  | i3c
  | pcie0
  | pcie1
  | internal
deriving DecidableEq, Repr

/-- A client of the dictionary: its path and its node-ID or endpoint ID (R442). -/
structure Client where
  path : Path
  id : Byte
deriving DecidableEq, Repr

/-- The receivers of control frames (R326): the sixteen supervisors, the actuator driver, the blower driver, the power stages. -/
inductive Receiver where
  | sup (s : Fin 16)
  | ad
  | blower
  | power
deriving DecidableEq, Repr

/-- The queue a doorbell or an entry belongs to: a port's admin queue, or an I/O queue slot (R193, R196). -/
inductive QRef where
  | admin (p : Fin 2)
  | io (slot : BitVec 18)
deriving DecidableEq, Repr

/-- What a host sets in the configuration space of a port's function (R184): 64 GT/s, else 32; max payload and max read request in bytes; relaxed ordering;
MSI-X Enable and Function Mask. -/
structure PciFn where
  fast : Bool
  payload : Nat
  readReq : Nat
  relaxed : Bool
  msixOn : Bool
  msixMask : Bool
deriving DecidableEq, Repr

/-- Which supply condition opened the hot-swap switch (R421). -/
inductive SwapCause where
  | auxLost
  | presence
  | underVoltage
  | overVoltage
  | overCurrent
deriving DecidableEq, Repr

/-- Rail fault causes (R431, R453 0x3130): 1 power-good lost, 2 not reached, 3 over-current. -/
inductive RailCause where
  | lost
  | notReached
  | overCurrent
deriving DecidableEq, Repr

/-- Wake requests of a stopped core (R320). -/
inductive WakeSource where
  | leak
  | can
  | i3c
  | ejector
  | timer
deriving DecidableEq, Repr

/-- Why a core restarted (record 0x0102 of R469). -/
inductive RestartCause where
  | watchdog
  | silence
  | activation
  | rollback
deriving DecidableEq, Repr

/-- What the host answered to a DMA read of the module (R218). -/
inductive DmaResult where
  | data (bytes : Bytes)
  | error
  | poisoned
deriving DecidableEq, Repr

/-- How a read of a GDDR7 data unit, a slice row or CXL memory fared (R149, R157, R159, R170): an error of the data unit, an uncorrectable one of the
check unit of its group, or bursts or flits sent again `n` times. -/
inductive ReadError where
  | correctable
  | uncorrectable
  | checkUnit
  | retried (n : Nat)
deriving DecidableEq, Repr

/-- One read error met by an access: the local offset of the unit or word, and what was met. -/
structure ReadFault where
  addr : Nat
  kind : ReadError
deriving DecidableEq, Repr

/-- A strait packet: the 32-byte header of R282 field by field, and the payload. -/
structure Packet where
  dest : W16
  src : W16
  typ : Byte
  flags : Byte
  len : W16
  seq : W32
  ref : W32
  addr : W64
  crc : W32
  plane : Byte
  code : Byte
  rsv : W16
  payload : Bytes
deriving DecidableEq, Repr

/-- What one controller's sensor front end holds at a tick (R386): temperatures in 1/16 °C, `none` for a reading outside the
valid range; its leak loop in 10 Ω units; STALE flags of the crossings of R322. The always-on counters change at most once in eight cycles of the core, so the
crossing always accepts them (R322) and they have no flag. -/
structure SensorIn where
  ti : Option Int
  tout : Option Int
  fq : Option Nat
  dp : Option Int
  lk : Nat
  staleTi : Bool
  staleTo : Bool
  staleFq : Bool
  staleDp : Bool
  staleLk : Bool
deriving DecidableEq, Repr

/-- What the whole module reads at a base tick of 100 µs (R361, R386, R371, R372): junction readings (sensor j of SKs at
8 s + j), skerry powers in 0.125 W, the busbar in 0.01 V, the input current in 0.01 A, auxiliary volts in mV, the complete periods of the pulse input that
ended in the tick (high time and period in ns, oldest first), the sample of the 4-20 mA input in µA, blower speeds with STALE in bit 15. -/
structure TickIn where
  tj : Vector W16 128
  power : Vector W16 16
  volts : Nat
  amps : Nat
  auxMv : Nat
  a : SensorIn
  b : SensorIn
  periods : List (Nat × Nat)
  loopUa : Nat
  rpm : Vector W16 2
  motorMa : Vector W16 2
  meshRetries : List (Fin 42 × Nat)
  errors : List ReadFault
deriving DecidableEq, Repr

/-- A strait that goes down: by itself, or with its optical engine (R308). -/
structure StraitLoss where
  strait : Fin 12
  engine : Bool
deriving DecidableEq, Repr

/-- A host that fails on a port: by itself, or cut off by its optical engine (R232, R315). -/
structure HostLoss where
  port : Fin 2
  engine : Bool
deriving DecidableEq, Repr

/-- Messages of the pair link (R325): the tick message with the frame sequence counter and the sender's computed outputs as the payloads of the four frame kinds
carry them (R328, R334, R344), journal entries, a snapshot, the count of a store, and the agreements on a self-test round and on a rejoiner's boundary (R341,
R347). -/
inductive PairMsg where
  | tick (seq : W32) (sup power ad blow : Bytes)
  | journal (serial : Nat) (key : Nat) (value : Nat)
  | snapshotRequest
  | snapshot
  | storeOrder (area : Nat)
  | round
  | boundary (seq : W32)
deriving DecidableEq, Repr

/-- The receiver of an exchange that ended an actuator peak (R400, R405): what the channel's current showed. -/
inductive PeakResult where
  | dip
  | noDip
  | openCoil
  | switchFault
deriving DecidableEq, Repr

/-- An SPDM requester's message parameters that the responses depend on (R477, R478). -/
structure SpdmIn where
  client : Client
  slot : Byte
  session : W32
  measurement : Byte
deriving DecidableEq, Repr

/-- THE COMMANDS. -/
inductive Instr where
  -- module state, power and hot plug (R32, R40, R420-R434)
  | auxPowerValid (pos : BitVec 6) (badAreas : Vector (BitVec 11) 2) (logBad : BitVec 2)
  | auxPowerLost
  | dictionaryReady (mc : Mc)
  | automaticGrant
  | permissionGrant (cl : Client) (target : Byte)
  | permissionWithdraw (cl : Client)
  | fillDetected (dp : Int)
  | decayHoldEnd (dp : Int)
  | railPowerGood (rail : Fin 6) (testFails : List (Fin 16 × Fin 68))
  | railFault (rail : Fin 6) (cause : RailCause)
  | railSequenceRetry
  | startUpComplete
  | startUpOverdue
  | hotSwapClose (volts : Nat)
  | hotSwapOpen (cause : SwapCause) (reading : Nat)
  | presenceLost
  | ejectorSwitchChange (pressed : Bool)
  | removalRequest
  | removalRequestIgnored
  | drainTimeExpiry
  | opticalEngagementLost (contact : Fin 2)
  | orphanTimeout (r : Receiver)
  | madderTrip (cause : Fin 5) (source : Byte) (reading : W16)
  | tripAcknowledge (cl : Client)
  | thermalClampEngage (sk : Fin 16) (sensor : Fin 8) (reading : W16)
  | thermalClampRelease (sk : Fin 16)
  -- tiles, remapping, skerry reset, mesh (R83-R102, R436, R437)
  | tileFault (sk : Fin 16) (phys : Fin 68) (cause : Fin 4)
  | tileWatchdogExpiry (g : Fin 1024)
  | remapReloadDone (sk : Fin 16)
  | remapGo (port : Fin 2) (sk : Fin 16) (value : W32)
  | napEntry (g : Fin 1024)
  | tileWake (g : Fin 1024)
  | halt (g : Fin 1024)
  | resume (g : Fin 1024)
  | skrReset (port : Fin 2) (sk : Fin 16) (value : W32)
  | skerryResetRelease (sk : Fin 16) (testFails : List (Fin 68))
  | skerryResetDone (sk : Fin 16)
  | supvReset (sk : Fin 16)
  | meshLaneFault (link : Fin 42)
  | rerouteDone
  | sramRowRepair (g : Fin 1024) (row : Nat)
  | sramPatrolScrub (sk : Fin 16) (faults : List ReadFault)
  -- tile instructions (R110-R138): the tile whose sequencer issues the word at its PC
  | nop (g : Fin 1024)
  | endStep (g : Fin 1024)
  | alu (g : Fin 1024)
  | lih (g : Fin 1024)
  | br (g : Fin 1024)
  | mfs (g : Fin 1024)
  | mts (g : Fin 1024)
  | get (g : Fin 1024)
  | put (g : Fin 1024)
  | getComplete (g : Fin 1024) (faults : List ReadFault)
  | putAcknowledged (g : Fin 1024)
  | fence (g : Fin 1024)
  | mma (g : Fin 1024)
  | mst (g : Fin 1024)
  | mld (g : Fin 1024)
  | mz (g : Fin 1024)
  | vadd (g : Fin 1024)
  | vsub (g : Fin 1024)
  | vmul (g : Fin 1024)
  | vfma (g : Fin 1024)
  | vmax (g : Fin 1024)
  | vmin (g : Fin 1024)
  | vdiv (g : Fin 1024)
  | vabs (g : Fin 1024)
  | vrsum (g : Fin 1024)
  | vrmax (g : Fin 1024)
  | vcpy (g : Fin 1024)
  | sexp (g : Fin 1024)
  | slog (g : Fin 1024)
  | srsq (g : Fin 1024)
  | stanh (g : Fin 1024)
  | ssig (g : Fin 1024)
  | cvto (g : Fin 1024)
  | cvfr (g : Fin 1024)
  | signal (g : Fin 1024)
  | wait (g : Fin 1024)
  | signalArrival (g : Fin 1024) (cnt : Fin 16) (value : W32) (sender : Fin 1024)
  | stepStart (g : Fin 1024) (words : Vector W64 4)
  | unitComplete (g : Fin 1024) (u : Fin 3)
  -- GDDR7 and CXL (R160-R170)
  | gddr7TrainingDone (d : Fin 24) (rdEye : Byte) (wrEye : Byte) (completed : Bool)
  | deviceRetire (d : Fin 24)
  | gmcRetireCtrl (value : W32)
  | mirrorRebuildDone
  | planCopyRebuild (plan : Fin 16)
  | gddr7ScrubPass (faults : List ReadFault)
  | cxpWinEnable (w : Fin 16) (value : W64)
  | cxlWindowDown (port : Fin 4) (cause : Fin 3)
  | cxlRetrain (port : Fin 4)
  | cxpCfgAccess (value : W64)
  | cxpCfgDone (err : Bool) (data : W32)
  | cxlApertureAccess (hp : Fin 2) (offset : BitVec 26) (size : Nat) (wr : Option Bytes) (answer : Bytes)
  -- registers and BARs (R13, R189)
  | registerWrite (hp : Fin 2) (bar4 : Bool) (offset : W32) (size : Nat) (value : Option W64)
  | bar2Access (hp : Fin 2) (offset : BitVec 38) (size : Nat) (wr : Option Bytes) (faults : List ReadFault)
  -- host interface (R194-R234)
  | commandFetch (p : Fin 2) (entry : BitVec 512)
  | completionWrite (cid : Nat)
  | interruptTimerExpiry (q : QRef)
  | submissionTailDoorbell (hp : Fin 2) (q : QRef) (value : W32)
  | completionHeadDoorbell (hp : Fin 2) (q : QRef) (value : W32)
  | aqEnable (hp : Fin 2) (p : Fin 2) (value : W32)
  | aqDisable (hp : Fin 2) (p : Fin 2) (value : W32)
  | queueStop (q : QRef)
  | queueFreed (q : QRef)
  | identify (cid : Nat)
  | createQueue (cid : Nat)
  | destroyQueue (cid : Nat)
  | registerRegion (cid : Nat)
  | releaseRegion (cid : Nat)
  | loadPlan (cid : Nat) (head : Bytes) (table : Bytes)
  | planImageReadDone (image : Bytes)
  | planLoadComplete
  | unloadPlan (cid : Nat)
  | unloadComplete (plan : Fin 16)
  | restartPlan (cid : Nat)
  | setPermission (cid : Nat)
  | abort (cid : Nat)
  | eventRequest (cid : Nat)
  | ioNop (cid : Nat)
  | copy (cid : Nat)
  | runPlan (cid : Nat)
  | runnerStepStart (plan : Fin 16)
  | runnerStepComplete (plan : Fin 16)
  | runPlanTimeout (plan : Fin 16)
  | hostFailure (p : HostLoss)
  | hostCleanupDone (p : Fin 2)
  | hostLinkUp (p : Fin 2) (width : Nat) (fn : PciFn)
  -- decode sequencer (R235-R271)
  | createSequence (cid : Nat)
  | destroySequence (cid : Nat)
  | generate (cid : Nat)
  | stopSequence (cid : Nat)
  | setSampler (cid : Nat)
  | submitTree (cid : Nat) (data : DmaResult)
  | forkSequence (cid : Nat)
  | trimSequence (cid : Nat)
  | setPages (cid : Nat) (data : DmaResult)
  | addFrames (cid : Nat) (data : DmaResult)
  | takeFrames (cid : Nat)
  | dsqStepStart (n : Fin 4)
  | logitsReady (n : Fin 4) (tile : Fin 1024) (value : W32)
  | treeReady (n : Fin 4) (tile : Fin 1024) (value : W32)
  | expertReq (n : Fin 4) (tile : Fin 1024) (value : W32)
  | expertPageInDone (n : Fin 4) (expert : Nat)
  | sampleRow (n : Fin 4) (ns : Nat)
  | dsqStepEnd (n : Fin 4)
  | ringHeadPoll (s : Fin 128)
  | logitsMissing (n : Fin 4)
  | stepTimeout (n : Fin 4)
  -- strait fabric (R272-R311)
  | laneRemove (i : Fin 12) (lane : Fin 8)
  | straitDown (i : StraitLoss)
  | flitReceive (i : Fin 12) (flit : Bytes)
  | replayRequest (i : Fin 12)
  | straitTrained (i : Fin 12) (lanes : Byte)
  | hello (i : Fin 12)
  | helloAck (i : Fin 12) (pkt : Packet)
  | assign (i : Fin 12) (pkt : Packet)
  | reach (i : Fin 12) (pkt : Packet)
  | keepalive (i : Fin 12) (pkt : Packet)
  | keepaliveSend (i : Fin 12)
  | keepaliveLoss (i : Fin 12)
  | discoveryTimeout (i : Fin 12)
  | straitRetrain (i : Fin 12)
  | write (i : Fin 12) (pkt : Packet)
  | readReq (i : Fin 12) (pkt : Packet)
  | collData (i : Fin 12) (pkt : Packet)
  | arrive (i : Fin 12) (pkt : Packet)
  | writeAck (i : Fin 12) (pkt : Packet)
  | readResp (i : Fin 12) (pkt : Packet)
  | collAck (i : Fin 12) (pkt : Packet)
  | arriveAck (i : Fin 12) (pkt : Packet)
  | nack (i : Fin 12) (pkt : Packet)
  | resendTimeout (seq : W32)
  | collectiveComplete (e : Fin 6) (slot : Fin 16)
  | collectiveTimeout (e : Fin 6) (slot : Fin 16)
  | strCeTable (e : Fin 6) (value : W64)
  | strExportEnable (w : Fin 16) (value : W64)
  | strPartnerEnable (value : W32)
  | fabricCopy (cid : Nat)
  | fireSlot (cid : Nat)
  | setShadow (cid : Nat)
  | shadowSync (cid : Nat)
  | shadowCommitWord (s : Fin 128)
  -- controllers (R318-R351, R361)
  | controlTick (x : TickIn)
  | deadlineMiss (mc : Mc) (slot : Fin 32)
  | followingErrorExpiry (mc : Mc) (slot : Fin 32)
  | controlFrame (r : Receiver) (port : Mc) (frame : Bytes)
  | statusFrame (mc : Mc) (frame : Bytes)
  | selfTestRound
  | selfTestEnd (failA : BitVec 7) (failB : BitVec 7)
  | divergenceAlarmClear
  | takeover
  | segmentFailed (mc : Mc)
  | pairLinkDown
  | silentRestart (mc : Mc)
  | controllerRestart (mc : Mc) (cause : RestartCause)
  | rejoin (mc : Mc)
  | rejoinTimeout (mc : Mc)
  | coreStop (mc : Mc)
  | coreWake (mc : Mc) (src : WakeSource)
  | releaseSilenceLock (cl : Client) (value : Byte)
  -- loop engine (R352-R385)
  | createSlot (cl : Client) (cls : Byte)
  | destroySlot (cl : Client) (handle : W32)
  | slotStart (cl : Client) (n : Fin 32)
  | slotStop (cl : Client) (n : Fin 32)
  | slotFreeze (cl : Client) (n : Fin 32)
  | slotRelease (cl : Client) (n : Fin 32)
  | clearFault (cl : Client) (n : Fin 32) (value : Byte)
  | testStartCommand (cl : Client) (n : Fin 32)
  | testStart (n : Fin 32)
  | testAbort (cl : Client) (n : Fin 32)
  | captureArm (cl : Client)
  | captureStart (cl : Client)
  | captureStop (cl : Client)
  | dispatchHoldExpiry
  | dispatchRecovery
  | pulseInputStuck
  -- coolant, actuators, blowers (R386-R412)
  | outletElementFault (which : Fin 2)
  | inletElementFault
  | flowSensorFault
  | leakConfirm (loops : BitVec 2) (reading : W16)
  | leakDetectionLost
  | peakEnd (ch : Fin 10) (result : PeakResult)
  | boostWaitTimeout (ch : Fin 10)
  | supplySwitchBoundary (hs : Fin 2)
  | trimPeriodStart (ch : Fin 10)
  | trimPeriodDeenergise (ch : Fin 10)
  | channelOverCurrent (ch : Fin 10)
  | positionProbe (ch : Fin 10) (ma10 : Nat)
  | clearChannelFaults (cl : Client) (value : W16)
  | blowerStall (b : Fin 2)
  | blowerRetry (b : Fin 2)
  | tachGap (b : Fin 2) (percent : Nat)
  -- object dictionary, CANopen, MCTP (R440-R460)
  | objectWrite (cl : Client) (index : W16) (sub : Byte) (data : Bytes)
  | dictionaryReadRequest (path : Path) (eid : Byte) (msg : Bytes)
  | dictionaryWriteRequest (path : Path) (eid : Byte) (msg : Bytes)
  | usdoUpload (node : Byte) (index : W16) (sub : Byte)
  | usdoDownload (node : Byte) (index : W16) (sub : Byte) (complete : Bool) (data : Bytes)
  | usdoSegmentTimeout (node : Byte)
  | nmtStart (node : Byte)
  | nmtStop (node : Byte)
  | nmtEnterPreOperational (node : Byte)
  | nmtResetCommunication (node : Byte) (pos : BitVec 6)
  | nmtResetNode (node : Byte) (pos : BitVec 6)
  | rpdoReceive (n : Fin 8) (data : Bytes)
  | rpdoTimeout (n : Fin 8)
  | tpdoTransmit (n : Fin 8)
  | emcySend
  | heartbeatProduce
  | heartbeatReceive (node : Byte)
  | heartbeatLoss (k : Fin 4)
  | store (cl : Client) (sub : Byte) (value : W32) (memOk : Bool)
  | restore (cl : Client) (sub : Byte) (value : W32) (memOk : Bool)
  | errorHistoryClear (cl : Client) (value : Byte)
  | setEndpointId (path : Path) (eid : Byte)
  | getEndpointId (path : Path) (requester : Byte)
  | getMctpVersionSupport (path : Path) (requester : Byte) (typ : Byte)
  | getMessageTypeSupport (path : Path) (requester : Byte)
  | getVendorDefinedMessageSupport (path : Path) (requester : Byte) (selector : Byte)
  -- logbook, roles, security (R466-R493)
  | logRecordWrite (mc : Mc) (fail : Option (Fin 5))
  | lastGaspRequest (mc : Mc) (serial : W32) (msg : Bytes)
  | roleChallenge (cl : Client)
  | roleProof (cl : Client) (proof : Bytes)
  | endRole (cl : Client) (value : Byte)
  | roleInactivityTimeout (cl : Client)
  | installerCredential (cl : Client) (key : Bytes)
  | planKey (cl : Client) (k : Fin 8) (key : Bytes)
  | planPolicyUpdate
  | calendarTimeSet (cl : Client) (value : W64)
  | returnStateRequest (cl : Client) (value : W32)
  | erasureComplete
  | returnStateExit (cl : Client)
  | getVersion (q : SpdmIn)
  | getCapabilities (q : SpdmIn)
  | negotiateAlgorithms (q : SpdmIn)
  | getDigests (q : SpdmIn)
  | getCertificate (q : SpdmIn)
  | challenge (q : SpdmIn)
  | getMeasurements (q : SpdmIn)
  | keyExchange (q : SpdmIn)
  | finish (q : SpdmIn)
  | heartbeat (q : SpdmIn)
  | keyUpdate (q : SpdmIn)
  | endSession (q : SpdmIn)
  | queryDeviceIdentifiers (cl : Client)
  | getFirmwareParameters (cl : Client)
  | requestUpdate (cl : Client)
  | passComponentTable (cl : Client) (comp : W16)
  | updateComponent (cl : Client) (comp : W16) (version : W32) (size : Nat)
  | requestFirmwareData (cl : Client) (offset : Nat) (data : Bytes)
  | verifyComplete (cl : Client)
  | activateFirmware (cl : Client)
  | getStatus (cl : Client)
  | cancelUpdateComponent (cl : Client)
  | cancelUpdate (cl : Client)
  | firmwareRollback (mc : Mc)
  | securityVersionCommit (comp : Fin 4)
  -- the rows the table adds at its end
  | reservedInstructionIssue (g : Fin 1024)
  | cxlPortTrained (port : Fin 4) (width : Nat) (fast : Bool) (lopt : Bool) (devices : Nat) (unsupported : Bool)
  | hostLinkDown (p : Fin 2)
  | hostDmaCompletion (cid : Nat) (data : DmaResult)
  | pairLinkMessage (dst : Mc) (msg : PairMsg)
  | standbyImageCheck (ok : Bool)
  | channelDecayEnd (ch : Fin 10)
  | boostRailUp
  | opticalEngagementMade
  | removalSwitchReleased
deriving DecidableEq, Repr

end Sys2Proof
end

