-- ==== Sys2Proof/Machine/Bits.lean ====
section
/-!
DEFINITION. Bit fields, byte order (R6, R7) and the sparse lists that hold memories and tables: a list of key and value
pairs in one canonical form, keys strictly rising, no entry at the value an unlisted key reads as.
-/
namespace Sys2Proof.Machine

/-- Bits `lo + len - 1 .. lo` of a word, as a number (R6). -/
def fld {n : Nat} (w : BitVec n) (lo len : Nat) : Nat := (w.toNat >>> lo) % 2 ^ len

/-- Bit `i` of a word (R6). -/
def bit {n : Nat} (w : BitVec n) (i : Nat) : Bool := w.getLsbD i

/-- Bit `i` of a number. -/
def nbit (w i : Nat) : Bool := w.testBit i

/-- Bits of a number. -/
def nfld (w lo len : Nat) : Nat := (w >>> lo) % 2 ^ len

/-- A Bool as the number 0 or 1. -/
def b2n (b : Bool) : Nat := if b then 1 else 0

/-- A word with one bit set or cleared. -/
def setBit {n : Nat} (w : BitVec n) (i : Nat) (v : Bool) : BitVec n :=
  if v then w ||| BitVec.ofNat n (2 ^ i) else w &&& ~~~ BitVec.ofNat n (2 ^ i)

/-- The number of set bits. -/
def popCount {n : Nat} (w : BitVec n) : Nat := ((List.range n).filter (fun i => w.getLsbD i)).length

/-- The two's-complement reading of the low `n` bits of a number (R6). -/
def sgn (n v : Nat) : Int :=
  let x := v % 2 ^ n
  if x < 2 ^ (n - 1) then (x : Int) else (x : Int) - (2 ^ n : Nat)

/-- The low `n` bits of an integer in two's complement. -/
def unsgn (n : Nat) (v : Int) : Nat := (v % (2 ^ n : Nat)).toNat

/-- `n` bytes of a number, least significant first (R7). -/
def bytesLe : Nat → Nat → Bytes
  | 0, _ => []
  | n + 1, v => BitVec.ofNat 8 v :: bytesLe n (v >>> 8)

/-- The number a byte string holds, least significant byte first (R7). -/
def numLe : Bytes → Nat
  | [] => 0
  | b :: r => b.toNat + 256 * numLe r

/-- `n` bytes of a number, most significant first. -/
def bytesBe (n v : Nat) : Bytes := (bytesLe n v).reverse

/-- The number a byte string holds, most significant byte first. -/
def numBe (bs : Bytes) : Nat := numLe bs.reverse

/-- `len` bytes of a string from an offset; bytes past its end are 0. -/
def slice (bs : Bytes) (off len : Nat) : Bytes :=
  let x := (bs.drop off).take len
  x ++ List.replicate (len - x.length) 0

/-- A little-endian field of a byte string. -/
def fieldLe (bs : Bytes) (off len : Nat) : Nat := numLe (slice bs off len)

/-- The bytes of a word, byte 0 first. -/
def wordBytes {n : Nat} (w : BitVec n) : Bytes := bytesLe (n / 8) w.toNat

/-- A string cut into pieces of `n` bytes; the fuel is the string's length. -/
def chunks (n : Nat) (bs : Bytes) : List Bytes :=
  let rec go : Nat → Bytes → List Bytes
    | 0, _ => []
    | _, [] => []
    | k + 1, l => l.take n :: go k (l.drop n)
  go bs.length bs

/-- One entry of a vector changed by a function. -/
def upd {α : Type} {n : Nat} (v : Vector α n) (i : Fin n) (f : α → α) : Vector α n := v.set i.val (f v[i]) i.isLt

/-- One entry of a vector replaced. -/
def vput {α : Type} {n : Nat} (v : Vector α n) (i : Fin n) (x : α) : Vector α n := v.set i.val x i.isLt

/-- Every entry of a vector changed by a function of its place. -/
def updAll {α : Type} {n : Nat} (v : Vector α n) (f : Fin n → α → α) : Vector α n := Vector.ofFn (fun i => f i v[i])

/-- The value of a key in a sparse list; `d` where it is not listed. -/
def spGet {α : Type} (d : α) (k : Nat) : List (Nat × α) → α
  | [] => d
  | (a, x) :: r => if k = a then x else spGet d k r

/-- A sparse list with one key set: the canonical form is kept, and on any list the key reads as the value and no other key changes. -/
def spSet {α : Type} [DecidableEq α] (d : α) (k : Nat) (v : α) : List (Nat × α) → List (Nat × α)
  | [] => if v = d then [] else [(k, v)]
  | (a, x) :: r =>
    if k < a then (if v = d then ((a, x) :: r).filter (fun e => e.1 != k) else (k, v) :: (a, x) :: r)
    else if k = a then (if v = d then r.filter (fun e => e.1 != k) else (k, v) :: r)
    else (a, x) :: spSet d k v r

/-- The canonical form: keys strictly rising and no entry at the default. -/
def spWf {α : Type} [DecidableEq α] (d : α) : List (Nat × α) → Bool
  | [] => true
  | [(_, x)] => decide (x ≠ d)
  | (a, x) :: (b, y) :: r => decide (x ≠ d) && decide (a < b) && spWf d ((b, y) :: r)

/-- An element put before the first it does not come after. -/
def insertBy {α : Type} (le : α → α → Bool) (x : α) : List α → List α
  | [] => [x]
  | y :: r => if le x y then x :: y :: r else y :: insertBy le x r
/-- A list in order; equal elements keep theirs. -/
def sortBy {α : Type} (le : α → α → Bool) (l : List α) : List α := l.foldr (insertBy le) []

/-- A list without repeats with one more member, rising. -/
def insertNat (k : Nat) : List Nat → List Nat
  | [] => [k]
  | a :: r => if k < a then k :: a :: r else if k = a then a :: r else a :: insertNat k r

/-- `f` done for each member of a list in order. -/
def each {α σ : Type} (l : List α) (f : α → σ → σ) (s : σ) : σ := l.foldl (fun t x => f x t) s

/-- `f` done for the numbers 0 .. n - 1 in order. -/
def count {σ : Type} (n : Nat) (f : Nat → σ → σ) (s : σ) : σ := each (List.range n) f s

/-- The first place of a list where a test holds. -/
def firstIdx {α : Type} (p : α → Bool) : List α → Option Nat
  | [] => none
  | a :: r => if p a then some 0 else (firstIdx p r).map (· + 1)

/-- All members of `Fin n`, rising. -/
def fins (n : Nat) : List (Fin n) := List.finRange n

/-- A number brought into a range. -/
def clampNat (lo hi v : Nat) : Nat := min hi (max lo v)

/-- An integer brought into a range. -/
def clampInt (lo hi v : Int) : Int := min hi (max lo v)

/-- A counter of `n` bits that holds at its top value. -/
def satAdd (n v k : Nat) : Nat := min (2 ^ n - 1) (v + k)

/-- The largest whole number whose square is at most `n`, by bisection on its bits from bit `k - 1` down. -/
def isqrtGo (n : Nat) : Nat → Nat → Nat
  | 0, r => r
  | k + 1, r => if (r + 2 ^ k) * (r + 2 ^ k) ≤ n then isqrtGo n k (r + 2 ^ k) else isqrtGo n k r

/-- The whole square root. -/
def isqrt (n : Nat) : Nat := isqrtGo n (n.log2 / 2 + 1) 0

/-- The generation after `g`: 16,383 returns to 1 (R191, R353). -/
def nextGen (g : Nat) : Nat := if 16383 ≤ g then 1 else g + 1

end Sys2Proof.Machine
end

