-- ==== Sys2Proof/Machine/Crypto.lean ====
section
/-!
DEFINITION. SHA-384 and ECDSA verification on P-384 (R228, R475, R476, R479, R485), which the spec names and leaves to their standard,
FIPS 180-4 and FIPS 186 (log 14, PRESUMED). Constants are computed as the standard defines them where it gives a definition.
-/
namespace Sys2Proof.Machine

/-- The primes below a bound, by trial division. -/
def primesBelow (n : Nat) : List Nat :=
  (List.range n).filter fun p => 2 ≤ p && (List.range p).all (fun d => d < 2 || p % d != 0)

/-- The largest whole number whose cube is at most `n`, from bit `k - 1` down. -/
def icbrtGo (n : Nat) : Nat → Nat → Nat
  | 0, r => r
  | k + 1, r => if (r + 2 ^ k) ^ 3 ≤ n then icbrtGo n k (r + 2 ^ k) else icbrtGo n k r

/-- The first 64 bits of the fractional parts of the cube roots of the first eighty primes: the round constants. -/
def shaK : List W64 := (primesBelow 410).map fun p => BitVec.ofNat 64 (icbrtGo (p * 2 ^ 192) 68 0)
/-- The first 64 bits of the fractional parts of the square roots of the ninth to sixteenth primes: the initial hash of SHA-384. -/
def shaInit : List W64 := [23, 29, 31, 37, 41, 43, 47, 53].map fun p => BitVec.ofNat 64 (isqrt (p * 2 ^ 128))

def ror64 (x : W64) (n : Nat) : W64 := (x >>> n) ||| (x <<< (64 - n))

/-- The message schedule, newest word first. -/
def shaSchedule : Nat → List W64 → List W64
  | 0, w => w
  | n + 1, w =>
    let g := fun i => w.getD i 0
    let s1 := ror64 (g 1) 19 ^^^ ror64 (g 1) 61 ^^^ (g 1 >>> 6)
    let s0 := ror64 (g 14) 1 ^^^ ror64 (g 14) 8 ^^^ (g 14 >>> 7)
    shaSchedule n ((s1 + g 6 + s0 + g 15) :: w)

/-- One round over the eight working variables. -/
def shaRound (h : List W64) (kw : W64) : List W64 :=
  match h with
  | [a, b, c, d, e, f, g, x] =>
    let t1 := x + (ror64 e 14 ^^^ ror64 e 18 ^^^ ror64 e 41) + ((e &&& f) ^^^ (~~~ e &&& g)) + kw
    let t2 := (ror64 a 28 ^^^ ror64 a 34 ^^^ ror64 a 39) + ((a &&& b) ^^^ (a &&& c) ^^^ (b &&& c))
    [t1 + t2, a, b, c, d + t1, e, f, g]
  | _ => h

/-- One block of 128 bytes. -/
def shaBlock (h : List W64) (blk : Bytes) : List W64 :=
  let w0 := (chunks 8 blk).map (fun b => BitVec.ofNat 64 (numBe b))
  let w := (shaSchedule 64 w0.reverse).reverse
  let out := (List.zipWith (· + ·) shaK w).foldl shaRound h
  List.zipWith (· + ·) h out

/-- SHA-384 of a byte string: 48 bytes. -/
def sha384 (bs : Bytes) : Bytes :=
  let zeros := (128 - (bs.length + 17) % 128) % 128
  let padded := bs ++ [0x80] ++ List.replicate zeros 0 ++ bytesBe 16 (8 * bs.length)
  (((chunks 128 padded).foldl shaBlock shaInit).flatMap (fun w => bytesBe 8 w.toNat)).take 48

/-! ### P-384 -/

def ecP : Nat := 2 ^ 384 - 2 ^ 128 - 2 ^ 96 + 2 ^ 32 - 1
def ecB : Nat := 0xb3312fa7e23ee7e4988e056be3f82d19181d9c6efe8141120314088f5013875ac656398d8a2ed19d2a85c8edd3ec2aef
def ecN : Nat := 0xffffffffffffffffffffffffffffffffffffffffffffffffc7634d81f4372ddf581a0db248b0a77aecec196accc52973
def ecGx : Nat := 0xaa87ca22be8b05378eb1c71ef320ad746e1d3b628ba79b9859f741e082542a385502f25dbf55296c3a545e3872760ab7
def ecGy : Nat := 0x3617de4a96262c6f5d9e98bf9292dc29f8f41dbd289a147ce9da3113b5f0b8c00a60b1ce1d7e819d7a431d7c90ea0e5f

/-- `a ^ e mod m`, over the low `k` bits of `e`, most significant first. -/
def powMod (m a e : Nat) : Nat → Nat → Nat
  | 0, r => r
  | k + 1, r =>
    let s := r * r % m
    powMod m a e k (if e.testBit k then s * a % m else s)

/-- The inverse modulo a prime. -/
def invMod (m a : Nat) : Nat := powMod m (a % m) (m - 2) 384 1

/-- A point of the curve: none at infinity. -/
abbrev EcPoint := Option (Nat × Nat)

/-- Whether a point in coordinates lies on P-384. -/
def ecOn (x y : Nat) : Bool := x < ecP && y < ecP && y * y % ecP == (x * x * x + (ecP - 3) * x + ecB) % ecP

/-- Addition of points. -/
def ecAdd (p q : EcPoint) : EcPoint :=
  match p, q with
  | none, q => q
  | p, none => p
  | some (x1, y1), some (x2, y2) =>
    if x1 = x2 ∧ (y1 + y2) % ecP = 0 then none
    else
      let l := if x1 = x2 then (3 * x1 * x1 + ecP - 3) * invMod ecP (2 * y1) % ecP
        else (y2 + ecP - y1) * invMod ecP (x2 + ecP - x1) % ecP
      let x3 := (l * l + 2 * ecP - x1 - x2) % ecP
      some (x3, (l * (x1 + ecP - x3) + ecP - y1) % ecP)

/-- Multiplication of a point by a number below 2^384, most significant bit first. -/
def ecMul (n : Nat) (p : EcPoint) : Nat → EcPoint → EcPoint
  | 0, r => r
  | k + 1, r =>
    let d := ecAdd r r
    ecMul n p k (if n.testBit k then ecAdd d p else d)

/-- The identifier of a 97-byte uncompressed public key (R475): bytes 0–15 of its SHA-384 digest. -/
def keyId (pub : Bytes) : Bytes := (sha384 pub).take 16

/-- Coordinates of an uncompressed point; none where its form is wrong or it is off the curve. -/
def pointOf (pub : Bytes) : Option (Nat × Nat) :=
  let x := numBe (slice pub 1 48)
  let y := numBe (slice pub 49 48)
  if pub.length = 97 ∧ pub.headD 0 = 4 ∧ ecOn x y then some (x, y) else none

/-- A stored key of 113 bytes whose identifier matches its point (R476). -/
def keyValid (k : Bytes) : Bool := k.length = 113 && (pointOf (k.drop 16)).isSome && decide (keyId (k.drop 16) = k.take 16)

/-- ECDSA verification of a 112-byte signature (identifier, r, s) by a 113-byte key over a message (R475). -/
def ecdsaOk (key msg sig : Bytes) : Bool :=
  let r := numBe (slice sig 16 48)
  let s := numBe (slice sig 64 48)
  match pointOf (key.drop 16) with
  | none => false
  | some q =>
    if r = 0 ∨ ecN ≤ r ∨ s = 0 ∨ ecN ≤ s then false
    else
      let w := powMod ecN s (ecN - 2) 384 1
      let u := numBe (sha384 msg) * w % ecN
      let v := r * w % ecN
      match ecAdd (ecMul u (some (ecGx, ecGy)) 384 none) (ecMul v (some q) 384 none) with
      | none => false
      | some (x, _) => x % ecN == r

end Sys2Proof.Machine
end

