-- ==== Sys2Proof/Machine/Msg.lean ====
section
/-!
DEFINITION. The messages that leave the block: on the CAN FD bus, on MCTP, on the control segments and the pair link, on the
straits, towards the hosts and towards CXL devices. `State` keeps them newest first.
-/
namespace Sys2Proof.Machine

/-- A message that left the block. -/
inductive Msg where
  /-- A CAN FD frame: heartbeat, boot-up, PDO (R447, R450, R454). -/
  | can (cob : Nat) (data : Bytes)
  /-- An emergency message (R452): COB-ID, code, error register, the five manufacturer bytes. -/
  | emcy (cob code reg : Nat) (mfr : Bytes)
  /-- A USDO answer to a node: an abort code, 0 for success, and the data read (R445). -/
  | usdo (node : Byte) (abort : Nat) (data : Bytes)
  /-- An MCTP message on a path (R455, R456). -/
  | mctp (path : Path) (eid : Byte) (msg : Bytes)
  /-- The answer to a direct object access of a client (R443): the abort code. -/
  | answer (cl : Client) (abort : Nat) (data : Bytes)
  /-- An SPDM response (R477, R478): response code and data. -/
  | spdm (cl : Client) (code : Nat) (data : Bytes)
  /-- A PLDM answer or request of the module as firmware device (R484): command, completion code, data. -/
  | pldm (cl : Client) (command completion : Nat) (data : Bytes)
  /-- A control frame or a last-gasp request on a segment's downlink (R326, R474). -/
  | frame (src : Mc) (bytes : Bytes)
  | gasp (src : Mc) (bytes : Bytes)
  /-- A status frame on a segment's uplink (R329). -/
  | status (seg : Mc) (bytes : Bytes)
  /-- A message on the pair link (R325). -/
  | pair (src : Mc) (m : PairMsg)
  /-- A strait packet, a flit, a retry request, lane idle control (R273, R282). -/
  | strait (i : Fin 12) (p : Packet)
  | flit (i : Fin 12) (bytes : Bytes)
  /-- A DMA write or read towards a host (R218), with the poison mark. -/
  | dmaWrite (p : Fin 2) (addr : Nat) (data : Bytes) (poisoned : Bool)
  | dmaRead (p : Fin 2) (addr len : Nat)
  /-- An MSI-X message of a vector (R206). -/
  | msix (p : Fin 2) (vector : Nat)
  /-- The completion of a BAR read, with the poison mark (R189). -/
  | barRead (p : Fin 2) (data : Bytes) (poisoned : Bool)
  /-- A configuration or memory access to a device below a CXL root port (R168). -/
  | cxlCfg (port : Nat) (bdf dword : Nat) (write : Bool) (data : Nat)
  | cxlMem (port : Nat) (offset : Nat) (data : Option Bytes) (len : Nat)
deriving DecidableEq, Repr

end Sys2Proof.Machine
end

