-- ==== Sys2Proof/Config.lean ====
section
/-!
DEFINITION. What the spec leaves to each module or leaves open: constants and free values without a body, so that nothing
can be proved about their values (log 9, 10, 14, 16).
-/
namespace Sys2Proof.Config

/-- A free value: the n-th one drawn (log 9). -/
opaque freeByte : Nat → BitVec 8
opaque freeWord : Nat → BitVec 32
/-- How many flits were in flight when a mesh link switched its lanes: the n-th free value (R100). -/
opaque meshFlits : Nat → Nat
/-- The 48 random bytes of a role challenge or of an SPDM nonce, the n-th one drawn (R479). -/
opaque random : Nat → BitVec 384
/-- Which of the results inside the bounds of R131 a special function gives: function, input. One input always gives the same result. -/
opaque sfuPick : Nat → BitVec 32 → Nat

/-- What R511 leaves to each module of its serial number: the year, the week and the sequence. -/
opaque serialYear : Nat
opaque serialWeek : Nat
opaque serialSequence : Nat
/-- A number as ASCII digits. -/
def digits (n v : Nat) : List (BitVec 8) := (List.range n).map (fun k => BitVec.ofNat 8 (48 + v / 10 ^ (n - 1 - k) % 10))
/-- The characters of the module serial number (R511): "HQ", stepping "B0" (R461), year, week, sequence, and the check. -/
def serialText : List (BitVec 8) :=
  let l := [0x48, 0x51, 0x42, 0x30] ++ digits 2 serialYear ++ digits 2 serialWeek ++ digits 6 serialSequence
  l ++ digits 2 (l.foldl (fun a b => a + b.toNat) 0 % 100)
/-- The module serial number, 16 characters, byte 0 the first. -/
def serial : BitVec 128 := BitVec.ofNat 128 (serialText.foldr (fun b a => b.toNat + 256 * a) 0)
/-- Vendor identifiers: CANopen (R461) and PCI (R455). -/
opaque vendorId : BitVec 32
opaque pciVendor : BitVec 16
/-- Firmware versions and security versions as delivered: controllers A and B, actuator driver, supervisors, power stages. -/
opaque firmware : Nat → BitVec 32
opaque securityVersion : Nat → BitVec 32
/-- The text of object 100A.00 for a firmware version; the spec gives no form (R461). -/
opaque softwareText : Nat → BitVec 128
/-- The version numbers a Get MCTP Version Support reports for a message type (R455). -/
opaque mctpVersion : BitVec 8 → BitVec 32
/-- SHA-384 digests of the firmware images and of the factory layer (R478): index of the measurement and
version of the image. -/
opaque measurement : Nat → Nat → BitVec 384
/-- The identity certificate's part of a controller's certificate chain that the spec leaves to each module, before and after the serial number it names, the public half
of its identity key, 97 bytes, and the signature (r, s) of a SHA-384 digest by that key (R475): 0 MC-A, 1 MC-B. -/
opaque certHead : Nat → List (BitVec 8)
opaque certTail : Nat → List (BitVec 8)
def certChain (i : Nat) : List (BitVec 8) := certHead i ++ serialText ++ certTail i
opaque identityKey : Nat → List (BitVec 8)
opaque identitySign : Nat → BitVec 384 → BitVec 768
/-- The two Plovxia maker keys and the firmware keys of the factory layer, 113 bytes each (R476, R479, R485). -/
opaque makerKey : Nat → List (BitVec 8)
opaque firmwareKeys : List (List (BitVec 8))
/-- The blower driver's factory current curve in mA for a duty in 0.1 % (R411). -/
opaque blowerCurve : Nat → Nat

/-- The skerry power, in 0.125 W, that a tile-clock code needs, and the package power that a code above 32 (1.6 GHz) needs under R42; the spec states neither
(R43, R89). -/
opaque clockNeed : Nat → Nat
opaque boostNeed : Nat → Nat

/-- Whether a page-table entry that a sequencer has cached is still used: sequence slot, page, free values drawn so far (R176). -/
opaque cacheKeeps : Nat → Nat → Nat → Bool

/-- Which ports an event that is no state change goes to: 0 or 1 for one port, 2 for both (R215). -/
opaque eventPorts : Nat → Fin 3

/-- The logbook record, class, code and data, of what R337, R342 and R323 have logged or reported and R453 and R469 give no code: 0 a receiver with a faulty port for segment
A, 1 a field that disagrees while the divergence alarm stands, 2 an input that has been STALE in 8 consecutive reads; and which one. -/
opaque unlistedRecord : Nat → Nat → Nat × Nat × List (BitVec 8)

/-- The credits, in flits, that a plane switch grants to each class of a link when it trains: 0 requests, 1 responses (R273, R274). -/
opaque linkCredits : Nat → Nat
/-- Whether the answer to a packet that is no twin copy is pinned: its source and packet number. No header field names the request's mode (R282, R285). -/
opaque answerPinned : Nat → Nat → Bool

/-- Where in its eight turns of the spray a narrow strait is left out (R286). -/
opaque sprayTurn : Nat → Nat

end Sys2Proof.Config
end

