-- ==== Sys2Proof/Machine/TypesMgmt.lean ====
section
/-!
DEFINITION. The records of the management side that State holds: module state and pins, power stages, the two controllers with
their dictionary values, loop slots, logbooks and images, the actuator driver, the blowers, the communication profile, the roles.
-/
namespace Sys2Proof.Machine

/-- Module states (R31). -/
inductive ModState where
  | unpowered
  | aux
  | standby
  | coolantReady
  | packageOn
  | serving
  | draining
  | ochre
  | tripped
deriving DecidableEq, Repr

/-- The coolant path's opening (R428): which step is awaited. `holding` keeps DP at the start of the hold, in 0.1 kPa. -/
inductive OpenPh where
  | idle
  | inlet
  | filling
  | closing
  | holding (dp : Int)
  | inletAgain
  | outlet
deriving DecidableEq, Repr

/-- The removal sequence (R433): commands draining, rails down, valves closing. -/
inductive DrainPh where
  | idle
  | commands
  | closing
deriving DecidableEq, Repr

/-- Module state and permission (R32, R33, R427, R428, R433, R439). Times are base ticks. `stopReq`, `goOn`: a removal or withdrawal, and a step from Coolant-ready
to Package-on, that the end of the controller cycle decides (R34). -/
structure Module where
  st : ModState
  before : ModState
  permit : Nat
  autoDone : Bool
  lastStop : Nat
  opening : OpenPh
  fillP : Nat
  decayRes : Nat
  drain : DrainPh
  rampFrom : Option Nat
  lastGaspSeen : Nat
  stopReq : Option Nat
  goOn : Bool
  upAt : Option Nat
deriving DecidableEq, Repr

/-- Contacts, switches and supplies (R421 to R425, R501, R505). Volts in 0.01 V, amperes in 0.01 A, auxiliary in mV. -/
structure Pins where
  presence : Bool
  engageA : Bool
  engageB : Bool
  ejector : Bool
  pressed : Bool
  ignored : Bool
  request : Bool
  pos : BitVec 6
  busbar : Nat
  amps : Nat
  auxMv : Nat
deriving DecidableEq, Repr

/-- The rail sequence (R430, R431). -/
inductive RailPh where
  | down
  | up (next : Nat)
  | done
  | waitRetry
  | goingDown
deriving DecidableEq, Repr

/-- The power stages (R328, R421, R430, R415, R417). -/
structure Power where
  hotSwap : Bool
  enabled : BitVec 6
  good : BitVec 6
  phase : RailPh
  laser : Bool
  latchTrip : BitVec 5
  latchInput : Bool
  iLim : Nat
  tripAck : W16
  railFaults : Nat
  supvResets : Nat
  darkened : Bool
  engFailed : BitVec 8
deriving DecidableEq, Repr

/-- What a receiver of control frames keeps (R330 to R336). `onHold`: the last frame it applied had HOLD set (R335). -/
structure Recv where
  have' : Bool
  seq : W32
  state : Nat
  src : Bool
  at' : Nat
  payload : Bytes
  idle : Nat
  timerOn : Bool
  compared : Bool
  holding : Bool
  onHold : Bool
  orphan : Bool
  uncompared : Bool
  mismatch : Bool
  appliedB : Bool
  mmField : Nat
  discarded : Nat
deriving DecidableEq, Repr

/-- What a controller holds of a receiver's last status frame (R329, R333), and how its comparisons went (R334). `named`: its
port for segment A has been named in the logbook (R337). -/
structure Tel where
  seen : Bool
  at' : Nat
  state : Nat
  seq : W32
  flags : W32
  payload : Bytes
  runs : List (Nat × Nat)
  last32 : List Bool
  named : Bool
deriving DecidableEq, Repr

/-- Slot states (R353). -/
inductive SlotSt where
  | free
  | stopped
  | running
  | frozen
  | faulted
deriving DecidableEq, Repr

/-- One loop slot's run-time registers (R353 to R383): `out`, it has computed an output since it was started; `toOwn`, its next sample seeds it with
its own output (R379); `inj`, what a test injected in the last sample (R381); `testAt`, when its test was asked for (R382). Its configuration is in the dictionary objects of R385. -/
structure Slot where
  st : SlotSt
  gen : BitVec 14
  seeded : Bool
  out : Bool
  toOwn : Bool
  ig : Int
  df : Int
  ymPrev : Int
  k : Nat
  ym : Int
  em : Int
  um : Int
  im : Int
  dm : Int
  ffm : Int
  om : Int
  jm : Int
  inj : Int
  late : Nat
  lateNow : Bool
  code : Nat
  foTime : Nat
  ranFor : Nat
  test : Nat
  testAt : Nat
  testK : Nat
  phase : Nat
  reg : Nat
deriving DecidableEq, Repr

/-- An announced-load post as the engine holds it (R367, R369): step in W, unit, lead in µs, time and package power at receipt,
whether it still counts for the allowance; `fresh` until the latch that receives it. -/
structure Post where
  fresh : Bool
  allow : Bool
  step : Int
  lead : Nat
  at' : Nat
  power : Nat
deriving DecidableEq, Repr

/-- The dispatch input (R370 to R373). The applied set-point is kept exactly. `pulses`: the periods that ended in the last 10 ms, each with the tick it ended in, its
high time and its length in ns, oldest first (R371); `loopUa`: the last ten samples of the 4-20 mA input, oldest first (R372). -/
structure Dispatch where
  valid : Bool
  status : Byte
  duty : Nat
  freq : Nat
  ua : Nat
  target : Nat
  setp : Rat
  fallback : Bool
  holding : Bool
  ramping : Bool
  recovering : Bool
  stuck : Bool
  source : Nat
  hbLost : Bool
  pulses : List (Nat × Nat × Nat)
  loopUa : List Nat
deriving DecidableEq, Repr

/-- Test-signal capture (R383). -/
structure Capture where
  status : Nat
  skip : Nat
  recs : List (List Int)
deriving DecidableEq, Repr

/-- What a controller resolves of the coolant (R386 to R396). Readings as objects carry them; times in base ticks. `stale`: consecutive STALE reads of each input
(R323): 0 TI, 1 TO, 2 FQ, 3 DP, 4 the leak loop, 5 + k the junction input 0x10 + k, 25 TI, 26 TO, 27 the leak loop of the other controller. `lastWord`: what object
3000.02 to 3000.05, FQ and DP last read, kept where a reading is missing (R453). -/
structure Cool where
  faulted : BitVec 6
  ti : Vector (Option Int) 2
  tout : Vector (Option Int) 2
  fq : Option Nat
  dp : Option Int
  lk : Vector Nat 2
  pf : Rat
  inlet : Int
  outlet : Int
  model : Option Rat
  modelValid : Bool
  flow : Option Rat
  fdp : Rat
  substituted : Bool
  loop : Vector Nat 2
  loopSeen : Vector Bool 2
  stale : Vector Nat 28
  lastWord : Vector Nat 6
deriving DecidableEq, Repr

/-- The outputs a controller computed for its next frames (R328). -/
structure Outputs where
  pkgCeil : Nat
  skCeil : Vector Nat 16
  clk : Vector Nat 16
  iLim : Nat
  rails : BitVec 6
  ch : Vector (Nat × Nat × Nat) 10
  blow : Vector Nat 2
  lateMap : W32
deriving DecidableEq, Repr

/-- A logbook record (R467). -/
structure LogRec where
  number : Nat
  cls : Nat
  flags : Byte
  stRole : Byte
  time : Nat
  code : Nat
  source : Nat
  data : Bytes
  repeat' : Nat
deriving DecidableEq, Repr

/-- A controller's logbook (R466 to R474): the ring newest first, the queue of waiting events oldest first; the last-gasp request
that goes out, and in how many more ticks (R474). -/
structure LogBook where
  ring : List LogRec
  next : Nat
  lastAt : Nat
  queue : List (Nat × LogRec)
  lost : Nat
  lostNow : Nat
  overrun : Bool
  failed : Bool
  gaspSerial : Nat
  gaspLeft : Nat
  gaspMsg : Bytes
deriving DecidableEq, Repr

/-- Core of a controller (R319, R343, R347): off, stopped (idle), running, silent after a failed self-test, rejoining. -/
inductive CoreSt where
  | off
  | starting
  | stopped
  | running
  | silent
  | rejoining
deriving DecidableEq, Repr

/-- The stored image of a controller (R457 to R460): NV values over the factory layer, the slots it defines and runs. -/
structure Stored where
  val : List (Nat × Nat)
  slots : BitVec 32
  run : BitVec 32
  serial : Nat
deriving DecidableEq, Repr

/-- Present dictionary values, keyed index × 256 + subindex, over the defaults of the object lists. -/
abbrev ObjMap := List (Nat × Nat)

/-- A condition of R453 that is present: code, source, cause, value, and whether it has been sent. -/
structure Cond where
  code : Nat
  src : Nat
  cause : Nat
  value : Nat
  sent : Bool
deriving DecidableEq, Repr

/-- A management controller (R318, R337, R343, R344, R347, R487). Its retention RAM holds `val` with the `journal` of writes since the last store (serial, object,
value; newest first), its copy of the alarm states and the frame sequence counters, its own and the mirrored one. `runs`, `last32` and `disagree`: its comparison of
the exchanged outputs (R334); `kept`: after an erasure cleared its retention RAM, the values written since (R492); `peerMeas`: the other controller's firmware digest as last
received over the pair link (R478); `round`, `roundEnd`: its self-test (R341); `okTicks`, `boundary`, `retryAt`: its rejoining (R347). -/
structure Ctrl where
  core : CoreSt
  sending : Bool
  lock : Bool
  segFail : Bool
  silentAt : List Nat
  seq : W32
  hold : Nat
  resync : BitVec 4
  val : ObjMap
  journal : List (Nat × Nat × Nat)
  jserial : Nat
  kept : Option ObjMap
  peerMeas : Bytes
  alarms : List Cond
  mirSeq : W32
  inStep : Bool
  stored : Stored
  flagErase : Bool
  slots : Vector Slot 32
  lastHandle : W32
  disp : Dispatch
  cap : Capture
  cool : Cool
  out : Outputs
  applied : Nat
  selected : Nat
  posts : List Post
  ovh : Rat
  ovhSeeded : Bool
  lateCount : Nat
  lateAt : Option Nat
  computing : Bool
  tel : Vector Tel 19
  runs : List (Nat × Nat)
  last32 : List Bool
  disagree : Bool
  round : Bool
  roundEnd : Option Nat
  okTicks : Nat
  boundary : Option W32
  retryAt : Nat
  deriving DecidableEq, Repr

/-- What a controller keeps apart from control (R466, R468, R478, R486, R487): logbook, counters, its copy of calendar time, firmware, and the measurement digest last
received from the other controller. -/
structure CtrlNv where
  log : LogBook
  cycles : Nat
  seconds : Nat
  frac : Nat
  calendar : Nat
  calFrac : Nat
  calValid : Bool
  fw : Vector Nat 2
  bankB : Bool
  secVer : Vector Nat 4
deriving DecidableEq, Repr

/-- The controller pair (R325, R337 to R347, R351). `active`: 0 MC-A, 1 MC-B, 0xFF none. `handover`: since when MC-A has the control back while MC-B still
serves the dictionary (R347). -/
structure Pair where
  active : Nat
  handover : Option Nat
  link : Bool
  linkAt : Vector Nat 2
  alarm : Bool
  gap : Bool
  gapWrites : Bool
  takeovers : Nat
  switchbacks : Nat
  rounds : Nat
  result : W16
  stale : Nat
  hostEvent : W16
  hostSerial : Nat
  hostQ : List W16
  tripAck : W16
  restart : Vector Nat 2
deriving DecidableEq, Repr

/-- Phases of an actuator channel (R397 to R402). -/
inductive ChPhase where
  | off
  | waitBoost
  | waitSwitch
  | waitIso
  | peak
  | hold
  | decay
deriving DecidableEq, Repr

/-- One actuator channel (R397 to R407). `fading`: a decay still runs while a new peak waits (R400, R401). -/
structure Chan where
  phase : ChPhase
  mode : Nat
  duty : Nat
  freq : Nat
  fault : Nat
  pos : Nat
  current : Nat
  judged : Bool
  stuck : Nat
  locked : Bool
  decayEnd : Option Nat
  fading : Bool
  probes : Nat
  pulsing : Bool
  pDuty : Nat
  pFreq : Nat
deriving DecidableEq, Repr

/-- The actuator driver (R397 to R408, R413 to R418). `loop`: 0 Dry, 1 Wet, 2 Short, 3 Open, per loop. -/
structure Actuator where
  ch : Vector Chan 10
  boost : Bool
  boostV : Nat
  latch : BitVec 5
  nvCauses : BitVec 5
  tripAck : W16
  loop : Vector Nat 2
  loopSeen : Vector Bool 2
  drySince : Vector Nat 2
  confirmed : Bool
  to1 : Option Int
  to2 : Option Int
  seconds : Nat
  frac : Nat
  cycles : Nat
  gasp : Vector Bytes 16
  gaspNext : Nat
  gaspSeen : List (Nat × Nat)
  stuckCount : Nat
  trips : Nat
  clamps : Nat
deriving DecidableEq, Repr

/-- One blower (R409 to R412). `staleRun`: consecutive STALE reads of its tach count (R323). -/
structure Blower where
  duty : Nat
  restart : Byte
  full : Bool
  starting : Bool
  stalled : Bool
  tachBroken : Bool
  retry : Nat
  startedAt : Nat
  rpm : W16
  ma : W16
  staleRun : Nat
deriving DecidableEq, Repr

/-- A transmit PDO's record (R450). -/
structure Tpdo where
  last : Bytes
  at' : Nat
  ever : Bool
deriving DecidableEq, Repr

/-- An EMCY waiting to be sent (R452). -/
structure Emcy where
  code : Nat
  src : Nat
  cause : Nat
  value : Nat
deriving DecidableEq, Repr

/-- A segmented USDO transfer (R445). -/
structure Usdo where
  node : Byte
  key : Nat
  write : Bool
  complete : Bool
  data : Bytes
deriving DecidableEq, Repr

/-- CANopen and MCTP state (R444 to R456). `asked`: the dictionary requests taken in this tick, whose responses count as outstanding until its end (R456, log 22);
`i3cAddr`: the dynamic address both controllers share (R455). -/
structure Comm where
  nodeId : Nat
  nmt : Nat
  queue : List Emcy
  dropped : Nat
  emcyAt : Option Nat
  hist : List Nat
  conds : List Cond
  events : List (Nat × Nat)
  tpdo : Vector Tpdo 8
  rpdoAt : Vector Nat 8
  hbLost : Vector Bool 4
  sessions : List Usdo
  asked : List (Path × Byte)
  i3cAddr : Byte
  eid : Vector Byte 3
  areasFactory : Nat
  restPend : Nat
  stores : Nat
  eventsAnn : Nat
  lastAnn : Nat
  sums : Vector Nat 8
  lastSums : List Nat
deriving DecidableEq, Repr

/-- A role a client holds (R479, R480). -/
structure RoleHold where
  client : Client
  role : Nat
  at' : Nat
deriving DecidableEq, Repr

/-- A challenge (R479). -/
structure Challenge where
  client : Client
  value : Bytes
  at' : Nat
  used : Bool
deriving DecidableEq, Repr

/-- An SPDM connection or session (R477). -/
structure SpdmConn where
  client : Client
  stage : Nat
  session : Option Nat
  established : Bool
  at' : Nat
deriving DecidableEq, Repr

/-- A PLDM firmware update (R484 to R488). -/
structure Update where
  agent : Client
  comp : Option Nat
  version : Nat
  size : Nat
  image : Bytes
  dropped : Bool
  verified : List (Nat × Nat × Nat)
deriving DecidableEq, Repr

/-- Roles, return state, attestation, update (R475 to R493). -/
structure Security where
  roles : List RoleHold
  challenges : List Challenge
  refusedAt : List Nat
  blockUntil : Nat
  ret : Nat
  erased : W16
  spdm : List SpdmConn
  update : Option Update
  rxVer : Vector Nat 3
  staged : List (Nat × Nat × Nat)
  runSec : Vector Nat 4
  activating : Nat
deriving DecidableEq, Repr

end Sys2Proof.Machine
end

