-- ==== Sys2Proof/Machine/Objects.lean ====
section
/-!
DEFINITION. The object dictionary's lists: type, access, minimum role, range and factory default of every entry
(R351, R384, R385, R419, R439, R441, R449, R451, R461 to R464).
-/
namespace Sys2Proof.Machine

/-- CiA 301 data types (R441). -/
inductive OTy where
  | u8
  | u16
  | u32
  | u64
  | i8
  | i16
  | i32
  | str (n : Nat)
  | oct (n : Nat)
  | domain
deriving DecidableEq, Repr

/-- Access codes of R10 and R15. -/
inductive OAcc where
  | ro
  | rw
  | nv
  | wo
  | const
deriving DecidableEq, Repr

/-- An entry of the dictionary: `role` is the minimum role (0 operator, 1 installer, 2 maker); values outside `lo..hi` are refused as
too low or too high, or with the general code where the object is an encoding (R443). -/
structure OInfo where
  ty : OTy
  acc : OAcc
  role : Nat
  dflt : Int
  lo : Int
  hi : Int
  enc : Bool
deriving DecidableEq, Repr

/-- Bytes of a type; 0 for a DOMAIN. -/
def OTy.size : OTy → Nat
  | .u8 | .i8 => 1
  | .u16 | .i16 => 2
  | .u32 | .i32 => 4
  | .u64 => 8
  | .str n | .oct n => n
  | .domain => 0

/-- Whether values of the type are signed. -/
def OTy.signed : OTy → Bool
  | .i8 | .i16 | .i32 => true
  | _ => false

/-- A plain type of up to 32 bits, which can be mapped (R449). -/
def OTy.plain32 : OTy → Bool
  | .u8 | .u16 | .u32 | .i8 | .i16 | .i32 => true
  | _ => false

/-- A string or a DOMAIN, which a read over MCTP takes by offset (R441, R456). -/
def OTy.long : OTy → Bool
  | .str _ | .oct _ | .domain => true
  | _ => false

/-- The key of index and subindex. -/
def okey (i s : Nat) : Nat := i * 256 + s

/-- Full range of a type. -/
def fullLo (t : OTy) : Int := if t.signed then -(2 ^ (8 * t.size - 1) : Nat) else 0
def fullHi (t : OTy) : Int := if t.signed then (2 ^ (8 * t.size - 1) : Nat) - 1 else (2 ^ (8 * t.size) : Nat) - 1

def oRo (i s : Nat) (t : OTy) (d : Int) : Nat × OInfo := (okey i s, ⟨t, .ro, 0, d, fullLo t, fullHi t, false⟩)
def oConst (i s : Nat) (t : OTy) (d : Int) : Nat × OInfo := (okey i s, ⟨t, .const, 0, d, fullLo t, fullHi t, false⟩)
def oSet (a : OAcc) (i s : Nat) (t : OTy) (r : Nat) (d lo hi : Int) (enc : Bool) : Nat × OInfo :=
  (okey i s, ⟨t, a, r, d, lo, hi, enc⟩)

/-- 2000–23FF (R462). -/
def objIdentity : List (Nat × OInfo) :=
  [oConst 0x2000 1 (.str 16) 0, oConst 0x2000 2 (.str 8) 0, oConst 0x2000 3 .u8 0xB0, oRo 0x2000 4 .u32 0, oRo 0x2000 5 .u32 0,
   oRo 0x2000 6 .u32 0, oRo 0x2000 7 .u32 0,
   oSet .nv 0x2010 1 .u8 1 0 0 127 false, oSet .nv 0x2010 2 .u8 1 0 0 126 false, oRo 0x2010 3 .u8 1, oRo 0x2010 4 .u8 127,
   oSet .nv 0x2010 5 .u8 1 0 0 1 true, oSet .nv 0x2010 6 .u8 1 1 0 1 true,
   oRo 0x2020 1 .u32 0, oRo 0x2020 2 .u16 0, oRo 0x2020 3 .u32 0, oRo 0x2020 4 .u16 0]

/-- 2400–2FFF (R439). -/
def objPower : List (Nat × OInfo) :=
  [oRo 0x2400 1 .u8 1, oSet .rw 0x2400 2 .u8 0 0 0 2 true, oSet .nv 0x2400 3 .u8 1 0 0 2 true, oRo 0x2400 4 .u8 0, oRo 0x2400 5 .u16 0,
   oRo 0x2400 6 .u16 0, oRo 0x2400 7 .u16 0, oRo 0x2400 8 .u16 0, oRo 0x2400 9 .u8 0, oRo 0x2400 0xA .u32 0, oRo 0x2400 0xB .u16 0,
   oRo 0x2400 0xC .u16 0, oSet .nv 0x2400 0xD .u16 1 50 10 200 false, oSet .nv 0x2400 0xE .u16 1 500 0 10000 false,
   oRo 0x2400 0xF .u8 0, oRo 0x2400 0x10 .u8 0, oRo 0x2400 0x11 .u32 0]

/-- 3000–3FFF (R419). -/
def objCoolant : List (Nat × OInfo) :=
  [oSet .nv 0x3000 1 .u8 1 1 0 1 true, oSet .nv 0x3000 2 .u16 1 7171 1000 20000 false, oSet .nv 0x3000 3 .u16 1 1000 500 1000 false,
   oRo 0x3000 4 .i16 (-32768), oRo 0x3000 5 .i16 (-32768), oRo 0x3000 6 .i16 (-32768), oRo 0x3000 8 .u16 0, oRo 0x3000 9 .u16 0,
   oRo 0x3000 0xA .u16 0, oRo 0x3000 0xB .u16 0, oRo 0x3000 0xC .u32 0,
   oRo 0x3001 1 .i16 (-32768), oRo 0x3001 2 .i16 (-32768), oRo 0x3001 3 .i16 (-32768), oRo 0x3001 4 .i16 (-32768),
   oRo 0x3010 1 .u16 0, oRo 0x3010 2 .u16 0, oRo 0x3010 3 .u8 0] ++
  (List.range 10).map (fun c => oRo 0x3020 (c + 1) .u16 0) ++
  [oRo 0x3020 0xB .u16 0, oSet .nv 0x3020 0xC .u8 1 10 1 40 false, oSet .wo 0x3020 0xD .u16 1 0 0 0xFFFF false, oRo 0x3020 0xE .u32 0,
   oRo 0x3030 1 .u16 0, oRo 0x3030 2 .u16 0, oRo 0x3030 3 .u8 0, oRo 0x3030 4 .u16 0, oRo 0x3030 5 .u16 0,
   oRo 0x3800 1 .u32 0, oSet .wo 0x3800 2 .u8 1 0 1 1 true, oRo 0x3800 3 .u16 24960, oRo 0x3800 4 .u8 0, oRo 0x3800 5 .u32 0,
   oRo 0x3800 6 .u32 0] ++
  (List.range 16).map (fun k => oRo 0x3880 (k + 1) (.oct 32) 0)

/-- 4000–47FF but for the slot blocks (R385), and 4800–4FFF (R351). -/
def objLoop : List (Nat × OInfo) :=
  [oRo 0x4000 1 .u32 0, oSet .nv 0x4000 2 .u16 1 160 0 800 false, oSet .nv 0x4000 3 .u16 1 1200 160 4000 false,
   oConst 0x4000 4 .u16 24960, oConst 0x4000 5 .u16 14976, oSet .nv 0x4000 6 .u16 1 5120 5120 14976 false,
   oSet .nv 0x4000 7 .u8 1 38 8 38 false, oRo 0x4000 8 .u16 0, oRo 0x4000 9 .u8 0xFF, oRo 0x4000 0xA .u16 0, oRo 0x4000 0xB .u32 0,
   oRo 0x4000 0xC .u16 0,
   oSet .nv 0x4010 1 .u8 1 0 0 2 true, oSet .nv 0x4010 2 .u16 1 2000 640 3799 false, oSet .nv 0x4010 3 .u16 1 3800 641 3800 false,
   oSet .nv 0x4010 4 .u16 0 3800 0 65535 false, oSet .nv 0x4010 5 .u32 1 5000 0 600000 false, oSet .nv 0x4010 6 .u16 1 2400 0 65535 false,
   oSet .nv 0x4010 7 .u16 1 10000 100 50000 false, oRo 0x4010 8 .u8 0, oRo 0x4010 9 .u16 0, oRo 0x4010 0xA .u16 0, oRo 0x4010 0xB .u16 0,
   oRo 0x4010 0xC .u16 0, oRo 0x4010 0xD .u16 0,
   oSet .wo 0x4020 1 .u8 1 0 0 3 true, oRo 0x4020 2 .u32 0, oSet .wo 0x4020 3 .u32 1 0 0 0xFFFFFFFF false, oRo 0x4020 4 .u32 0x01FFFFFF,
   oSet .rw 0x4600 1 .u32 1 0 0 0xFFFFFFFF false, oSet .rw 0x4600 2 .u32 1 0x0A090301 0 0xFFFFFFFF true, oSet .rw 0x4600 3 .u16 1 1 1 256 false,
   oSet .wo 0x4600 4 .u8 1 0 1 3 true, oRo 0x4600 5 .u8 0, oRo 0x4600 6 .u16 0, oRo 0x4601 0 .domain 0,
   oRo 0x4800 1 .u32 0, oRo 0x4800 2 .u8 0xFF, oRo 0x4800 3 .u32 0, oRo 0x4800 4 .u32 0, oRo 0x4800 5 .u32 0, oRo 0x4800 6 .u16 0,
   oRo 0x4800 7 .u32 0, oRo 0x4801 1 .u8 0, oRo 0x4801 2 .u8 0, oSet .wo 0x4801 3 .u8 1 0 1 3 true]

/-- 5000–5FFF (R463, R464). -/
def objSecurity : List (Nat × OInfo) :=
  [oRo 0x5000 1 .u16 0, oRo 0x5000 2 .u32 0, oRo 0x5000 3 .u8 0, oSet .rw 0x5000 4 .u16 0 0 0 16383 false,
   oSet .rw 0x5000 5 .u8 0 0 0 1 true, oRo 0x5001 0 .domain 0, oSet .nv 0x5010 1 .u8 1 0 0 1 true] ++
  (List.range 8).map (fun k => oSet .nv 0x5011 (k + 1) (.oct 113) 1 0 0 ((2 ^ 904 : Nat) - 1) false) ++
  [oRo 0x5020 1 (.oct 48) 0, oSet .wo 0x5020 2 (.oct 112) 0 0 0 ((2 ^ 896 : Nat) - 1) false, oRo 0x5020 3 .u8 0,
   oSet .wo 0x5020 4 .u8 0 0 1 1 true, oSet .nv 0x5021 1 (.oct 113) 1 0 0 ((2 ^ 904 : Nat) - 1) false,
   oSet .wo 0x5030 1 .u32 1 0 0x6E727472 0x6E727472 true, oRo 0x5030 2 .u8 0, oSet .rw 0x5040 1 .u64 0 0 0 ((2 ^ 64 : Nat) - 1) false,
   oRo 0x5040 2 .u8 0, oRo 0x5800 1 .u16 0, oRo 0x5800 2 .i16 (-32768), oRo 0x5800 3 .u16 0, oRo 0x5800 4 .u16 0] ++
  (List.range 16).map (fun s => oRo 0x5801 (s + 1) .i16 (-32768)) ++
  (List.range 16).map (fun s => oRo 0x5802 (s + 1) .u16 0) ++
  (List.range 16).map (fun s => oRo 0x5803 (s + 1) .u8 0) ++
  (List.range 8).map (fun s => oRo 0x5810 (s + 1) .u32 0) ++
  (List.range 16).map (fun s => oRo 0x5811 (s + 1) .u32 0) ++
  [oRo 0x5820 1 .u32 0, oRo 0x5820 2 .u32 0]

/-- 1000–1FFF but for the PDO objects (R461). -/
def objComm : List (Nat × OInfo) :=
  [oConst 0x1000 0 .u32 0, oRo 0x1001 0 .u8 0, oSet .rw 0x1003 0 .u8 0 0 0 0 true] ++
  (List.range 16).map (fun k => oRo 0x1003 (k + 1) .u32 0) ++
  [oConst 0x1008 0 (.str 16) 0, oConst 0x1009 0 (.str 2) 0, oRo 0x100A 0 (.str 16) 0] ++
  (List.range 10).map (fun k => oSet .rw 0x1010 (k + 1) .u32 0 1 0 0xFFFFFFFF true) ++
  (List.range 10).map (fun k => oSet .rw 0x1011 (k + 1) .u32 1 1 0 0xFFFFFFFF true) ++
  [oSet .nv 0x1014 0 .u32 1 0x80 0 0xFFFFFFFF false, oSet .nv 0x1015 0 .u16 1 10 0 0xFFFF false] ++
  (List.range 4).map (fun k => oSet .nv 0x1016 (k + 1) .u32 1 0 0 0xFFFFFFFF false) ++
  [oSet .nv 0x1017 0 .u16 1 100 0 0xFFFF false, oConst 0x1018 1 .u32 0, oConst 0x1018 2 .u32 0x4016, oConst 0x1018 3 .u32 0x00B00001,
   oConst 0x1018 4 .u32 0]

/-- The factory mappings of TPDO1–4 and RPDO1 (R451). -/
def tpdoMap : Nat → List Nat
  | 0 => [0x24000108, 0x40000810, 0x24000710, 0x40100D10, 0x38000310, 0x38000408]
  | 1 => [0x30000410, 0x30000510, 0x30000810, 0x30000A10, 0x30100308, 0x30000C20]
  | 2 => [0x24000510, 0x24000610, 0x24000908, 0x40100808, 0x40100C10, 0x40000908]
  | 3 => [0x38000120, 0x48000120, 0x40000120, 0x30300308]
  | _ => []
def rpdoMap : Nat → List Nat
  | 0 => [0x40100410]
  | _ => []

/-- The PDO objects 1400–1407, 1600–1607, 1800–1807, 1A00–1A07 (R449, R451, R461); COB-IDs are given without the node-ID. -/
def pdoInfo (i s : Nat) : Option OInfo :=
  let n := i % 8
  let inst (t : OTy) (d lo hi : Int) : Option OInfo := some ⟨t, .nv, 1, d, lo, hi, true⟩
  let mapping (m : List Nat) : Option OInfo :=
    if s = 0 then some ⟨.u8, .nv, 1, m.length, 0, 16, false⟩
    else if s ≤ 16 then inst .u32 (m.getD (s - 1) 0 : Nat) 0 0xFFFFFFFF
    else none
  if 0x1400 ≤ i ∧ i ≤ 0x1407 then
    if s = 1 then inst .u32 ((if n = 0 then 0 else 0x80000000) + 0x200 + 0x100 * (n % 4 : Nat)) 0 0xFFFFFFFF
    else if s = 2 then inst .u8 254 254 255
    else if s = 5 then inst .u16 0 0 0xFFFF
    else none
  else if 0x1600 ≤ i ∧ i ≤ 0x1607 then mapping (rpdoMap n)
  else if 0x1800 ≤ i ∧ i ≤ 0x1807 then
    if s = 1 then inst .u32 ((if n < 4 then 0 else 0x80000000) + 0x180 + 0x100 * (n % 4 : Nat)) 0 0xFFFFFFFF
    else if s = 2 then inst .u8 254 254 255
    else if s = 3 then inst .u16 (if n < 4 then 1000 else 0) 0 0xFFFF
    else if s = 5 then inst .u16 (if n < 4 then 1000 else 0) 0 0xFFFF
    else none
  else if 0x1A00 ≤ i ∧ i ≤ 0x1A07 then mapping (tpdoMap n)
  else none

/-- The junction table of R384 in 1/16 K and 1/256 W/K. -/
def junctionX : List Int := [-160, -128, -96, -80, -64, -48, -32, -16, 0, 16, 32, 64, 96, 128, 160, 192]
def junctionG : List Int :=
  [102400, 102400, 102400, 83200, 64000, 44800, 25600, 25600, 25600, 25600, 19200, 12800, 12800, 12800, 12800, 12800]
/-- The blower schedule of R409: breakpoints in 1/16 °C, duties in 1/16 %. -/
def blowerX : List Int := [0, 560, 640, 720, 800, 880, 960, 1040]
def blowerG : List Int := [320, 400, 480, 640, 800, 1040, 1280, 1600]

/-- What R384 gives a factory slot: objects B+0.05 to B+0.13, B+1, B+2, B+3, then the tables. -/
structure SlotFactory where
  b0 : List Int
  sp : List Int
  ex : List Int
  ki : Int
  xs : List Int
  gs : List Int
deriving DecidableEq, Repr

/-- The factory loop set (R384). A slot that it leaves Free has zeros and one breakpoint in use (log 17). -/
def slotFactory (n : Nat) : SlotFactory :=
  if n = 0 then ⟨[0, 0, 1, 1, 1, 1, 14976, 0, 100, 2000, 0, 0, 0, 0, 1], [0, 5120, 24960], [0, -8, -3, -16, 0, 0], 3277, [0], [128]⟩
  else if n = 1 then ⟨[0, 0, 2, 1, 2, 1, 14976, 0, 192, 1000, 0, 0, 0, 0, 1], [5568, 5120, 24960], [-6, -4, -3, -16, 0, 0], 1311, [0], [320]⟩
  else if n = 2 then ⟨[1, 9, 3, 1, 0, 1, 14976, 0, 80, 60000, 0, 0, 0, 0, 1], [1040, 5120, 24960], [-4, -8, -3, -16, 0, 0], 655, [0], [25600]⟩
  else if n < 19 then
    ⟨[1, 9, 0x10 + (n - 3 : Nat), 1, 0, 1, 14976, 0, 128, 10000, 0, 0, 0, 0, 16], [1472, 5120, 24960], [-4, -8, -3, -16, 0, 0], 655,
      junctionX, junctionG⟩
  else if n < 23 then
    ⟨[2, 99, 0x20 + (n - 19 : Nat), 0x14 + (n - 19 : Nat), 3, 1, 0, 0, 160, 30000, -1311, 2000, 0, 0, 1], [1360, 0, 20480],
      [-4, -8, -8, -16, 0, -16], 1311, [0], [1024]⟩
  else if n < 25 then
    ⟨[3, 49, 3, 0x20 + (n - 23 : Nat), 0, 1, 1600, 0, 0, 0, 0, 0, 1, 48, 8], [0, 0, 1600], [-4, 0, -4, 0, 0, 0], 0, blowerX, blowerG⟩
  else ⟨[0, 0, 0, 0, 0, 0, 0, 0, 0, 0, 0, 0, 0, 0, 1], [0, 0, 0], [0, 0, 0, 0, 0, 0], 0, [], []⟩

/-- The base index of a slot's block (R385). -/
def slotBase (n : Nat) : Nat := 0x4100 + 0x20 * n

/-- A slot object's entry: the block offset `o` and subindex `s` of slot `n` (R385). -/
def slotInfo (n o s : Nat) : Option OInfo :=
  let f := slotFactory n
  let m18 (d : Int) : Option OInfo := some ⟨.i32, .nv, 1, d, -131072, 131071, false⟩
  let ro (t : OTy) : Option OInfo := some ⟨t, .ro, 0, 0, fullLo t, fullHi t, false⟩
  let nv (t : OTy) (d lo hi : Int) (e : Bool) : Option OInfo := some ⟨t, .nv, 1, d, lo, hi, e⟩
  let d0 : Int := f.b0.getD (s - 5) 0
  if o = 0 then
    if s = 1 then ro .u32 else if s = 2 then ro .u8
    else if s = 3 then some ⟨.u8, .wo, 1, 0, 1, 4, true⟩ else if s = 4 then some ⟨.u8, .wo, 0, 0, 1, 1, true⟩
    else if s = 5 then nv .u8 d0 0 3 true else if s = 6 then nv .u16 d0 0 999 false
    else if s = 7 then nv .u8 d0 0 0x30 true else if s = 8 then nv .u8 d0 0 0x21 true
    else if s = 9 then nv .u8 d0 0 3 true else if s = 0xA then nv .u8 d0 0 1 true
    else if s = 0xB then m18 d0 else if s = 0xC then ro .u8 else if s = 0xD then m18 d0
    else if s = 0xE then nv .u32 d0 0 0xFFFFFFFF false else if s = 0xF then m18 d0
    else if s = 0x10 then nv .u16 d0 0 0xFFFF false else if s = 0x11 then nv .u8 d0 0 1 true
    else if s = 0x12 then m18 d0 else if s = 0x13 then nv .u8 d0 1 16 false else none
  else if o = 1 then if 1 ≤ s ∧ s ≤ 3 then m18 (f.sp.getD (s - 1) 0) else none
  else if o = 2 then if 1 ≤ s ∧ s ≤ 6 then nv .i8 (f.ex.getD (s - 1) 0) (-32) 31 false else none
  else if o = 3 then
    if s = 1 then m18 f.ki else if s = 2 then m18 0 else if s = 3 then nv .u8 0 0 7 false else none
  else if o = 4 then if 1 ≤ s ∧ s ≤ 16 then m18 (f.xs.getD (s - 1) 0) else none
  else if o = 5 then if 1 ≤ s ∧ s ≤ 16 then m18 (f.gs.getD (s - 1) 0) else none
  else if o = 6 then if 1 ≤ s ∧ s ≤ 7 then ro .i32 else if s = 8 then ro .u8 else none
  else if o = 7 then
    let rw (t : OTy) (d lo hi : Int) (e : Bool) : Option OInfo := some ⟨t, .rw, 1, d, lo, hi, e⟩
    if s = 1 then rw .u8 0 0 3 true else if s = 2 then rw .u8 0 0 1 true else if s = 3 then rw .i32 0 (-131072) 131071 false
    else if s = 4 ∨ s = 5 then rw .u32 0 0 0xFFFFFFFF false else if s = 6 then rw .u16 0 1 65535 false
    else if s = 7 then rw .u8 1 1 255 false else if s = 8 then some ⟨.u8, .wo, 1, 0, 1, 2, true⟩
    else if s = 9 then ro .u8 else none
  else none

/-- Every listed entry but the PDO objects and the slot blocks. -/
def objList : List (Nat × OInfo) := objComm ++ objIdentity ++ objPower ++ objCoolant ++ objLoop ++ objSecurity

/-- The slot, block offset of an index of a slot block. -/
def slotOf (i : Nat) : Option (Nat × Nat) :=
  if 0x4100 ≤ i ∧ i < 0x4500 then some ((i - 0x4100) / 0x20, (i - 0x4100) % 0x20) else none

/-- Whether an accepted write of an entry stores its value; the others are commands (R443). -/
def storesValue (i s : Nat) : Bool :=
  !(i = 0x1003 || i = 0x1010 || i = 0x1011 || (i = 0x2400 && s = 2) || (i = 0x3020 && s = 0xD) || (i = 0x3800 && s = 2) || (i = 0x4020 && (s = 1 || s = 3)) ||
    (i = 0x4600 && s = 4) || (i = 0x4801 && s = 3) || (i = 0x5020 && (s = 2 || s = 4)) || (i = 0x5030 && s = 1) || (i = 0x5040 && s = 1)) &&
  (match slotOf i with | some (_, o) => !((o = 0 && (s = 3 || s = 4)) || (o = 7 && s = 8)) | none => true)
/-- Whether storing its value is all that an accepted write of an entry does: not so for what supervises RPDOs and heartbeats (R450, R453, R454). -/
def plainObject (i s : Nat) : Bool := storesValue i s && i ≠ 0x1016 && !(0x1400 ≤ i && i ≤ 0x1407)

/-- The highest subindex of an ARRAY or RECORD entry; none where the index does not exist or is of plain type (R440). -/
def highestSub (i : Nat) : Option Nat :=
  let top := objList.foldl (fun a e => if e.1 / 256 = i then max a (e.1 % 256) else a) 0
  if 0x1400 ≤ i ∧ i ≤ 0x1407 then some 5
  else if 0x1800 ≤ i ∧ i ≤ 0x1807 then some 5
  else if (0x1600 ≤ i ∧ i ≤ 0x1607) ∨ (0x1A00 ≤ i ∧ i ≤ 0x1A07) then some 16
  else match slotOf i with
    | some (_, o) => [(0, 0x13), (1, 3), (2, 6), (3, 3), (4, 16), (5, 16), (6, 8), (7, 9)].lookup o
    | none => if top = 0 then none else some top

/-- The entry at an index and subindex (R440). -/
def objInfo (i s : Nat) : Option OInfo :=
  match objList.lookup (okey i s) with
  | some e => some e
  | none =>
    match pdoInfo i s with
    | some e => some e
    | none =>
      match (match slotOf i with | some (n, o) => slotInfo n o s | none => none) with
      | some e => some e
      | none =>
        if s = 0 then (highestSub i).map (fun h => ⟨.u8, .const, 0, (h : Int), 0, 255, false⟩) else none

/-- Whether an index exists. -/
def objIndex (i : Nat) : Bool := (objInfo i 0).isSome || (highestSub i).isSome

/-- Whether an entry's default holds the node-ID (R448, R451, R452). -/
def isCob (k : Nat) : Bool :=
  k == okey 0x1014 0 || (k % 256 == 1 && ((0x1400 ≤ k / 256 && k / 256 ≤ 0x1407) || (0x1800 ≤ k / 256 && k / 256 ≤ 0x1807)))

/-- The factory default of an entry as raw bits, for an applied node-ID (R12, R448). -/
def objDefault (nodeId k : Nat) : Nat :=
  match objInfo (k / 256) (k % 256) with
  | some e => unsgn (8 * max 1 e.ty.size) (e.dflt + (if isCob k then (nodeId : Int) else 0))
  | none => 0

/-- A value map read with its defaults, and written. -/
def omGet (nodeId k : Nat) (m : ObjMap) : Nat := (m.lookup k).getD (objDefault nodeId k)
def omSet (k v : Nat) : ObjMap → ObjMap
  | [] => [(k, v)]
  | (a, x) :: r => if k < a then (k, v) :: (a, x) :: r else if k = a then (k, v) :: r else (a, x) :: omSet k v r
def omErase (p : Nat → Bool) (m : ObjMap) : ObjMap := m.filter (fun e => !p e.1)

/-- The area subindexes of R457 that an index belongs to, other than 0x01. -/
def areaOf (i : Nat) : Nat :=
  if 0x1000 ≤ i ∧ i < 0x2000 then 2
  else if 0x2000 ≤ i ∧ i < 0x2400 then 4
  else if 0x2400 ≤ i ∧ i < 0x3000 then 5
  else if 0x3000 ≤ i ∧ i < 0x3800 then 6
  else if 0x3800 ≤ i ∧ i < 0x4000 then 7
  else if 0x4000 ≤ i ∧ i < 0x4800 then 8
  else if 0x4800 ≤ i ∧ i < 0x5000 then 9
  else if 0x5000 ≤ i ∧ i < 0x5800 then 10
  else 0

/-- Whether an area subindex covers an index (R457). -/
def areaHas (area i : Nat) : Bool :=
  if area = 1 then areaOf i ≠ 0
  else if area = 3 then 4 ≤ areaOf i
  else area ≠ 0 ∧ areaOf i = area

/-- Whether an entry is stored. -/
def isNv (k : Nat) : Bool := match objInfo (k / 256) (k % 256) with | some e => e.acc == .nv | none => false
/-- The minimum role of an entry. -/
def roleOf (k : Nat) : Nat := match objInfo (k / 256) (k % 256) with | some e => e.role | none => 2

end Sys2Proof.Machine
end

