-- ==== Sys2Proof/Machine/TypesFab.lean ====
section
/-!
DEFINITION. The records of the strait fabric (R272 to R311) and of the decode sequencers (R235 to R271), and the writes held during a
remap (R163).
-/
namespace Sys2Proof.Machine

/-- What waits for the answer of a fabric request (R289, R291): a tile's GET or PUT by its key, a fabric command, a collective operation of an
engine's slot, the shadow of a sequence in one of its stages (R304), or the rebuild of a lost page (R307). -/
inductive Owner where
  | tileGet (g : Fin 1024) (key at' : Nat)
  | tilePut (g : Fin 1024) (key : Nat)
  | copyOut (cid : Nat)
  | copyIn (cid at' : Nat)
  | coll (e : Fin 6) (slot : Fin 16) (serial : Nat)
  | arrive (e : Fin 6) (slot : Fin 16) (serial : Nat)
  | setShadow (cid : Nat) (s : Fin 128) (stage : Nat)
  | shadowEntry (s : Fin 128) (page : Nat)
  | shadowData (s : Fin 128)
  | shadowWord (s : Fin 128) (serial : Nat)
  | rebuildEntry (s : Fin 128) (page frame : Nat)
  | rebuild (s : Fin 128) (page frame at' : Nat)
deriving DecidableEq, Repr

/-- A request to a peer: the packet, its plane mode, the strait it last went on, how often it was resent (R285 to R290). -/
structure Req where
  pkt : Packet
  mode : Nat
  last : Option (Fin 12)
  tries : Nat
  owner : Owner
deriving DecidableEq, Repr

/-- A strait (R272 to R281, R311, R312). `lanes` in use; flits replayed in the last whole second and in this one; flit sequence sent, received and
acknowledged; replay buffer; credits; reach segments; the send queue of each class and whose turn it is; the receive buffer of each class, the bytes of a packet
that goes on in the next flit, the flits each buffer holds and those whose credits are to be returned. -/
structure Strait where
  st : Nat
  lanes : Byte
  switch : Nat
  port : Nat
  plane : Nat
  replays : Nat
  replaysNow : Nat
  tx : Nat
  rx : Nat
  buffer : List (Nat × Bytes)
  credReq : Nat
  credRsp : Nat
  reach : Vector (Option Bytes) 10
  outReq : List Packet
  outRsp : List Packet
  turnRsp : Bool
  inReq : List Packet
  inRsp : List Packet
  inPart : Bytes
  heldReq : Nat
  heldRsp : Nat
  oweReq : Nat
  oweRsp : Nat
deriving DecidableEq, Repr

/-- Packets being packed into flits: their bytes, the packets, what stays in the send queues, the turn, the credits left, the flits each class has paid for. -/
structure Batch where
  bytes : Bytes
  pkts : List Packet
  outReq : List Packet
  outRsp : List Packet
  turnRsp : Bool
  credReq : Nat
  credRsp : Nat
  lastReq : Nat
  lastRsp : Nat
deriving DecidableEq, Repr

/-- An export window (R178, R292). Base and length in bytes. -/
structure Export where
  enable : Bool
  rd : Bool
  wr : Bool
  base : Nat
  len : Nat
deriving DecidableEq, Repr

/-- A running collective operation (R293 to R299, R317): its descriptor and the GROUP list read with it, serial, and how far it came: phase and round, this
member's reduced chunk, whether its ARRIVE was sent and acknowledged, whether a write of its SEND was given up without an answer (R289, R295). -/
structure CeOp where
  desc : Bytes
  ids : List Nat
  serial : Nat
  phase : Nat
  round : Nat
  own : Bytes
  arriveSent : Bool
  arriveAcked : Bool
  lost : Bool
deriving DecidableEq, Repr

structure CeSlot where
  arrivals : Nat
  serial : Nat
  run : Option CeOp
  queued : Option (Bytes × List Nat)
deriving DecidableEq, Repr

/-- A chunk in an engine's receive buffer, keyed by slot, serial, phase, sender's rank and offset (R298). -/
structure Chunk where
  slot : Nat
  serial : Nat
  phase : Nat
  rank : Nat
  off : Nat
  data : Bytes
  bad : Bool
deriving DecidableEq, Repr

/-- A collective engine (R293 to R301); `failed` with its base die (R102). -/
structure Engine where
  failed : Bool
  valid : Bool
  table : Nat
  fails : Nat
  lastSlot : Nat
  lastCause : Nat
  slots : Vector CeSlot 16
  rx : List Chunk
deriving DecidableEq, Repr

/-- The strait fabric (R279, R285 to R290, R302, R311); `fcopy` holds, for each FABRIC_COPY in progress, its units met, and its failure's status and
code (R309, R310). -/
structure Str where
  modId : Nat
  domain : Nat
  discDone : Bool
  smallMax : Nat
  mShadow : Nat
  mSmall : Nat
  mTile : Nat
  retries : Nat
  timeout : Nat
  window : Nat
  partnerEn : Bool
  partner : Nat
  err : BitVec 11
  count : Vector Nat 8
  link : Vector Strait 12
  exp : Vector Export 16
  ce : Vector Engine 6
  seqNo : W32
  outst : List Req
  waiting : List Req
  twin : List (Nat × W32 × Nat)
  sprayAt : Nat
  sprayTurn : Nat
  fcopy : List (Nat × Nat × Nat × Nat)
deriving DecidableEq, Repr

/-- The shadow of a sequence on the partner (R302 to R305): record, the partner's areas, serial last written, pages of the last commit word, pages
whose mirroring was begun, tokens and automaton state the next commit word carries, tokens whose history is sent, whether a word is due, the
commands that wait for it with their result and their status if shadowing stops. -/
structure Shadow where
  record : Nat
  frameList : Nat
  history : Nat
  serial : Nat
  pages : Nat
  asked : Nat
  tokens : Nat
  gstate : Nat
  sentTokens : Nat
  due : Bool
  syncs : List (Nat × Nat × Nat)
deriving DecidableEq, Repr

/-- Sequence states (R240). -/
inductive SeqSt where
  | free
  | idle
  | generating
  | broken
deriving DecidableEq, Repr

/-- A sequence slot (R235 to R266): the GENERATE in progress if it is still attached, its limit and count, stop and drain requests, what the
sequencer holds of the context, a submitted tree and a drafted one, ring entries that wait for space, the end that waits for them. -/
structure Seq where
  st : SeqSt
  gen : Nat
  ctx : Nat
  plan : Nat
  draft : Option Nat
  cmd : Option Nat
  limit : Nat
  made : Nat
  stopReq : Bool
  loose : Bool
  length : Nat
  tree : List (Nat × Nat)
  draftTree : List (Nat × Nat)
  submitted : Bool
  drafted : Bool
  commits : Bool
  ring : List Bytes
  endWith : Option (Nat × Nat)
  poolLeaves : List Nat
  shadow : Option Shadow
deriving DecidableEq, Repr

/-- A row of a step table (R249). -/
structure Row where
  seq : Fin 128
  pos : Nat
  token : Nat
  parent : Nat
  sample : Bool
  tree : Bool
  anc : Nat
deriving DecidableEq, Repr

/-- A step that runs (R248 to R252): plan slot, kind, table, rows, the LOGITS_READY values seen by tile, tiles that still owe their END, the
tokens drawn by row (a failed draw as 2^32 and its status), the draft step's TREE_READY, whether it is aborted for a re-run, the sequences it
still serves. -/
structure DsqRun where
  plan : Fin 16
  serial : Nat
  kind : Nat
  table : Nat
  bytes : Bytes
  rows : List Row
  ready : List (Nat × Nat)
  waiting : List Nat
  drawn : List (Nat × Nat)
  treeN : Option Nat
  aborted : Bool
  live : List (Fin 128)
deriving DecidableEq, Repr

/-- A pool frame: its size shift and its two words (R173, R264). -/
structure PoolFrame where
  shift : Nat
  w0 : W64
  w1 : W64
deriving DecidableEq, Repr

/-- An entry of a sequencer's page-table cache (R176): sequence slot, page, place and words of the page-table entry. -/
structure Cached where
  seq : Nat
  page : Nat
  place : Nat
  w0 : W64
  w1 : W64
deriving DecidableEq, Repr

/-- A decode sequencer (R235, R248 to R271); `failed` with its base die (R102). -/
structure Dsq where
  failed : Bool
  loadEn : Bool
  lead : Nat
  err : BitVec 10
  wiValid : Bool
  wiCode : Nat
  wiSlot : Nat
  wiPos : Nat
  sramFrames : List PoolFrame
  gddrFrames : List PoolFrame
  leaves : List Nat
  share : List (Nat × Nat × W64 × Nat)
  maxNs : Nat
  lastNs : Nat
  count : Vector Nat 4
  run : Option DsqRun
  toggle : Bool
  draftToggle : Bool
  prevTable : Nat
  prevPlan : Nat
  commitMap : W64
  lastFirst : Nat
  pageIns : List (Nat × Nat × Nat)
  waiters : List (Nat × Nat × Nat)
  used : List (Nat × Nat × Nat)
  cache : List Cached
deriving DecidableEq, Repr

/-- Who waits until a held write has been applied (R163); nobody for a BAR access, a plan load, a collective engine and the module itself. -/
inductive HeldBy where
  | bar
  | put (g : Fin 1024) (key : Nat)
  | copy (cid : Nat)
  | packet (i : Fin 12) (p : Packet)
deriving DecidableEq, Repr

/-- A write held during a remap or reset of its slice (R163), or one of the request class that waits at the router of its source `die` for new routes (R98, R101). -/
structure Held where
  addr : Nat
  data : Bytes
  who : HeldBy
  die : Option Nat
deriving DecidableEq, Repr

def resetStrait : Strait :=
  { st := 0, lanes := 0, switch := 0, port := 0, plane := 0, replays := 0, replaysNow := 0, tx := 0, rx := 0, buffer := [],
    credReq := 0, credRsp := 0, reach := Vector.replicate 10 none, outReq := [], outRsp := [], turnRsp := false, inReq := [], inRsp := [], inPart := [],
    heldReq := 0, heldRsp := 0, oweReq := 0, oweRsp := 0 }

def resetCeSlot : CeSlot := { arrivals := 0, serial := 0, run := none, queued := none }

def resetEngine : Engine :=
  { failed := false, valid := false, table := 0, fails := 0, lastSlot := 0, lastCause := 0, slots := Vector.replicate 16 resetCeSlot, rx := [] }

/-- The fabric at its Reset column (R311). -/
def resetStr : Str :=
  { modId := 0, domain := 0, discDone := false, smallMax := 0x10, mShadow := 0, mSmall := 2, mTile := 0, retries := 3, timeout := 0x32,
    window := 0x64, partnerEn := false, partner := 0, err := 0, count := Vector.replicate 8 0, link := Vector.replicate 12 resetStrait,
    exp := Vector.replicate 16 { enable := false, rd := false, wr := false, base := 0, len := 0 }, ce := Vector.replicate 6 resetEngine,
    seqNo := 0, outst := [], waiting := [], twin := [], sprayAt := 0, sprayTurn := 0, fcopy := [] }

/-- A Free slot of generation 1 (R191, R235). -/
def resetSeq : Seq :=
  { st := .free, gen := 1, ctx := 0, plan := 0, draft := none, cmd := none, limit := 0, made := 0, stopReq := false, loose := false, length := 0,
    tree := [], draftTree := [], submitted := false, drafted := false, commits := false, ring := [], endWith := none, poolLeaves := [], shadow := none }

/-- A sequencer at its Reset column (R271). -/
def resetDsq : Dsq :=
  { failed := false, loadEn := true, lead := 0xC8, err := 0, wiValid := false, wiCode := 0, wiSlot := 0, wiPos := 0, sramFrames := [], gddrFrames := [],
    leaves := [], share := [], maxNs := 0, lastNs := 0, count := Vector.replicate 4 0, run := none, toggle := false, draftToggle := false, prevTable := 0, prevPlan := 0,
    commitMap := 0, lastFirst := 31, pageIns := [], waiters := [], used := [], cache := [] }

end Sys2Proof.Machine
end

