-- ==== Sys2Proof/Machine/TypesHost.lean ====
section
/-!
DEFINITION. The records of the host interface: rings, queues, commands in progress, regions, plans and loads, events, MSI-X (R187 to R234).
-/
namespace Sys2Proof.Machine

/-- A pair of rings (R194, R195, R206). -/
structure Ring where
  sqBase : Nat
  cqBase : Nat
  n : Nat
  m : Nat
  sqHead : Nat
  sqTail : Nat
  cqHead : Nat
  cqTail : Nat
  phase : Bool
  vector : Nat
  cnt : Nat
  tim : Nat
  unsig : Nat
deriving DecidableEq, Repr

/-- States of a live queue (R199). -/
inductive QSt where
  | active
  | stopped
  | destroying
deriving DecidableEq, Repr

/-- A live I/O queue. -/
structure Queue where
  slot : Nat
  st : QSt
  port : Fin 2
  cls : Nat
  sqReg : Nat
  cqReg : Nat
  ring : Ring
  destroyer : Option Nat
deriving DecidableEq, Repr

/-- A port's admin queue and its registers (R234). `closing` while R211 runs on it. -/
structure AdminQ where
  asq : W64
  acq : W64
  enable : Bool
  ready : Bool
  cqLog : Nat
  sqLog : Nat
  vector : Nat
  ring : Ring
  closing : Bool
deriving DecidableEq, Repr

/-- A live memory region (R216). -/
structure Region where
  slot : Nat
  port : Fin 2
  base : Nat
  len : Nat
  rd : Bool
  wr : Bool
deriving DecidableEq, Repr

/-- A command in progress (R200 to R203): its queue and the queue's generation, its entry, whether it started, its end with status
and result once it has ended, whether it is detached from its queue, whether it was fetched in Draining or in Serving (R222, R230), how many bytes of a COPY
have moved and where it stops before its end (R211, R214), the bytes of it that do not yet fill a 16-byte unit of the destination (R218), and the status that a
RUN_PLAN or its plan's state fixed when it was fetched, 0 for none (R212, R220). -/
structure Cmd where
  id : Nat
  port : Fin 2
  q : QRef
  tag : Nat
  sqHead : Nat
  entry : BitVec 512
  started : Bool
  ended : Option (Nat × Nat)
  detached : Bool
  late : Bool
  serving : Bool
  moved : Nat
  stopAt : Option Nat
  part : Bytes
  bar : Nat
deriving DecidableEq, Repr

/-- Plan states (R231). -/
inductive PlanSt where
  | free
  | loading
  | ready
  | stopped
  | unloading
deriving DecidableEq, Repr

/-- What a plan copy holds for a tile (R226, R229): program, INIT, staging bytes; and the granules its weights touch. -/
structure TileImg where
  tile : Nat
  prog : List W64
  entry : Nat
  trap : BitVec 6
  seed : W64
  ctr : W64
  staging : List (Nat × Bytes)
  granules : List Nat
deriving DecidableEq, Repr

/-- A step of a runner plan (R219): the command, its words, its timeout, the tiles that still owe an END. -/
structure RunStep where
  cmd : Nat
  words : Vector W64 4
  timeout : Nat
  waiting : List Nat
  aborted : Bool
deriving DecidableEq, Repr

/-- A plan slot (R219, R224, R229 to R231). -/
structure Plan where
  gen : Nat
  st : PlanSt
  kind : Nat
  mask : W16
  planId : Bytes
  params : Bytes
  schedule : List Nat
  imgs : List TileImg
  copies : List Nat
  copyLen : Nat
  queue : List Nat
  run : Option RunStep
  serial : Nat
  turn : Nat
  holdTo : Nat
  fall : Option (Fin 4)
  unloader : Option Nat
deriving DecidableEq, Repr

/-- A plan load in progress (R230): its command, slot, header and table, the policy and keys it took, the step reached. -/
structure Load where
  cmd : Nat
  slot : Nat
  head : Bytes
  table : Bytes
  policy : Nat
  keys : List Bytes
  stage : Nat
deriving DecidableEq, Repr

/-- A host port (R184, R186, R215, R232, R233, R234). -/
structure Port where
  st : Nat
  speed : Nat
  width : Nat
  fn : PciFn
  aq : AdminQ
  evReq : List Nat
  evQ : List Nat
  evLost : Bool
  rr : Vector Nat 4
  msix : List (Nat × BitVec 128)
  pba : List Nat
deriving DecidableEq, Repr

/-- The host interface (R187 to R234, R483). -/
structure Hif where
  err : BitVec 7
  cnt : Vector Nat 8
  port : Vector Port 2
  queues : List Queue
  qgen : List (Nat × Nat)
  rgen : List (Nat × Nat)
  regions : List Region
  plans : Vector Plan 16
  loads : List Load
  cmds : List Cmd
  nextId : Nat
  policy : Nat
  keys : List Bytes
deriving DecidableEq, Repr

def resetRing : Ring :=
  { sqBase := 0, cqBase := 0, n := 0, m := 0, sqHead := 0, sqTail := 0, cqHead := 0, cqTail := 0, phase := true, vector := 0xFFFF, cnt := 0,
    tim := 0, unsig := 0 }

def resetAdminQ : AdminQ :=
  { asq := 0, acq := 0, enable := false, ready := false, cqLog := 0, sqLog := 0, vector := 0, ring := resetRing, closing := false }

def resetPlan : Plan :=
  { gen := 1, st := .free, kind := 0, mask := 0, planId := [], params := [], schedule := [], imgs := [], copies := [], copyLen := 0, queue := [],
    run := none, serial := 0, turn := 3, holdTo := 0, fall := none, unloader := none }

/-- A function's configuration as PCIe resets it (R184, log 33). -/
def resetPciFn : PciFn := { fast := false, payload := 128, readReq := 512, relaxed := true, msixOn := false, msixMask := false }

/-- Capabilities of a function (R184): power management in D0 and D3hot, MSI-X, advanced error reporting, device serial number, flit mode and the 64 GT/s physical layer. -/
inductive PciCap where
  | powerD0D3hot
  | msiX
  | errorReporting
  | serialNumber
  | flitMode
  | phy64
deriving DecidableEq, Repr

/-- What a function's configuration space shows of its identity and capabilities (R184); those not listed are absent. -/
structure PciId where
  vendor : W16
  device : Nat
  subsystem : Nat
  revision : Nat
  classCode : Nat
  vectors : Nat
  serial : BitVec 128
  isEndpoint : Bool
  flitOnly : Bool
  widths : List Nat
  payloads : List Nat
  readMax : Nat
  tagBits : Nat
  caps : List PciCap
deriving DecidableEq, Repr

def pciId : PciId :=
  { vendor := Config.pciVendor, device := 0x4016, subsystem := 1, revision := 0xB0, classCode := 0x120000, vectors := 2048, serial := Config.serial,
    isEndpoint := true, flitOnly := true, widths := [4, 8, 16], payloads := [128, 256, 512], readMax := 4096, tagBits := 14,
    caps := [.powerD0D3hot, .msiX, .errorReporting, .serialNumber, .flitMode, .phy64] }

def resetPort : Port :=
  { st := 0, speed := 0, width := 0, fn := resetPciFn, aq := resetAdminQ, evReq := [], evQ := [], evLost := false, rr := Vector.replicate 4 0, msix := [],
    pba := [] }

/-- The host interface at its Reset column (R191, R234). -/
def resetHif : Hif :=
  { err := 0, cnt := Vector.replicate 8 0, port := Vector.replicate 2 resetPort, queues := [], qgen := [], rgen := [], regions := [],
    plans := Vector.replicate 16 resetPlan, loads := [], cmds := [], nextId := 0, policy := 0, keys := List.replicate 8 (List.replicate 113 0) }

end Sys2Proof.Machine
end

