-- ==== Sys2Proof/Machine/TypesPkg.lean ====
section
/-!
DEFINITION. The records of the package's compute side: skerries and supervisors, tiles, the mesh, the GDDR7 devices, the CXL ports.
-/
namespace Sys2Proof.Machine

/-- An entry of SKR_TILE_MAP (R103). -/
structure TileMap where
  valid : Bool
  spare : Bool
  phys : Nat
deriving DecidableEq, Repr

/-- SKR_STATUS.STATE (R103). -/
inductive SkState where
  | off
  | resetting
  | ready
  | failed
deriving DecidableEq, Repr

/-- A skerry and its package supervisor (R43, R83 to R94, R103, R149, R182, R328, R436, R437). `causes`: by which cause each logical tile faulted last. -/
structure Skerry where
  st : SkState
  req : Nat
  applied : Nat
  clkLim : Nat
  ceil : Nat
  lastCeil : Nat
  pkgCeil : Nat
  nonzero : Nat
  power : Nat
  tj : Vector W16 8
  clamp : Bool
  nap : W16
  fault : BitVec 6
  fiCause : Nat
  fiCount : Nat
  fiPhys : Nat
  fiLog : Nat
  causes : List (Nat × Nat)
  auto : Bool
  remapTile : Nat
  map : Vector TileMap 64
  phys : Vector (Nat × Nat) 68
  retired : List Nat
  remapQ : List Nat
  loading : Option (Nat × Nat)
  resetting : Nat
  supvTimes : List Nat
  hostEv : W16
  posts : Vector (List (Int × Nat × Nat)) 2
  sums : Vector (List (Nat × Nat)) 2
  selfFails : List Nat
deriving DecidableEq, Repr

/-- SRAM row counters of a skerry (R149 to R151, R182). -/
structure SramEcc where
  ceCount : Nat
  repairs : Nat
  spareLow : Bool
  rowsUsed : List (Nat × Nat)
  rowCe : List (Nat × Nat)
deriving DecidableEq, Repr

/-- An instruction that a unit holds between issue and completion (R112, R113): the word, the scalar registers it read, the seed, counter and trap mask
that stood at its place in program order (R117), its PC and that place. -/
structure Flight where
  word : W64
  x : Vector W64 16
  seed : W64
  ctr : W64
  trap : BitVec 6
  pc : Nat
  ord : Nat
deriving DecidableEq, Repr

/-- A GET or PUT that has not completed (R119): its place in program order, the registers it named, the addresses and length it read at issue, its PC; whether the
engine has served it, and the first poisoned address a peer's answer delivered. -/
structure Dma where
  key : Nat
  get : Bool
  regs : List Nat
  local' : Nat
  remote : Nat
  len : Nat
  pc : Nat
  served : Bool
  peer : Bool
  poison : Option Nat
deriving DecidableEq, Repr

/-- EXEC of SKR_T_STATUS (R103). -/
inductive Exec where
  | idle
  | running
  | waiting
  | halted
  | exception
  | faulted
deriving DecidableEq, Repr

/-- A logical tile (R103 to R144). `ord` counts issued
instructions. `inStep`: it runs a step whose END it has not reached. `stopped`: the place in program order of the recorded exception (R141). `napHeld`: the
NAP_DELAY its Gated period began with, where a write has changed the skerry's since (R93). `woken`: when a wake event reached it in Nap (R94). -/
structure Tile where
  x : Vector W64 16
  c : Vector W32 16
  pc : Nat
  exec : Exec
  idle : Nat
  flags : BitVec 6
  trap : BitVec 6
  excDetail : Nat
  excPc : Nat
  excCount : Nat
  excCode : Nat
  clocks : Nat
  seed : W64
  ctr : W64
  entry : Nat
  step : Vector W64 4
  starts : List (Vector W64 4)
  acc : List (Nat × W32)
  mat : Option Flight
  vec : Option Flight
  sfu : Option Flight
  dm : List Dma
  ord : Nat
  inStep : Bool
  stopped : Option Nat
  plan : Option (Fin 16)
  mirror : BitVec 192
  mirrorSlot : Option (Nat × Nat)
  napHeld : Option W16
  woken : Option Nat
deriving DecidableEq, Repr

/-- A mesh link (R100, R104): 0 down, 1 up, 2 training; `recent`, when flits were sent again and how many. -/
structure MeshLink where
  st : Nat
  spared : Bool
  used : Nat
  retries : Nat
  recent : List (Nat × Nat)
deriving DecidableEq, Repr

/-- An end of a synchronisation packet: a tile, a decode sequencer, a collective engine, the plan runner (R134, R137, R299). -/
inductive MeshEnd where
  | tile (g : Fin 1024)
  | dsq (n : Fin 4)
  | ce (e : Fin 6)
  | runner
deriving DecidableEq, Repr

/-- What a synchronisation packet carries: a counter add, an event of a sequencer, a step start, a raise of an engine's slot, the event that a tile of a plan has stopped on
an exception (R134, R137, R142). -/
inductive SyncBody where
  | add (cnt : Fin 16) (value : W32)
  | event (cnt : Fin 16) (value : W32)
  | start (words : Vector W64 4)
  | raise' (slot : Fin 16) (value : W32)
  | exception (plan : Fin 16)
deriving DecidableEq, Repr

/-- A packet of the synchronisation class on its way (R98, R99). -/
structure MeshPkt where
  src : MeshEnd
  dst : MeshEnd
  body : SyncBody
deriving DecidableEq, Repr

/-- The package mesh (R95 to R104). `avoid`: the links that the present routes avoid (R97, R101). `cut`: the optical engines, OF0 to OF5, OH0 and OH1, whose ports failed
with their base die (R102). `sync`: the buffers of the synchronisation class, oldest
first. Requests that wait for new routes stand among the held writes (`Chip.held`), with the transfer they belong to (`Tile.dm`) or among the fabric's waiting requests
(`Str.waiting`), responses in the receive buffer of their strait, so no class waits for another (R98). -/
structure Mesh where
  link : Vector MeshLink 42
  err : BitVec 4
  reroute : Bool
  avoid : BitVec 42
  cut : BitVec 8
  sync : List MeshPkt
deriving DecidableEq, Repr

/-- A GDDR7 device (R153, R159, R160, R164, R180). -/
structure Gddr where
  st : Nat
  cause : Nat
  ce : Nat
  ue : Nat
  retries : Nat
  retriesNow : Nat
  rdMargin : Nat
  wrMargin : Nat
  attempts : Nat
  ueTimes : List Nat
deriving DecidableEq, Repr

/-- The GDDR7 controllers (R161, R165, R166, R180). `moved`: mirror slots were given out anew and MIRROR_REBUILT is still to come; `rebuilding`: the
slices whose granules are being copied; `discarded`: writes in flight to a device as it was retired (R165). -/
structure Gmc where
  dev : Vector Gddr 24
  err : BitVec 7
  ueValid : Bool
  ueDev : Nat
  ueAddr : Nat
  scrubOn : Bool
  scrubHours : Nat
  moved : Bool
  trainDone : Bool
  mirrorGap : Bool
  copyGap : Bool
  rebuilding : List Nat
  discarded : Nat
deriving DecidableEq, Repr

/-- A CXL root port (R167, R181); `recent`, when flits were sent again and how many. -/
structure CxlPort where
  st : Nat
  width : Nat
  speed : Nat
  flit : Bool
  lopt : Bool
  devices : Nat
  err : BitVec 6
  recent : List (Nat × Nat)
deriving DecidableEq, Repr

/-- A CXL window (R169, R181). -/
structure CxlWin where
  enable : Bool
  wstate : Nat
  base : Nat
  size : Nat
  gran : Nat
  ways : Nat
  ports : Nat
deriving DecidableEq, Repr

/-- The CXL side (R167 to R170, R181). `cfgRun`: the access that runs is a write. -/
structure Cxl where
  port : Vector CxlPort 4
  win : Vector CxlWin 16
  cfgBusy : Bool
  cfgErr : Bool
  cfgWrite : Bool
  cfgRun : Bool
  cfgPort : Nat
  cfgBdf : Nat
  cfgDword : Nat
  cfgData : W32
deriving DecidableEq, Repr

end Sys2Proof.Machine
end

