-- ==== Sys2Proof/Machine/State.lean ====
section
/-!
DEFINITION. The state of the block and its reset: everything at the value R435 gives the loss of auxiliary power (log 1), every
register with no stated reset value at the value log 6 names.
-/
namespace Sys2Proof.Machine

/-- Byte memory in canonical form: addresses strictly rising, no entry at the value 0 an unlisted address reads as (log 5). -/
abbrev Memory := List Host.Cell

/-- The canonical form of a memory. -/
def Memory.wf (m : Memory) : Bool := spWf (0 : BitVec 8) m

/-- Everything the block holds but its addressed memory and its queue of commands. -/
structure Chip where
  mod : Module
  pins : Pins
  pwr : Power
  recv : Vector Recv 19
  mc : Vector Ctrl 2
  nv : Vector CtrlNv 2
  pair : Pair
  comm : Comm
  ad : Actuator
  blow : Vector Blower 2
  sec : Security
  sk : Vector Skerry 16
  ecc : Vector SramEcc 16
  tile : Vector Tile 1024
  mesh : Mesh
  gmc : Gmc
  cxl : Cxl
  hif : Hif
  str : Str
  dsq : Vector Dsq 4
  seq : Vector Seq 128
  held : List Held
  errs : List ReadFault
  sent : List Msg
  free : Nat
  time : Nat
deriving DecidableEq, Repr

/-- The block with its memory: bytes of SRAM, GDDR7, CXL windows and staging files under their local offsets (R146), and the
64-byte units whose POISON mark is set (R156), rising. -/
structure Mach where
  chip : Chip
  mem : Memory
  poison : List Nat
deriving DecidableEq, Repr

/-- The machine: the block and the commands that wait, first in first out. -/
structure State where
  m : Mach
  pending : List Instr
deriving DecidableEq, Repr

/-- The reasons a step stops the block with a fault. No command of this block stops it: the type holds one reason that no
meaning raises (safe). -/
inductive Fault where
  /-- Raised by no command (safe): the spec gives every command an effect. -/
  | none'
deriving DecidableEq, Repr

/-- The reasons a command is refused by the model. -/
inductive Refusal where
  /-- Answered by `exec` for a command without a meaning yet (safe: nothing can be proved of it). -/
  | notModelled (mnemonic : String)
deriving DecidableEq, Repr

/-- The module right after loss of auxiliary power (R40, R435). -/
def resetModule : Module :=
  { st := .unpowered, before := .unpowered, permit := 0, autoDone := true, lastStop := 0, opening := .idle, fillP := 0,
    decayRes := 0, drain := .idle, rampFrom := none, lastGaspSeen := 0, stopReq := none, goOn := false, upAt := none }

def resetPins : Pins :=
  { presence := false, engageA := false, engageB := false, ejector := false, pressed := false, ignored := false,
    request := false, pos := 0, busbar := 0, amps := 0, auxMv := 0 }

def resetPower : Power :=
  { hotSwap := false, enabled := 0, good := 0, phase := .down, laser := false, latchTrip := 0, latchInput := false, iLim := 0,
    tripAck := 0, railFaults := 0, supvResets := 0, darkened := false, engFailed := 0 }

def resetRecv : Recv :=
  { have' := false, seq := 0, state := 0, src := false, at' := 0, payload := [], idle := 0, timerOn := false, compared := false,
    holding := false, onHold := false, orphan := false, uncompared := false, mismatch := false, appliedB := false, mmField := 0, discarded := 0 }

def resetTel : Tel := { seen := false, at' := 0, state := 0, seq := 0, flags := 0, payload := [], runs := [], last32 := [], named := false }

/-- A Free slot of generation 1 (R353). -/
def resetSlot : Slot :=
  { st := .free, gen := 1, seeded := false, out := false, toOwn := false, ig := 0, df := 0, ymPrev := 0, k := 0, ym := 0, em := 0, um := 0, im := 0, dm := 0, ffm := 0,
    om := 0, jm := 0, inj := 0, late := 0, lateNow := false, code := 0, foTime := 0, ranFor := 0, test := 0, testAt := 0, testK := 0, phase := 0,
    reg := 0x7FF }

def resetDispatch : Dispatch :=
  { valid := false, status := 0, duty := 0, freq := 0, ua := 0, target := 0, setp := 0, fallback := false, holding := false,
    ramping := false, recovering := false, stuck := false, source := 0, hbLost := false, pulses := [], loopUa := [] }

def resetCool : Cool :=
  { faulted := 0, ti := Vector.replicate 2 none, tout := Vector.replicate 2 none, fq := none, dp := none, lk := Vector.replicate 2 0, pf := 0,
    inlet := -32768, outlet := -32768, model := none, modelValid := false, flow := some 0, fdp := 0, substituted := false,
    loop := Vector.replicate 2 0, loopSeen := Vector.replicate 2 false, stale := Vector.replicate 28 0,
    lastWord := Vector.replicate 6 0 }

def resetOutputs : Outputs :=
  { pkgCeil := 0, skCeil := Vector.replicate 16 0, clk := Vector.replicate 16 8, iLim := 0, rails := 0, ch := Vector.replicate 10 (0, 0, 1),
    blow := Vector.replicate 2 0, lateMap := 0 }

def resetStored : Stored := { val := [], slots := 0x01FFFFFF, run := 0x01FFFFFF, serial := 0 }

def resetCtrl : Ctrl :=
  { core := .off, sending := false, lock := false, segFail := false, silentAt := [], seq := 0, hold := 0, resync := 0xF,
    val := [], journal := [], jserial := 0, kept := none, peerMeas := List.replicate 48 0, alarms := [], mirSeq := 0, inStep := false, stored := resetStored, flagErase := false, slots := Vector.replicate 32 resetSlot,
    lastHandle := 0, disp := resetDispatch, cap := { status := 0, skip := 0, recs := [] }, cool := resetCool, out := resetOutputs,
    applied := 0, selected := 0xFF, posts := [], ovh := 0, ovhSeeded := false, lateCount := 0, lateAt := none, computing := false,
    tel := Vector.replicate 19 resetTel, runs := [], last32 := [], disagree := false, round := false, roundEnd := none, okTicks := 0, boundary := none,
    retryAt := 0 }

def resetLog : LogBook :=
  { ring := [], next := 1, lastAt := 0, queue := [], lost := 0, lostNow := 0, overrun := false, failed := false, gaspSerial := 0,
    gaspLeft := 0, gaspMsg := [] }

def resetNv : CtrlNv :=
  { log := resetLog, cycles := 0, seconds := 0, frac := 0, calendar := 0, calFrac := 0, calValid := false, fw := Vector.replicate 2 0, bankB := false, secVer := Vector.replicate 4 0 }

def resetPair : Pair :=
  { active := 0xFF, handover := none, link := false, linkAt := Vector.replicate 2 0, alarm := false, gap := false, gapWrites := false, takeovers := 0, switchbacks := 0, rounds := 0, result := 0,
    stale := 0, hostEvent := 0, hostSerial := 0, hostQ := [], tripAck := 0, restart := Vector.replicate 2 0 }

def resetComm : Comm :=
  { nodeId := 1, nmt := 127, queue := [], dropped := 0, emcyAt := none, hist := [], conds := [], events := [],
    tpdo := Vector.replicate 8 { last := [], at' := 0, ever := false }, rpdoAt := Vector.replicate 8 0, hbLost := Vector.replicate 4 false,
    sessions := [], asked := [], i3cAddr := 0, eid := Vector.replicate 3 0, areasFactory := 0, restPend := 0, stores := 0, eventsAnn := 0,
    lastAnn := 0, sums := Vector.replicate 8 0, lastSums := [] }

def resetChan : Chan :=
  { phase := .off, mode := 0, duty := 0, freq := 0, fault := 0, pos := 0, current := 0, judged := false, stuck := 0,
    locked := false, decayEnd := none, fading := false, probes := 0, pulsing := false, pDuty := 0, pFreq := 0 }

/-- The actuator driver; the sixteen last-gasp records erased, 0xFF throughout (R418). -/
def resetActuator : Actuator :=
  { ch := Vector.replicate 10 resetChan, boost := false, boostV := 0, latch := 0, nvCauses := 0, tripAck := 0, loop := Vector.replicate 2 0,
    loopSeen := Vector.replicate 2 false, drySince := Vector.replicate 2 0, confirmed := false, to1 := none, to2 := none, seconds := 0,
    frac := 0, cycles := 0, gasp := Vector.replicate 16 (List.replicate 32 0xFF), gaspNext := 1, gaspSeen := [],
    stuckCount := 0, trips := 0, clamps := 0 }

def resetBlower : Blower :=
  { duty := 0, restart := 0, full := false, starting := false, stalled := false, tachBroken := false, retry := 0, startedAt := 0, rpm := 0,
    ma := 0, staleRun := 0 }

def resetSecurity : Security :=
  { roles := [], challenges := [], refusedAt := [], blockUntil := 0, ret := 0, erased := 0,
    spdm := [], update := none, rxVer := Vector.replicate 3 0, staged := [], runSec := Vector.replicate 4 0, activating := 0 }

/-- A skerry with its registers at their Reset column (R103); the factory tile map is the identity with spares P64, P65 (log 7). -/
def resetSkerry : Skerry :=
  { st := .off, req := 0x20, applied := 0, clkLim := 0, ceil := 0, lastCeil := 0, pkgCeil := 0, nonzero := 0, power := 0,
    tj := Vector.replicate 8 0x8000, clamp := false, nap := 0x0032, fault := 0, fiCause := 0, fiCount := 0, fiPhys := 0, fiLog := 0xFF, causes := [],
    auto := true, remapTile := 0, map := Vector.ofFn (fun i => { valid := true, spare := false, phys := i.val }),
    phys := Vector.ofFn (fun p => if p.val < 64 then (0, p.val) else if p.val < 66 then (1, 0xFF) else (5, 0xFF)), retired := [],
    remapQ := [], loading := none, resetting := 0, supvTimes := [], hostEv := 0, posts := Vector.replicate 2 [], sums := Vector.replicate 2 [], selfFails := [] }

def resetEcc : SramEcc := { ceCount := 0, repairs := 0, spareLow := false, rowsUsed := [], rowCe := [] }

/-- A tile with its registers at their Reset column (R103, R108). -/
def resetTile : Tile :=
  { x := Vector.replicate 16 0, c := Vector.replicate 16 0, pc := 0, exec := .idle, idle := 3, flags := 0, trap := 0, excDetail := 0, excPc := 0,
    excCount := 0, excCode := 0, clocks := 0, seed := 0, ctr := 0, entry := 0, step := Vector.replicate 4 0, starts := [], acc := [],
    mat := none, vec := none, sfu := none, dm := [], ord := 0, inStep := false, stopped := none, plan := none,
    mirror := 0, mirrorSlot := none, napHeld := none, woken := none }

/-- The tiles at reset; the mirror of global tile g is slot g div 24 of device g mod 24 (R161). -/
def resetTiles : Vector Tile 1024 := Vector.ofFn fun g => { resetTile with mirrorSlot := some (g.val % 24, g.val / 24) }

def resetMesh : Mesh :=
  { link := Vector.replicate 42 { st := 0, spared := false, used := 0, retries := 0, recent := [] }, err := 0, reroute := false, avoid := 0, cut := 0, sync := [] }

def resetGddr : Gddr :=
  { st := 0, cause := 0, ce := 0, ue := 0, retries := 0, retriesNow := 0, rdMargin := 0, wrMargin := 0, attempts := 0, ueTimes := [] }

def resetGmc : Gmc :=
  { dev := Vector.replicate 24 resetGddr, err := 0, ueValid := false, ueDev := 0, ueAddr := 0, scrubOn := true, scrubHours := 0x18,
    moved := false, trainDone := false, mirrorGap := false, copyGap := false, rebuilding := [], discarded := 0 }

def resetCxl : Cxl :=
  { port := Vector.replicate 4 { st := 0, width := 0, speed := 0, flit := false, lopt := false, devices := 0, err := 0, recent := [] },
    win := Vector.replicate 16 { enable := false, wstate := 0, base := 0, size := 0, gran := 0, ways := 0, ports := 0 },
    cfgBusy := false, cfgErr := false, cfgWrite := false, cfgRun := false, cfgPort := 0, cfgBdf := 0, cfgDword := 0, cfgData := 0 }

/-- The whole block at reset. -/
def resetChip : Chip :=
  { mod := resetModule, pins := resetPins, pwr := resetPower, recv := Vector.replicate 19 resetRecv, mc := Vector.replicate 2 resetCtrl,
    nv := Vector.replicate 2 resetNv, pair := resetPair, comm := resetComm, ad := resetActuator, blow := Vector.replicate 2 resetBlower,
    sec := resetSecurity, sk := Vector.replicate 16 resetSkerry, ecc := Vector.replicate 16 resetEcc, tile := resetTiles,
    mesh := resetMesh, gmc := resetGmc, cxl := resetCxl, hif := resetHif,
    str := resetStr, dsq := Vector.replicate 4 resetDsq, seq := Vector.replicate 128 resetSeq, held := [], errs := [], sent := [], free := 0, time := 0 }

/-- Reset: auxiliary power off, no memory listed, no command waiting. -/
def State.reset : State := { m := { chip := resetChip, mem := [], poison := [] }, pending := [] }

end Sys2Proof.Machine
end

