-- ==== Sys2Proof/Machine/Ops.lean ====
section
/-!
DEFINITION. The operations every family shares: messages, controllers and dictionary values, logbook events, emergency messages,
ends of host commands, host events, fault summaries and announced-load posts.
-/
namespace Sys2Proof

/-- The index of a controller. -/
def Mc.ix : Mc → Fin 2
  | .a => 0
  | .b => 1
/-- The receiver's place: supervisors 0–15, AD 16, blower driver 17, power stages 18. -/
def Receiver.ix : Receiver → Fin 19
  | .sup s => ⟨s.val, by omega⟩
  | .ad => 16
  | .blower => 17
  | .power => 18
/-- The kind of a receiver (R328). -/
def Receiver.kind : Receiver → Nat
  | .sup _ => 1
  | .ad => 2
  | .blower => 3
  | .power => 4
/-- The code of a path in SOURCE of a record (R467). -/
def Path.code : Path → Nat
  | .can => 1
  | .i3c => 2
  | .pcie0 => 3
  | .pcie1 => 4
  | .internal => 5

end Sys2Proof

namespace Sys2Proof.Machine

/-- One bit shifted through the CRC-32 register of R273 (polynomial 0x04C1_1DB7, reflected as IEEE 802.3 does). -/
def crcBit (c : W32) : W32 := if c.getLsbD 0 then (c >>> 1) ^^^ 0xEDB88320 else c >>> 1
def crcByte (c : W32) (b : Byte) : W32 :=
  crcBit (crcBit (crcBit (crcBit (crcBit (crcBit (crcBit (crcBit (c ^^^ b.setWidth 32))))))))
/-- CRC-32 of a byte string (R273, R282, R327, R418, R467). -/
def crc32 (bs : Bytes) : W32 := ~~~ (bs.foldl crcByte 0xFFFFFFFF)

/-- Seconds, milliseconds in base ticks of 100 µs. -/
def secs (n : Nat) : Nat := 10000 * n
def msecs (n : Nat) : Nat := 10 * n

/-- The four-bit code of a module state (R31). -/
def ModState.code : ModState → Nat
  | .unpowered => 0
  | .aux => 1
  | .standby => 2
  | .coolantReady => 3
  | .packageOn => 4
  | .serving => 5
  | .draining => 6
  | .ochre => 7
  | .tripped => 8

/-- The other controller. -/
def other (i : Fin 2) : Fin 2 := if i = 0 then 1 else 0
def mcOf (i : Fin 2) : Mc := if i = 0 then .a else .b

/-- A controller's logbook memory fails (R474): bit 0 of 5000.03, and a last-gasp request with a new serial that goes out in three ticks: the failure code, the
controller, its operating seconds and power-cycle count, a CRC-32. -/
def CtrlNv.logFails (i : Fin 2) (code : Nat) (n : CtrlNv) : CtrlNv :=
  let body := bytesLe 1 code ++ bytesLe 1 i.val ++ [0, 0] ++ bytesLe 4 n.seconds ++ bytesLe 4 n.cycles
  { n with log := { n.log with failed := true, gaspSerial := n.log.gaspSerial + 1, gaspLeft := 3, gaspMsg := body ++ bytesLe 4 (crc32 body).toNat } }

namespace Chip

/-- A message leaves the block. -/
def send (m : Msg) (c : Chip) : Chip := { c with sent := m :: c.sent }

/-- The next free value's number (log 9). -/
def draw (c : Chip) : Chip := { c with free := c.free + 1 }
/-- The next free bytes (log 9). -/
def freeBytes (c : Chip) (n : Nat) : Bytes := (List.range n).map (fun i => Config.freeByte (c.free + i))

/-- The controller that serves the dictionary (R338): the active one, or MC-B until it has handed the service back (R347); MC-A's values stand where no
controller is active. -/
def act (c : Chip) : Fin 2 := if c.pair.active = 1 ∨ c.pair.handover.isSome then 1 else 0
/-- The active controller (R337): MC-A's place while none is. -/
def activeMc (c : Chip) : Fin 2 := if c.pair.active = 1 then 1 else 0
/-- Whether a controller is active. -/
def served (c : Chip) : Bool := c.pair.active ≠ 0xFF

/-- A dictionary value as controller `i` holds it. -/
def valOf (c : Chip) (i : Fin 2) (k : Nat) : Nat := omGet c.comm.nodeId k c.mc[i].val
/-- A dictionary value as the active controller holds it. -/
def val (c : Chip) (k : Nat) : Nat := c.valOf c.act k
/-- A value of controller `i` read as a signed number of `n` bits. -/
def sval (c : Chip) (i : Fin 2) (n k : Nat) : Int := sgn n (c.valOf i k)

def onMc (i : Fin 2) (f : Ctrl → Ctrl) (c : Chip) : Chip := { c with mc := upd c.mc i f }
def onNv (i : Fin 2) (f : CtrlNv → CtrlNv) (c : Chip) : Chip := { c with nv := upd c.nv i f }
def onSk (s : Fin 16) (f : Skerry → Skerry) (c : Chip) : Chip := { c with sk := upd c.sk s f }
def onEcc (s : Fin 16) (f : SramEcc → SramEcc) (c : Chip) : Chip := { c with ecc := upd c.ecc s f }
def onTile (g : Fin 1024) (f : Tile → Tile) (c : Chip) : Chip := { c with tile := upd c.tile g f }
def onCh (k : Fin 10) (f : Chan → Chan) (c : Chip) : Chip := { c with ad := { c.ad with ch := upd c.ad.ch k f } }
def onMod (f : Module → Module) (c : Chip) : Chip := { c with mod := f c.mod }
def onPwr (f : Power → Power) (c : Chip) : Chip := { c with pwr := f c.pwr }
def onPair (f : Pair → Pair) (c : Chip) : Chip := { c with pair := f c.pair }
def onComm (f : Comm → Comm) (c : Chip) : Chip := { c with comm := f c.comm }
def onSec (f : Security → Security) (c : Chip) : Chip := { c with sec := f c.sec }
def onHif (f : Hif → Hif) (c : Chip) : Chip := { c with hif := f c.hif }
def onPort (p : Fin 2) (f : Port → Port) (c : Chip) : Chip := c.onHif fun h => { h with port := upd h.port p f }
def onPlan (k : Fin 16) (f : Plan → Plan) (c : Chip) : Chip := c.onHif fun h => { h with plans := upd h.plans k f }
def onGmc (f : Gmc → Gmc) (c : Chip) : Chip := { c with gmc := f c.gmc }
def onDev (d : Fin 24) (f : Gddr → Gddr) (c : Chip) : Chip := c.onGmc fun g => { g with dev := upd g.dev d f }

/-- Whether the core of a controller runs or is silent, so that it sees events (R470). -/
def alive (c : Chip) (i : Fin 2) : Bool := c.mc[i].core ≠ .off && c.mc[i].core ≠ .starting

/-! ### The logbook (R466 to R472) -/

/-- Identical events (R471): class, code, source, data and role. -/
def sameEvent (a b : LogRec) : Bool :=
  a.cls == b.cls && a.code == b.code && a.source == b.source && a.data == b.data && a.stRole >>> 4 == b.stRole >>> 4

/-- An event enters a logbook at a time: folded into the newest waiting event or, with none waiting, into the last record when it is
identical and within 10 s; else it waits, and a thirty-third is lost (R471, R472). -/
def LogBook.add (t : Nat) (r : LogRec) (l : LogBook) : LogBook :=
  let fresh : LogBook :=
    if l.queue.length < 32 then { l with queue := l.queue ++ [(t, r)] }
    else { l with lost := l.lost + 1, lostNow := l.lostNow + 1, overrun := true }
  match l.queue.getLast? with
  | some (at', q) =>
    if sameEvent q r && t - at' ≤ secs 10 && q.repeat' < 0xFFFF then
      { l with queue := l.queue.dropLast ++ [(t, { q with repeat' := q.repeat' + 1 })] }
    else fresh
  | none =>
    match l.ring with
    | q :: rest =>
      if !l.failed && sameEvent q r && t - l.lastAt ≤ secs 10 && q.repeat' < 0xFFFF then
        { l with ring := { q with repeat' := q.repeat' + 1 } :: rest, lastAt := t }
      else fresh
    | [] => fresh

/-- The record of an event at controller `i` with its time form (R467, R468); `role` 0xF for none. -/
def logRec (c : Chip) (i : Fin 2) (cls code source : Nat) (data : Bytes) (role : Nat) : LogRec :=
  let cal := cls = 3 ∨ cls = 4
  let form := decide cal && c.nv[i].calValid
  { number := 0, cls := cls,
    flags := BitVec.ofNat 8 (b2n form + 2 * b2n (decide cal && !c.nv[i].calValid) + 4 * i.val),
    stRole := BitVec.ofNat 8 (c.mod.st.code + 16 * role),
    time := if form then c.nv[i].calendar else c.nv[i].seconds + 2 ^ 32 * c.nv[i].cycles,
    code := code, source := source, data := slice data 0 6, repeat' := 0 }

/-- An event observed by controller `i`. -/
def logAt (i : Fin 2) (cls code source : Nat) (data : Bytes) (role : Nat) (c : Chip) : Chip :=
  if c.alive i then
    c.onNv i fun n => { n with log := LogBook.add c.time (c.logRec i cls code source data role) n.log }
  else c

/-- A record of something the spec has logged or reported without giving it a code (log 23). -/
def logUnlisted (i : Fin 2) (kind which : Nat) (c : Chip) : Chip :=
  let r := Config.unlistedRecord kind which
  c.logAt i r.1 r.2.1 0 r.2.2 0xF

/-- An event of class 1, 2 or 5, which both controllers observe (R470). -/
def logBoth (cls code source : Nat) (data : Bytes) (c : Chip) : Chip :=
  (c.logAt 0 cls code source data 0xF).logAt 1 cls code source data 0xF

/-- An access event, class 3, recorded by the active controller alone (R470). -/
def logAccess (code source : Nat) (data : Bytes) (role : Nat) (c : Chip) : Chip := c.logAt c.act 3 code source data role

/-- A configuration event, class 4: the standby records it from the journal entry, so only while the pair link is up (R344, R470). -/
def logConfig (code source : Nat) (data : Bytes) (role : Nat) (c : Chip) : Chip :=
  let c1 := c.logAt c.act 4 code source data role
  if c.pair.link then c1.logAt (other c.act) 4 code source data role else c1

/-- SOURCE of an access or configuration record (R467). -/
def srcOf (cl : Client) : Nat := cl.path.code * 4096 + cl.id.toNat

/-! ### Emergency messages (R452, R453) -/

/-- The bit of object 1001 a code sets (R453). -/
def emcyBit (code : Nat) : Nat :=
  if code = 0x2310 then 1
  else if code = 0x3110 ∨ code = 0x3120 ∨ code = 0x3121 ∨ code = 0x3130 then 2
  else if code = 0x4210 ∨ code = 0x5040 ∨ code = 0xFF10 then 3
  else if code = 0x6310 ∨ code = 0xFF40 then 0
  else if code = 0x8110 ∨ code = 0x8130 ∨ code = 0x8210 ∨ code = 0x8250 ∨ code = 0xFF70 ∨ code = 0xFF80 then 4
  else 7

/-- The error register, object 1001: bits of present conditions and of events of the last second; bit 0 with any other (R453). -/
def errorRegister (c : Chip) : Nat :=
  let bits := c.comm.conds.map (fun x => emcyBit x.code) ++
    (c.comm.events.filter (fun e => c.time < e.2 + secs 1)).map (fun e => e.1)
  let w := bits.foldl (fun a b => a ||| 2 ^ b) 0
  if w = 0 then 0 else w ||| 1

/-- EMCYs are sent outside Aux, Ochre hold and NMT Stopped, by the active controller (R338, R447, R453). -/
def emcyOpen (c : Chip) : Bool :=
  c.served && c.comm.nmt ≠ 4 && (match c.mod.st with | .unpowered | .aux | .ochre => false | _ => true)

/-- An EMCY waits in the queue of 16, or is dropped and counted (R452). -/
def emcyQueue (e : Emcy) (c : Chip) : Chip :=
  c.onComm fun m => if m.queue.length < 16 then { m with queue := m.queue ++ [e] } else { m with dropped := m.dropped + 1 }

/-- Object 1003 takes the code with the first two manufacturer bytes (R453, R461). -/
def emcyHist (code src cause : Nat) (c : Chip) : Chip :=
  c.onComm fun m => { m with hist := ((code + src % 256 * 2 ^ 16 + cause % 256 * 2 ^ 24) :: m.hist).take 16 }

/-- Logbook record 0x0110 of an EMCY (R469). -/
def emcyLog (code src cause value : Nat) (c : Chip) : Chip :=
  let cls := if code = 0xFF01 ∨ code = 0xFF02 ∨ code = 0xFF10 ∨ code = 0xFF11 ∨ code = 0x4210 then 2 else 1
  c.logBoth cls 0x0110 0 (bytesLe 2 code ++ bytesLe 1 src ++ bytesLe 1 cause ++ bytesLe 2 value)

/-- An event of R453: recorded, kept for 1 s in the error register, and sent when sending is possible. -/
def emcyEvent (code src cause value : Nat) (c : Chip) : Chip :=
  let c1 := (c.emcyLog code src cause value).emcyHist code src cause
  let c2 := c1.onComm fun m => { m with events := (emcyBit code, c.time) :: m.events.filter (fun e => c.time < e.2 + secs 1) }
  if c2.emcyOpen then c2.emcyQueue ⟨code, src, cause, value⟩ else c2

/-- A condition of R453 arises: sent once while it is present. A present condition of the same code and source is left alone. -/
def condRaise (code src cause value : Nat) (c : Chip) : Chip :=
  if c.comm.conds.any (fun x => x.code == code && x.src == src) then c
  else
    let c1 := (c.emcyLog code src cause value).emcyHist code src cause
    let can := c1.emcyOpen
    let c2 := c1.onComm fun m => { m with conds := m.conds ++ [⟨code, src, cause, value, can⟩] }
    if can then c2.emcyQueue ⟨code, src, cause, value⟩ else c2

/-- A condition clears: code 0x0000 carries the cleared code as its value (R452). -/
def condClear (code src : Nat) (c : Chip) : Chip :=
  match c.comm.conds.find? (fun x => x.code == code && x.src == src) with
  | none => c
  | some x =>
    let c1 := (c.emcyLog code src x.cause x.value).onComm fun m =>
      { m with conds := m.conds.filter (fun y => !(y.code == code && y.src == src)) }
    if c1.emcyOpen && x.sent then c1.emcyQueue ⟨0, src, x.cause, code⟩ else c1

/-- A condition follows a test. -/
def condSet (on : Bool) (code src cause value : Nat) (c : Chip) : Chip :=
  if on then c.condRaise code src cause value else c.condClear code src

/-- A condition whose cause may change while it is present: the new cause replaces the old one. -/
def condCause (on : Bool) (code src cause value : Nat) (c : Chip) : Chip :=
  if on && c.comm.conds.any (fun x => x.code == code && x.src == src && x.cause != cause) then
    (c.condClear code src).condRaise code src cause value
  else c.condSet on code src cause value

/-- When sending becomes possible, conditions still present that were not sent are sent (R453). -/
def emcyFlush (c : Chip) : Chip :=
  if c.emcyOpen then
    let due := c.comm.conds.filter (fun x => !x.sent)
    each due (fun x (d : Chip) => d.emcyQueue ⟨x.code, x.src, x.cause, x.value⟩)
      (c.onComm fun m => { m with conds := m.conds.map (fun x => { x with sent := true }) })
  else c

end Chip

/-- A field of a submission entry, by byte offset and byte count (R200). -/
def Cmd.f (x : Cmd) (off n : Nat) : Nat := fld x.entry (8 * off) (8 * n)
/-- The opcode. -/
def Cmd.op (x : Cmd) : Nat := x.f 0 1

namespace Chip

/-! ### Host interface: ends of commands, events, counts (R189, R201, R203, R215, R234) -/

/-- Whether the package rails are on, so that the host interface exists (R186, R222). -/
def railsOn (c : Chip) : Bool := c.pwr.enabled ≠ 0
/-- Whether an optical engine works: its laser source emits and neither it nor its base die has failed (R23, R24, R102, R308); 0 to 5 for OF0 to OF5, 6 and 7 for OH0 and OH1. -/
def lit (c : Chip) (k : Nat) : Bool := c.pwr.laser && !bit c.pwr.engFailed k && !bit c.mesh.cut k
/-- Whether a host port is up (R186, R234). -/
def portUp (c : Chip) (p : Fin 2) : Bool := c.railsOn && c.hif.port[p].st == 1

/-- An error counter of HIF_ERR_COUNT rises; it saturates (R234). -/
def hifCount (k : Fin 8) (c : Chip) : Chip := c.onHif fun h => { h with cnt := upd h.cnt k (fun v => satAdd 32 v 1) }
/-- An HIF_ERR bit is set (R234). -/
def hifErr (b : Nat) (c : Chip) : Chip := c.onHif fun h => { h with err := setBit h.err b true }
/-- A refused register command or per-port write (R234): HIF_ERR.REFUSED and count 3. -/
def hifRefused (c : Chip) : Chip := (c.hifErr 3).hifCount 3

/-- The command in progress with an id. -/
def cmd? (c : Chip) (id : Nat) : Option Cmd := c.hif.cmds.find? (fun x => x.id == id)
def onCmd (id : Nat) (f : Cmd → Cmd) (c : Chip) : Chip :=
  c.onHif fun h => { h with cmds := h.cmds.map (fun x => if x.id == id then f x else x) }

/-- A command ends with a status and a result; its completion entry is written by COMPLETION_WRITE (R203). A detached command, whose
completion is never written, leaves the list (R211). -/
def endCmd (id status result : Nat) (c : Chip) : Chip :=
  match c.cmd? id with
  | some x =>
    if x.detached then c.onHif fun h => { h with cmds := h.cmds.filter (fun y => y.id != id) }
    else c.onCmd id (fun y => if y.ended.isNone then { y with started := true, ended := some (status, result) } else y)
  | none => c

/-- A command starts. -/
def startCmd (id : Nat) (c : Chip) : Chip := c.onCmd id (fun y => { y with started := true })

/-- Where a COPY that has moved some bytes stops: its next 4 KiB boundary, or its end (R211, R214). -/
def copyStop (x : Cmd) : Nat := min (x.f 32 8) ((x.moved + 4095) / 4096 * 4096)
/-- Where the transfer of a COPY ends. -/
def copyGoal (x : Cmd) : Nat := x.stopAt.getD (x.f 32 8)

/-- A COPY whose bytes have all moved, and none of whose writes is held, ends: with ABORTED when it was stopped (R203, R214). -/
def copyDone (id : Nat) (c : Chip) : Chip :=
  match c.cmd? id with
  | some x =>
    if copyGoal x ≤ x.moved ∧ !c.held.any (fun h => decide (h.who = .copy id)) then c.endCmd id (if x.stopAt.isSome then 0x11 else 0) 0 else c
  | none => c

/-- A started COPY is told to stop at its next 4 KiB boundary (R211, R214). -/
def stopCopy (id : Nat) (c : Chip) : Chip := (c.onCmd id fun y => { y with stopAt := some (copyStop y) }).copyDone id

/-- An event word completes the oldest outstanding EVENT_REQUEST of a port; LOST says that events were dropped since the last delivery (R215). -/
def deliverEvent (p : Fin 2) (id w : Nat) (c : Chip) : Chip :=
  (c.onPort p fun x => { x with evLost := false }).endCmd id 0 (w + (if c.hif.port[p].evLost then 2 ^ 27 else 0))

/-- An event word goes to a port (R215): to the oldest outstanding request; else it is queued, up to 64; else dropped. While the admin queue is
not served, outstanding requests cannot complete (R199). -/
def postEvent (p : Fin 2) (w : Nat) (c : Chip) : Chip :=
  let q := c.hif.port[p]
  let queue := c.onPort p fun x => if x.evQ.length < 64 then { x with evQ := x.evQ ++ [w] } else { x with evLost := true }
  match q.evReq with
  | id :: rest => if q.aq.ready then (c.onPort p fun x => { x with evReq := rest }).deliverEvent p id w else queue
  | [] => queue

/-- An event word (R215). -/
def eventWord (cls unit index code : Nat) : Nat := cls * 2 ^ 28 + unit * 2 ^ 20 + index * 2 ^ 8 + code

/-- A state change is told to both ports, while the host interface is powered (R215). -/
def postBoth (w : Nat) (c : Chip) : Chip := if c.railsOn then (c.postEvent 0 w).postEvent 1 w else c
/-- Any other event of the module: the spec leaves open which of the ports it goes to (R215, log 21). -/
def postEither (w : Nat) (c : Chip) : Chip :=
  if c.railsOn then
    match Config.eventPorts w with
    | 0 => c.postEvent 0 w
    | 1 => c.postEvent 1 w
    | 2 => (c.postEvent 0 w).postEvent 1 w
  else c

/-- A fault summary (R30, R513): a class 2 event to the hosts, and one entry for each controller's status frame from the skerry that
posts it (R329). -/
def faultSummary (sk : Fin 16) (unit index cause : Nat) (c : Chip) : Chip :=
  if c.railsOn then
    (c.postEither (eventWord 2 unit index cause)).onSk sk fun x => { x with sums := x.sums.map (fun l => l ++ [(unit, cause)]) }
  else c

/-- An announced-load post by a skerry: step in W, lead in µs, unit code (R268, R329). -/
def announce (sk : Fin 16) (step : Int) (lead unit : Nat) (c : Chip) : Chip :=
  c.onSk sk fun x => { x with posts := x.posts.map (fun l => l ++ [(step, lead, unit)]) }

/-! ### Pair events and module state -/

/-- A controller-pair event of R339: EMCY 0x8700 + code, record 0x0130, and a HOST_EVENT with a new serial, which a tick's frames carry in its turn. -/
def pairEvent (code : Nat) (i : Fin 2) (c : Chip) : Chip :=
  let ser := (c.pair.hostSerial + 1) % 256
  let c1 := c.onPair fun p => { p with hostSerial := ser, hostQ := p.hostQ ++ [BitVec.ofNat 16 (ser * 256 + i.val * 128 + code)] }
  (c1.emcyEvent (0x8700 + code) i.val code 0).logBoth 2 0x0130 i.val (bytesLe 1 code)

/-- Staged images of the receivers (components 2 to 4) activate at the entry to Standby (R488 step 4): the receivers restart. -/
def activateStaged (c : Chip) : Chip :=
  let due := c.sec.staged.filter (fun x => 2 ≤ x.1)
  each due (fun (x : Nat × Nat × Nat) (d : Chip) =>
    let d1 := d.onSec fun s =>
      { s with rxVer := updAll s.rxVer (fun k v => if k.val + 2 = x.1 then x.2.1 else v), runSec := updAll s.runSec (fun k v => if k.val + 1 = x.1 then x.2.2 else v) }
    let d2 : Chip := { d1 with recv := updAll d1.recv (fun k r =>
      if (x.1 = 2 ∧ k.val = 16) ∨ (x.1 = 3 ∧ k.val < 16) ∨ (x.1 = 4 ∧ k.val = 18) then resetRecv else r) }
    d2.logConfig 0x0230 (Path.internal.code * 4096) (bytesLe 1 4 ++ bytesLe 1 x.1 ++ bytesLe 4 x.2.1) 0xF)
    (c.onSec fun s => { s with staged := s.staged.filter (fun x => !decide (2 ≤ x.1)) })

/-- The module enters a state (R31, R32): record 0x0120, EMCY 0xFF40, and a class 1 event to both ports (R215).
Faulted sensor elements stay faulted until Standby is entered (R386). -/
def setState (st : ModState) (c : Chip) : Chip :=
  if c.mod.st = st then c
  else
    let old := c.mod.st
    let c0 := c.onMod fun m => { m with st := st, stopReq := none, goOn := false, upAt := if st = .serving then some c.time else none }
    let c1 := if st = .standby then { c0.activateStaged with mc := c0.activateStaged.mc.map (fun x => { x with cool := { x.cool with faulted := 0 } }) } else c0
    let c2 := c1.logBoth 2 0x0120 0 (bytesLe 1 old.code ++ bytesLe 1 st.code ++ bytesLe 1 c.mod.lastStop)
    let c3 := (c2.emcyEvent 0xFF40 c.mod.lastStop st.code 0).postBoth (eventWord 1 0 0 st.code)
    c3.emcyFlush

/-- The role a client holds: 0 operator, 1 installer, 2 maker; the maker role is usable in return state only (R15, R442, R479). -/
def roleOfClient (c : Chip) (cl : Client) : Nat :=
  match c.sec.roles.find? (fun r => decide (r.client = cl)) with
  | some r => if r.role = 2 ∧ c.sec.ret ≠ 2 then 0 else r.role
  | none => 0

/-- A role ends for a reason of R480. -/
def endRoles (p : Client → Bool) (reason : Nat) (c : Chip) : Chip :=
  let gone := c.sec.roles.filter (fun r => p r.client)
  each gone (fun (r : RoleHold) (d : Chip) => d.logAccess 0x0211 (srcOf r.client) (bytesLe 1 r.role ++ bytesLe 1 reason) r.role)
    (c.onSec fun s => { s with roles := s.roles.filter (fun r => !p r.client) })

/-- The host ports are gone: the roles of clients on MCTP over PCIe end (R480). -/
def hostsGone (c : Chip) : Chip := c.endRoles (fun x => decide (x.path = .pcie0) || decide (x.path = .pcie1)) 5

end Chip

/-- A change of everything but the memory. -/
def Mach.on (f : Chip → Chip) (m : Mach) : Mach := { m with chip := f m.chip }

end Sys2Proof.Machine
end

