-- ==== Sys2Proof/Machine/Mesh.lean ====
section
/-!
DEFINITION. Places of units on the base dies (R21 to R23) and the package mesh: links and their ends (R95), routes (R97, R101), the synchronisation packets on their way and the order they arrive in (R98, R99).
-/
namespace Sys2Proof.Machine

/-- The skerries of R21 and R22. -/
def devSkerry (d : Nat) : Fin 16 := Fin.ofNat 16 ([0, 1, 2, 3, 4, 7, 8, 11, 12, 13, 14, 15].getD (d / 2) 0)
def engSkerry (e : Nat) : Nat := if e = 5 then 7 else e
def engOf (sk : Nat) : Option (Fin 6) := if h : sk < 5 then some ⟨sk, by omega⟩ else if sk = 7 then some 5 else none
def dsqSkerry (n : Fin 4) : Fin 16 := if n = 0 then 5 else if n = 1 then 6 else if n = 2 then 9 else 10
def portSkerry (p : Fin 2) : Fin 16 := if p = 0 then 8 else 11
def cxlSkerry (p : Nat) : Fin 16 := if p < 2 then 8 else 11
/-- The sequencer that owns a sequence slot (R235). -/
def dsqOf (s : Fin 128) : Fin 4 := ⟨s.val / 32, by omega⟩

/-- The skerry whose base die carries a strait's optical engine, used where a strait fault is reported (R23, R513). -/
def Chip.strSkerry (i : Fin 12) : Fin 16 := if i.val / 2 = 5 then 7 else Fin.ofNat 16 (i.val / 2)

namespace Mach

/-- The skerries that a link joins (R95). -/
def linkEnds (l : Fin 42) : Nat × Nat :=
  if l.val < 12 then (4 * (l.val / 3) + l.val % 3, 4 * (l.val / 3) + l.val % 3 + 1)
  else if l.val < 24 then (l.val - 12, l.val - 8)
  else if l.val < 33 then (4 * ((l.val - 24) / 3) + (l.val - 24) % 3, 4 * ((l.val - 24) / 3) + (l.val - 24) % 3 + 5)
  else (4 * ((l.val - 33) / 3) + (l.val - 33) % 3 + 1, 4 * ((l.val - 33) / 3) + (l.val - 33) % 3 + 4)

end Mach

/-! ### Routes (R97, R101) -/

/-- The link that joins two skerries. -/
def linkOf (a b : Nat) : Option (Fin 42) := (fins 42).find? fun l => Mach.linkEnds l == (a, b) || Mach.linkEnds l == (b, a)

/-- One step of a row or a column towards another. -/
def toward (x y : Nat) : Nat := if x < y then x + 1 else if y < x then x - 1 else x

/-- The skerry that R97 goes to next: diagonally while row and column both differ, then orthogonally. -/
def nextDie (a b : Nat) : Nat := 4 * toward (a / 4) (b / 4) + toward (a % 4) (b % 4)

/-- The crossings of R97: the larger of the row and column distances. -/
def crossings (a b : Nat) : Nat := max (a / 4 - b / 4 + (b / 4 - a / 4)) (a % 4 - b % 4 + (b % 4 - a % 4))

/-- The links that a skerry can cross, in the order they are tried: horizontal, vertical, diagonal (R95; the choice among shortest routes, log 44). -/
def steps (avoid : BitVec 42) (a : Nat) : List (Fin 42 × Nat) :=
  (fins 42).filterMap fun l =>
    if bit avoid l.val then none
    else if (Mach.linkEnds l).1 = a then some (l, (Mach.linkEnds l).2)
    else if (Mach.linkEnds l).2 = a then some (l, (Mach.linkEnds l).1)
    else none

/-- One round of shortest distances to a skerry over the links that are not avoided; 16 stands for none. -/
def relax (avoid : BitVec 42) (b : Nat) (d : List Nat) : List Nat :=
  (List.range 16).map fun a => if a = b then 0 else (steps avoid a).foldl (fun n x => min n (d.getD x.2 16 + 1)) 16

/-- The least number of crossings from every skerry to one (R101). -/
def distances (avoid : BitVec 42) (b : Nat) : List Nat :=
  (List.range 15).foldl (fun d _ => relax avoid b d) ((List.range 16).map fun a => if a = b then 0 else 16)

/-- A shortest route by distances: the step of R97 where it is on one, else the first link that is. -/
def routeBy (avoid : BitVec 42) (d : List Nat) (b : Nat) : Nat → Nat → List (Fin 42)
  | 0, _ => []
  | k + 1, a =>
    if a = b then []
    else
      let near := (steps avoid a).filter fun x => d.getD x.2 16 + 1 == d.getD a 16
      match (near.find? fun x => x.2 == nextDie a b).or near.head? with
      | some x => x.1 :: routeBy avoid d b k x.2
      | none => []

/-- The route of R97, where it crosses no avoided link. -/
def directRoute (b : Nat) : Nat → Nat → List (Fin 42)
  | 0, _ => []
  | k + 1, a => if a = b then [] else (linkOf a (nextDie a b)).toList ++ directRoute b k (nextDie a b)

/-- The links that a packet crosses from one skerry to another while the routes avoid some links: R97's own where none of them is avoided, else the shortest
that avoids every one (R101). Every packet between the two takes it. -/
def route (avoid : BitVec 42) (a b : Nat) : List (Fin 42) :=
  let r := directRoute b 3 a
  if r.any fun l => bit avoid l.val then routeBy avoid (distances avoid b) b 16 a else r

/-- The skerry of a packet's end (R21); the spec places the plan runner on no die. -/
def MeshEnd.die : MeshEnd → Option Nat
  | .tile g => some (g.val / 64)
  | .dsq n => some (dsqSkerry n).val
  | .ce e => some (engSkerry e.val)
  | .runner => none

namespace Mesh

/-- The links that do not work. -/
def down (m : Mesh) : BitVec 42 := (fins 42).foldl (fun w l => if m.link[l].st = 1 then w else setBit w l.val true) 0

/-- Whether a packet between two skerries waits at its source router: its route uses a link that is down, and the new routes do not exist yet (R101). -/
def waits (m : Mesh) (a b : Nat) : Bool := m.reroute && (route m.avoid a b).any fun l => m.link[l].st != 1

/-- Whether a packet between two ends waits so. -/
def waitsFor (m : Mesh) (x y : MeshEnd) : Bool := match x.die, y.die with | some a, some b => m.waits a b | _, _ => false

/-- Whether a base die has no working link (R102). -/
def isolated (m : Mesh) (s : Fin 16) : Bool := (fins 42).all fun l => m.link[l].st ≠ 1 || ((Mach.linkEnds l).1 != s.val && (Mach.linkEnds l).2 != s.val)

/-- Packets enter the buffers of their class (R98). -/
def post (l : List MeshPkt) (m : Mesh) : Mesh := { m with sync := m.sync ++ l }

/-- Whether a packet can arrive now: it is the oldest from its source to its destination, and its route works (R99, R101). -/
def due (m : Mesh) (p : MeshPkt) : Bool :=
  (m.sync.find? fun q => decide (q.src = p.src) && decide (q.dst = p.dst)) == some p && !m.waitsFor p.src p.dst

/-- The mesh after a packet has arrived. -/
def took (m : Mesh) (p : MeshPkt) : Mesh := { m with sync := m.sync.erase p }

end Mesh

namespace Chip

def onMesh (f : Mesh → Mesh) (c : Chip) : Chip := { c with mesh := f c.mesh }

/-- Flits sent again on a link (R100): counted, and more than 1,000 within a second set RETRY_HIGH (R104). -/
def meshRetry (l : Fin 42) (n : Nat) (c : Chip) : Chip :=
  if n = 0 then c
  else
    let k := c.mesh.link[l]
    let recent := (c.time, n) :: k.recent.filter (fun e => c.time < e.1 + secs 1)
    let high := decide (1000 < (recent.map (·.2)).foldl (· + ·) 0)
    c.onMesh fun m => { m with link := vput m.link l { k with retries := satAdd 32 k.retries n, recent := recent },
                               err := if high then setBit m.err 0 true else m.err }

end Chip

/-- A packet for which the table has no arrival row has its effect at once, but behind earlier packets of its pair and while its route does not work it takes its place in
the buffer (R99, R101, log 44). -/
def Mach.signal (p : MeshPkt) (now : Mach → Mach) (m : Mach) : Mach :=
  if m.chip.mesh.sync.any (fun q => decide (q.src = p.src) && decide (q.dst = p.dst)) || m.chip.mesh.waitsFor p.src p.dst then m.on (Chip.onMesh (Mesh.post [p])) else now m

end Sys2Proof.Machine
end

