-- ==== Sys2Proof/Machine/Mem.lean ====
section
/-!
DEFINITION. The local offset space (R75, R106, R145, R146, R152, R161, R169, R170): regions, what is mapped, and reads and writes of bytes with
the mirror (R162), the poison marks (R156 to R158) and held slices (R163).
-/
namespace Sys2Proof.Machine

/-- Bases and sizes of the regions (R75, R106, R146, R152). -/
def sramSize : Nat := 0x300000000
def sliceSize : Nat := 0xC00000
def skerrySpan : Nat := 0x30000000
def gddrBase : Nat := 0x1000000000
def devSpan : Nat := 0xF0000000
def generalSize : Nat := 0xCC000000
def planArea : Nat := 0xEDC00000
def planAreaSize : Nat := 0x2400000
def cxlBase : Nat := 0x100000000000
def cxlSize : Nat := 0x100000000000
def regBase : Nat := 0xFF0000000000
def stagingBase : Nat := 0xFF0040000000
def stagingSize : Nat := 0x40000
def gib : Nat := 0x40000000

/-- The regions a local offset can lie in (R146). -/
inductive Region' where
  | sram
  | gddr
  | cxl
  | staging
  | other
deriving DecidableEq, Repr

/-- The region of a local offset. -/
def regionOf (a : Nat) : Region' :=
  if a < sramSize then .sram
  else if gddrBase ≤ a ∧ a < gddrBase + 24 * devSpan then .gddr
  else if cxlBase ≤ a ∧ a < cxlBase + cxlSize then .cxl
  else if stagingBase ≤ a ∧ a < stagingBase + 1024 * stagingSize then .staging
  else .other

/-- The tile whose slice or staging file holds an offset. -/
def tileOfSram (a : Nat) : Fin 1024 := Fin.ofNat 1024 (a / sliceSize)
def tileOfStaging (a : Nat) : Fin 1024 := Fin.ofNat 1024 ((a - stagingBase) / stagingSize)
/-- The first offset of a tile's slice and staging file (R75, R106). -/
def sliceAddr (g : Fin 1024) : Nat := g.val * sliceSize
def stagingAddr (g : Fin 1024) : Nat := stagingBase + g.val * stagingSize
/-- The skerry of a tile, and its tiles. -/
def skOf (g : Fin 1024) : Fin 16 := ⟨g.val / 64, by omega⟩
def tilesOf (s : Fin 16) : List (Fin 1024) := (List.range 64).map (fun t => Fin.ofNat 1024 (64 * s.val + t))
/-- The device of a GDDR7 offset and its offset in the device (R152). -/
def devOf (a : Nat) : Fin 24 := Fin.ofNat 24 ((a - gddrBase) / devSpan)
def devOff (a : Nat) : Nat := (a - gddrBase) % devSpan
def devAddr (d off : Nat) : Nat := gddrBase + d * devSpan + off
/-- A mirror slot's first offset (R152). -/
def mirrorAddr (s : Nat × Nat) : Nat := devAddr s.1 (generalSize + s.2 * sliceSize)

namespace Chip

/-- Whether SRAM and GDDR7 are mapped at all (R146). -/
def packageMapped (c : Chip) : Bool :=
  c.railsOn && (match c.mod.st with | .packageOn | .serving | .draining | .ochre => true | _ => false)

/-- Whether a skerry's slices and staging files are mapped (R106, R146). -/
def skMapped (c : Chip) (s : Fin 16) : Bool := c.packageMapped && c.sk[s].st ≠ .failed && c.sk[s].st ≠ .off

/-- The window of the CXL region that holds an offset. -/
def winOf (c : Chip) (a : Nat) : Option (Fin 16) :=
  (fins 16).find? (fun w =>
    let x := c.cxl.win[w]
    x.enable && cxlBase + x.base ≤ a && a < cxlBase + x.base + x.size * gib)

/-- Whether an offset is mapped for reads and writes from outside the module's own service (R146, R153, R154, R170). -/
def mapped (c : Chip) (a : Nat) : Bool :=
  match regionOf a with
  | .sram => c.skMapped (skOf (tileOfSram a))
  | .gddr => c.packageMapped && devOff a < generalSize && c.gmc.dev[devOf a].st = 2
  | .cxl => match c.winOf a with | some w => c.cxl.win[w].wstate = 1 | none => false
  | .staging => c.skMapped (skOf (tileOfStaging a))
  | .other => false

/-- The part of the space of one kind that an offset belongs to: accesses of tiles, COPY and peers stay inside one (R118, R218). -/
def areaOf' (c : Chip) (a : Nat) : Nat × Nat :=
  match regionOf a with
  | .sram => (0, sramSize)
  | .gddr => (devAddr (devOf a).val 0, devAddr (devOf a).val generalSize)
  | .cxl => match c.winOf a with
    | some w => (cxlBase + c.cxl.win[w].base, cxlBase + c.cxl.win[w].base + c.cxl.win[w].size * gib)
    | none => (a, a)
  | .staging => (stagingBase, stagingBase + 1024 * stagingSize)
  | .other => (a, a)

/-- Whether a range lies wholly in one region and is mapped throughout: ends and every skerry between them. -/
def rangeMapped (c : Chip) (a len : Nat) : Bool :=
  let r := c.areaOf' a
  decide (a + len ≤ r.2) && c.mapped a && (len == 0 || c.mapped (a + len - 1)) &&
    (match regionOf a with
     | .sram => (fins 16).all (fun s => c.skMapped s || (s.val + 1) * skerrySpan ≤ a || a + len ≤ s.val * skerrySpan)
     | .staging => (fins 16).all (fun s =>
         c.skMapped s || stagingBase + (s.val + 1) * (64 * stagingSize) ≤ a || a + len ≤ stagingBase + s.val * (64 * stagingSize))
     | _ => true)

/-- The local offset of a unified address: module ID 0 or the module's own (R145); `none` for a peer. -/
def localOf (c : Chip) (a : Nat) : Option Nat :=
  let id := a / 2 ^ 48
  if id = 0 ∨ (c.str.modId ≠ 0 ∧ id = c.str.modId) then some (a % 2 ^ 48) else none

/-- Whether writes and reads of a slice are held: its tile is being remapped, or its skerry reset (R163, R436). -/
def sliceHeld (c : Chip) (g : Fin 1024) : Bool :=
  let s := c.sk[skOf g]
  s.st = .resetting || (match s.loading with | some (t, _) => t == g.val % 64 | none => false) || s.remapQ.contains (g.val % 64)

/-- Whether an access of a range is held. -/
def rangeHeld (c : Chip) (a len : Nat) : Bool :=
  match regionOf a with
  | .sram => (List.range ((a + max len 1 - 1) / sliceSize - a / sliceSize + 1)).any (fun k => c.sliceHeld (Fin.ofNat 1024 (a / sliceSize + k)))
  | .staging => (List.range ((a + max len 1 - 1 - stagingBase) / stagingSize - (a - stagingBase) / stagingSize + 1)).any (fun k =>
      c.sk[skOf (Fin.ofNat 1024 ((a - stagingBase) / stagingSize + k))].st = .resetting)
  | _ => false

/-- Whether an offset can be read by the module itself: what is mapped, and the reserved areas of a ready device (R154). -/
def readable (c : Chip) (a : Nat) : Bool := c.mapped a || (regionOf a == .gddr && c.packageMapped && c.gmc.dev[devOf a].st == 2)

/-- The port that serves an offset of a window (R169). -/
def cxlPortOf (c : Chip) (w : Fin 16) (a : Nat) : Nat :=
  let x := c.cxl.win[w]
  nfld x.ports (2 * (((a - cxlBase - x.base) / (256 * 2 ^ x.gran)) % 2 ^ x.ways)) 2

/-- The dies that serve a range (R21, R22, R75, R169). -/
def diesOf (c : Chip) (a n : Nat) : List Nat :=
  let last := a + max n 1 - 1
  let span := fun (lo hi : Nat) => (List.range (hi - lo + 1)).map (· + lo)
  match regionOf a with
  | .sram => span (a / skerrySpan) (last / skerrySpan)
  | .gddr => [(devSkerry (devOf a).val).val]
  | .cxl => match c.winOf a with
    | some w =>
      let step := 256 * 2 ^ c.cxl.win[w].gran
      (List.range (min 4 (last / step - a / step + 1))).map fun k => (cxlSkerry (c.cxlPortOf w (a + k * step))).val
    | none => []
  | .staging => span ((a - stagingBase) / (64 * stagingSize)) ((last - stagingBase) / (64 * stagingSize))
  | .other => []

/-- Whether the packets of an access from a die wait at their source router for new routes (R101). -/
def farWaits (c : Chip) (die a n : Nat) : Bool := c.mesh.reroute && (c.diesOf a n).any fun d => c.mesh.waits die d || c.mesh.waits d die

/-- Whether an access from a die has to wait: a held slice (R163), or new routes (R101). -/
def holds (c : Chip) (die : Option Nat) (a n : Nat) : Bool := c.rangeHeld a n || die.any fun d => c.farWaits d a n

/-- Whether a slice offset lies in a mirrored granule (R162). -/
def granule (c : Chip) (g : Fin 1024) (off : Nat) : Bool := bit c.tile[g].mirror (off / 0x10000)

end Chip

/-- The byte at an offset; 0 where nothing was written (log 5). -/
def Memory.get (m : Memory) (a : Nat) : Byte := spGet 0 a m
/-- `n` bytes from an offset on. -/
def Memory.read (m : Memory) (a n : Nat) : Bytes := (List.range n).map (fun i => m.get (a + i))
/-- A string written from an offset on. -/
def Memory.write : Memory → Nat → Bytes → Memory
  | m, _, [] => m
  | m, a, b :: r => Memory.write (spSet 0 a b m) (a + 1) r

namespace Mach

/-- `n` bytes of module memory, as they stand. -/
def read (m : Mach) (a n : Nat) : Bytes := m.mem.read a n
/-- A little-endian number of module memory. -/
def readNat (m : Mach) (a n : Nat) : Nat := numLe (m.mem.read a n)

/-- The poison marks after a write: every 64-byte unit that it covers whole is clear (R157, R158). -/
def clearPoison (a n : Nat) (l : List Nat) : List Nat := l.filter (fun u => !(a ≤ u && u + 64 ≤ a + n))

/-- Bytes written to their place alone. -/
def put (a : Nat) (data : Bytes) (m : Mach) : Mach := { m with mem := m.mem.write a data, poison := clearPoison a data.length m.poison }

/-- A poison mark set on the unit of an offset. -/
def mark (a : Nat) (m : Mach) : Mach := { m with poison := insertNat (a / 64 * 64) m.poison }

/-! ### Errors of GDDR7 (R155, R157 to R159, R180) -/

/-- An uncorrectable unit of GDDR7: poisoned, counted and recorded under an address; one that is poisoned already is left as it is (R157, R180). -/
def gddrPoison (u place : Nat) (m : Mach) : Mach :=
  if m.poison.contains u then m
  else
    let d := devOf u
    (m.mark u).on fun c =>
      (c.onDev d fun g => { g with ue := satAdd 8 g.ue 1, ueTimes := (c.time :: g.ueTimes).filter fun t => c.time < t + secs 1 }).onGmc fun g =>
        { g with err := setBit g.err 1 true, ueValid := true, ueDev := d.val, ueAddr := place }

/-- The data units of the group that an offset's check unit covers (R155). -/
def checkGroup (a : Nat) : List Nat :=
  let base := devAddr (devOf a).val (devOff a / 960 * 960)
  ((List.range 15).map (fun j => base + 64 * j)).filter (fun u => devOf u = devOf a)

/-- An error of GDDR7 that an access meets, and the units it leaves uncorrectable (R157, R159, R180): an uncorrectable check unit is one error, recorded at the first
unit of its group, every unit of which is poisoned. RETRY_HIGH counts the bursts sent again in the whole second that runs, as RETRIES does (DESIGN CHOICE, log 53: R159
does not say which second). -/
def gddrFault (f : ReadFault) (m : Mach) : Mach × List Nat :=
  let u := f.addr / 64 * 64
  match f.kind with
  | .correctable => (m.on fun c => (c.onDev (devOf f.addr) fun g => { g with ce := satAdd 16 g.ce 1 }).onGmc fun g => { g with err := setBit g.err 0 true }, [])
  | .uncorrectable => (m.gddrPoison u u, [u])
  | .checkUnit =>
    let units := checkGroup f.addr
    let m1 := match units.find? (fun x => !m.poison.contains x) with
      | some x => m.gddrPoison x (units.headD u)
      | none => m
    (each units (fun (x : Nat) (y : Mach) => y.mark x) m1, units)
  | .retried n =>
    let m1 := m.on fun c => (c.onDev (devOf f.addr) fun g => { g with retriesNow := satAdd 16 g.retriesNow (min n 4) }).onGmc fun g =>
      { g with err := if 1000 < satAdd 16 c.gmc.dev[devOf f.addr].retriesNow (min n 4) then setBit g.err 4 true else g.err }
    if 5 ≤ n then (m1.gddrPoison u u, [u]) else (m1, [])

/-- Whether a range takes in a place where the module's memory holds an error. -/
def ReadFault.within (a n : Nat) (f : ReadFault) : Bool := decide (a < f.addr / 64 * 64 + 64) && decide (f.addr < a + n)

/-- Errors of GDDR7 among some are met and stand no more. -/
def gddrMeets (p : ReadFault → Bool) (m : Mach) : Mach :=
  let due := fun (f : ReadFault) => regionOf f.addr == .gddr && m.chip.readable f.addr && p f
  (m.chip.errs.filter due).foldl (fun (x : Mach) f => (x.gddrFault f).1) (m.on fun c => { c with errs := c.errs.filter fun f => !due f })

/-- The 64-byte units a write covers in part (R158). -/
def partUnits (a n : Nat) : List Nat := ([a / 64 * 64, (a + n - 1) / 64 * 64].eraseDups).filter (fun u => !(decide (a ≤ u) && decide (u + 64 ≤ a + n)))

/-- Whether a write of a range meets an error: a unit that it covers in part is read first (R158), a burst that fails is sent again (R159). -/
def writeMeets (a n : Nat) (f : ReadFault) : Bool :=
  ReadFault.within a n f && ((partUnits a n).contains (f.addr / 64 * 64) || (match f.kind with | .retried _ => true | _ => false))

/-- The units of a range whose write fails a fifth time (R159). -/
def lostBursts (m : Mach) (a n : Nat) : List Nat :=
  (m.chip.errs.filter fun f => regionOf f.addr == .gddr && m.chip.readable f.addr && ReadFault.within a n f && (match f.kind with | .retried k => decide (5 ≤ k) | _ => false)).map
    fun f => f.addr / 64 * 64

/-- Bytes written to their place with what R158 and R159 have a write of GDDR7 meet: a merged unit keeps its mark, and one whose burst fails a fifth time is left
uncorrectable. -/
def burst (a : Nat) (data : Bytes) (m : Mach) : Mach :=
  each (m.lostBursts a data.length) (fun (u : Nat) (x : Mach) => x.mark u) ((m.gddrMeets (writeMeets a data.length)).put a data)

/-- The parts of a range that fall into mirrored granules: offset in the range, mirror place, length (R162). -/
def mirrorRuns (c : Chip) (a n : Nat) : List (Nat × Nat × Nat) :=
  if n = 0 ∨ sramSize ≤ a then []
  else (List.range ((a + n - 1) / 0x10000 - a / 0x10000 + 1)).filterMap fun k =>
    let lo := max a ((a / 0x10000 + k) * 0x10000)
    let hi := min (a + n) ((a / 0x10000 + k + 1) * 0x10000)
    let g := tileOfSram lo
    if decide (lo < sramSize) && c.granule g (lo % sliceSize) then (c.tile[g].mirrorSlot).map (fun s => (lo - a, mirrorAddr s + lo % sliceSize, hi - lo))
    else none

/-- The pieces of a write that fall into mirrored granules, at their mirror places (R162). -/
def mirrorPieces (c : Chip) (a : Nat) (data : Bytes) : List (Nat × Bytes) :=
  (mirrorRuns c a data.length).map fun r => (r.2.1, slice data r.1 r.2.2)

/-- A write of module memory: the slice and, for mirrored granules, the mirror slot, each with the marks of the units it covers whole (R157, R162). -/
def write (a : Nat) (data : Bytes) (m : Mach) : Mach :=
  each (mirrorPieces m.chip a data) (fun (p : Nat × Bytes) (x : Mach) => x.burst p.1 p.2) (m.burst a data)

/-- A little-endian number written. -/
def writeNat (a n v : Nat) (m : Mach) : Mach := m.write a (bytesLe n v)

/-- The parts of a range that one slice or one staging file holds: offset and length. -/
def holdRuns (a n : Nat) : List (Nat × Nat) :=
  let cut := fun (base size : Nat) =>
    (List.range ((a - base + n - 1) / size - (a - base) / size + 1)).map fun k =>
      let lo := max a (base + ((a - base) / size + k) * size)
      let hi := min (a + n) (base + ((a - base) / size + k + 1) * size)
      (lo - a, hi - lo)
  match regionOf a with
  | .sram => cut 0 sliceSize
  | .staging => cut stagingBase stagingSize
  | _ => [(0, n)]

/-- A write from a die is done but where its slice is held, or its packets wait for new routes: that part waits (R101, R163). -/
def writeOrHold (who : HeldBy) (die : Option Nat) (a : Nat) (data : Bytes) (m : Mach) : Mach :=
  if m.chip.holds die a data.length then
    each (holdRuns a data.length) (fun (p : Nat × Nat) (x : Mach) =>
      let part := slice data p.1 p.2
      if x.chip.holds die (a + p.1) p.2 then { x with chip := { x.chip with held := x.chip.held ++ [⟨a + p.1, part, who, die⟩] } } else x.write (a + p.1) part) m
  else m.write a data

/-- The units of a range that are marked uncorrectable. -/
def badUnits (m : Mach) (a n : Nat) : List Nat := m.poison.filter (fun u => a < u + 64 && u < a + n)

/-- Zero bytes written over a range by removing what it lists. -/
def clear (a n : Nat) (m : Mach) : Mach :=
  { m with mem := m.mem.filter (fun e => e.1 < a || a + n ≤ e.1), poison := m.poison.filter (fun u => u < a || a + n ≤ u) }

/-- A range copied to one place: its bytes, read once, and its marks (R157); the errors of GDDR7 that stand there are met, and a unit of a slice that holds an
uncorrectable error is marked where it goes (R149, R150). -/
def copyRaw (src dst n : Nat) (m : Mach) : Mach :=
  let m := (m.gddrMeets (ReadFault.within src n)).gddrMeets (writeMeets dst n)
  let l := m.mem.filter (fun e => src ≤ e.1 && e.1 < src + n)
  let bad := m.badUnits src n ++
    (m.chip.errs.filter fun f => regionOf f.addr == .sram && ReadFault.within src n f && decide (f.kind = .uncorrectable)).map fun f => f.addr / 64 * 64
  let m1 := each l (fun (e : Host.Cell) (x : Mach) => x.put (dst + (e.1 - src)) [e.2]) (m.clear dst n)
  each bad (fun (u : Nat) (x : Mach) => x.mark (dst + (u - src))) m1

/-- A range copied by the module: to the place and, for mirrored granules, to the mirror slot (R162). -/
def copyRange (src dst n : Nat) (m : Mach) : Mach :=
  each (mirrorRuns m.chip dst n) (fun (r : Nat × Nat × Nat) (x : Mach) => x.copyRaw (src + r.1) r.2.1 r.2.2) (m.copyRaw src dst n)

end Mach
end Sys2Proof.Machine
end

