-- ==== Sys2Proof/Machine/Fabric.lean ====
section
/-!
DEFINITION. Packets, flits and the choice of planes of the strait fabric (R273, R280, R282, R285 to R290).
-/
namespace Sys2Proof.Machine

/-- Bytes 0–23 of a packet header (R282). -/
def pktHead (p : Packet) : Bytes :=
  wordBytes p.dest ++ wordBytes p.src ++ [p.typ, p.flags] ++ wordBytes p.len ++ wordBytes p.seq ++ wordBytes p.ref ++ wordBytes p.addr
/-- The end-to-end CRC (R282). -/
def pktCrc (p : Packet) : W32 := crc32 (pktHead p ++ p.payload)
/-- A packet as bytes. -/
def pktBytes (p : Packet) : Bytes := pktHead p ++ wordBytes p.crc ++ [p.plane, p.code] ++ wordBytes p.rsv ++ p.payload

/-- A link flit: up to 496 packet bytes and the trailer (R273). -/
def flitBytes (kind fseq fack credReq credRsp : Nat) (body : Bytes) : Bytes :=
  let b := slice body 0 496 ++ bytesLe 2 (kind * 4096 + fseq) ++ bytesLe 2 fack ++ bytesLe 2 credReq ++ bytesLe 2 credRsp ++ bytesLe 4 0
  b ++ wordBytes (crc32 b)

/-- Whether a packet is of the response class (R274, R283). -/
def isRsp (p : Packet) : Bool := bit p.typ 7

/-- A packet read from its bytes (R282): the packet and the bytes after it; `none` while bytes are missing. A header with type 0, or with a length no packet has,
begins no packet: the rest of the flit is unused. -/
def parsePkt (b : Bytes) : Option (Option (Packet × Bytes)) :=
  let n := fun (o k : Nat) => fieldLe b o k
  let len := if n 4 1 = 2 then 0 else n 6 2
  if b.length < 16 then none
  else if n 4 1 = 0 ∨ 256 < len then some none
  else if b.length < 32 + len then none
  else some (some ({ dest := BitVec.ofNat 16 (n 0 2), src := BitVec.ofNat 16 (n 2 2), typ := BitVec.ofNat 8 (n 4 1), flags := BitVec.ofNat 8 (n 5 1),
                     len := BitVec.ofNat 16 (n 6 2), seq := BitVec.ofNat 32 (n 8 4), ref := BitVec.ofNat 32 (n 12 4), addr := BitVec.ofNat 64 (n 16 8),
                     crc := BitVec.ofNat 32 (n 24 4), plane := BitVec.ofNat 8 (n 28 1), code := BitVec.ofNat 8 (n 29 1), rsv := BitVec.ofNat 16 (n 30 2),
                     payload := slice b 32 len }, b.drop (32 + len)))

/-- The packets in a flit's bytes, which follow what the flit before left unfinished, and what they leave unfinished (R273). -/
def unpack : Nat → Bytes → List Packet × Bytes
  | 0, _ => ([], [])
  | k + 1, b =>
    match parsePkt b with
    | none => ([], b)
    | some none => ([], [])
    | some (some (p, rest)) => let r := unpack k rest; (p :: r.1, r.2)

/-- The credits a packet of `n` bytes at a place needs: one for each flit it lies in that its class has not paid for. -/
def flitCost (pos n paid : Nat) : Nat := (pos + n - 1) / 496 + 1 - max (pos / 496) paid

/-- The head of a class's send queue joins the batch, where the credits of the class reach (R274). -/
def Batch.take (rsp : Bool) (b : Batch) : Option Batch :=
  match if rsp then b.outRsp else b.outReq with
  | [] => none
  | p :: rest =>
    let y := pktBytes p
    let cost := flitCost b.bytes.length y.length (if rsp then b.lastRsp else b.lastReq)
    let last := (b.bytes.length + y.length - 1) / 496 + 1
    if (if rsp then b.credRsp else b.credReq) < cost then none
    else
      let b1 := { b with bytes := b.bytes ++ y, pkts := b.pkts ++ [p], turnRsp := !rsp }
      some (if rsp then { b1 with outRsp := rest, credRsp := b.credRsp - cost, lastRsp := last }
        else { b1 with outReq := rest, credReq := b.credReq - cost, lastReq := last })

/-- The classes alternate; a class without credit does not hold the other back (R274, R312). -/
def Batch.fill : Nat → Batch → Batch
  | 0, b => b
  | k + 1, b =>
    match b.take b.turnRsp with
    | some x => Batch.fill k x
    | none => match b.take !b.turnRsp with
      | some x => Batch.fill k x
      | none => b

namespace Chip

def onStr (f : Str → Str) (c : Chip) : Chip := { c with str := f c.str }
def onLink (i : Fin 12) (f : Strait → Strait) (c : Chip) : Chip := c.onStr fun s => { s with link := upd s.link i f }
def onEng (e : Fin 6) (f : Engine → Engine) (c : Chip) : Chip := c.onStr fun s => { s with ce := upd s.ce e f }
def onCe (e : Fin 6) (k : Fin 16) (f : CeSlot → CeSlot) (c : Chip) : Chip := c.onEng e fun x => { x with slots := upd x.slots k f }
def onDsq (n : Fin 4) (f : Dsq → Dsq) (c : Chip) : Chip := { c with dsq := upd c.dsq n f }
def onSeq (s : Fin 128) (f : Seq → Seq) (c : Chip) : Chip := { c with seq := upd c.seq s f }

/-- An STR_ERR bit is set, an STR_COUNT counter advances (R311). -/
def strErr (b : Nat) (c : Chip) : Chip := c.onStr fun s => { s with err := setBit s.err b true }
def strCount (k : Fin 8) (n : Nat) (c : Chip) : Chip := c.onStr fun s => { s with count := upd s.count k (fun v => (v + n) % 2 ^ 64) }
/-- A DSQ_ERR bit is set (R271). -/
def dsqErr (n : Fin 4) (b : Nat) (c : Chip) : Chip := c.onDsq n fun d => { d with err := setBit d.err b true }

/-- Whether a peer's bit is set in a strait's reach table (R277, R280). -/
def reachBit (l : Strait) (id : Nat) : Bool :=
  match l.reach.toList.getD ((id - 1) / 2048) none with
  | some seg => nbit (fieldLe seg ((id - 1) % 2048 / 8) 1) ((id - 1) % 8)
  | none => false

/-- The straits that are up and whose table holds a destination (R286). -/
def candidates (c : Chip) (dest : Nat) : List (Fin 12) :=
  if dest = 0 then [] else (fins 12).filter (fun i => c.str.link[i].st = 3 && reachBit c.str.link[i] dest)

/-- Whether a peer is reachable (R280). -/
def reachable (c : Chip) (id : Nat) : Bool := !(c.candidates id).isEmpty

/-- The first candidate at or after a place, around the twelve (R286). -/
def nextFrom (l : List (Fin 12)) (a : Nat) : Option (Fin 12) :=
  match l.find? (fun i => decide (a % 12 ≤ i.val)) with
  | some i => some i
  | none => l.head?

/-- Whether a strait is used in a turn of the spray: `w` of each eight at width `w`; which of them is a free value (R286). -/
def sprayUses (c : Chip) (turn : Nat) (i : Fin 12) : Bool :=
  let w := popCount c.str.link[i].lanes
  decide (8 ≤ w) || decide ((turn + Config.sprayTurn i.val) % 8 < w)

/-- The strait of the next spray packet and its turn: the next candidate used in this turn, else the first used in a later one (R286). -/
def sprayNext (c : Chip) (l : List (Fin 12)) : Option (Fin 12 × Nat) :=
  match l.find? (fun i => decide (c.str.sprayAt ≤ i.val) && c.sprayUses c.str.sprayTurn i) with
  | some i => some (i, c.str.sprayTurn)
  | none => (List.range 8).findSome? fun k =>
      let t := (c.str.sprayTurn + 1 + k) % 8
      (l.find? (c.sprayUses t)).map fun i => (i, t)

/-- The straits on which a packet of a mode goes (R286), and the place and turn of the spray afterwards. -/
def choosePlanes (c : Chip) (mode dest : Nat) : List (Fin 12) × Nat × Nat :=
  let l := c.candidates dest
  if mode = 0 then
    match c.sprayNext l with
    | some (i, t) => ([i], i.val + 1, t)
    | none => ([], c.str.sprayAt, c.str.sprayTurn)
  else
    let keep := (c.str.sprayAt, c.str.sprayTurn)
    match nextFrom l dest with
    | none => ([], keep.1, keep.2)
    | some a =>
      if mode = 1 then ([a], keep.1, keep.2)
      else
        let others := l.filter (fun i => i ≠ a)
        let far := others.filter (fun i => i.val / 2 ≠ a.val / 2)
        match nextFrom far (a.val + 6) with
        | some b => ([a, b], keep.1, keep.2)
        | none => match others.head? with
          | some b => ([a, b], keep.1, keep.2)
          | none => ([a], keep.1, keep.2)

/-- A data flit goes out with its packet bytes, the acknowledgement and the credits owed, and waits in the replay buffer (R273). -/
def sendFlit (i : Fin 12) (body : Bytes) (c : Chip) : Chip :=
  let l := c.str.link[i]
  let f := flitBytes 0 l.tx l.rx l.oweReq l.oweRsp body
  (c.send (.flit i f)).onLink i fun x => { x with tx := (x.tx + 1) % 4096, buffer := x.buffer ++ [(x.tx, f)], oweReq := 0, oweRsp := 0 }

/-- An idle flit: what a sender with nothing to send sends. It carries the acknowledgement and the credits owed (R273). -/
def idleFlit (i : Fin 12) (c : Chip) : Chip :=
  let l := c.str.link[i]
  (c.send (.flit i (flitBytes 1 l.tx l.rx l.oweReq l.oweRsp []))).onLink i fun x => { x with oweReq := 0, oweRsp := 0 }

/-- The packets that the credits let go are packed back to back, the classes in turn, and go out in flits (R273, R274, R312). -/
def pump (i : Fin 12) (c : Chip) : Chip :=
  let l := c.str.link[i]
  let b := Batch.fill (l.outReq.length + l.outRsp.length)
    { bytes := [], pkts := [], outReq := l.outReq, outRsp := l.outRsp, turnRsp := l.turnRsp, credReq := l.credReq, credRsp := l.credRsp, lastReq := 0, lastRsp := 0 }
  if b.pkts.isEmpty then c
  else
    let c1 := each b.pkts (fun (q : Packet) (d : Chip) => (d.send (.strait i q)).strCount 0 1) c
    let c2 := c1.onLink i fun x => { x with outReq := b.outReq, outRsp := b.outRsp, turnRsp := b.turnRsp, credReq := b.credReq, credRsp := b.credRsp }
    each (chunks 496 b.bytes) (fun (f : Bytes) (d : Chip) => d.sendFlit i f) c2

/-- A packet takes its place in the send queue of its class: its plane and CRC are filled in (R274, R282). -/
def emit (i : Fin 12) (p : Packet) (c : Chip) : Chip :=
  let q := { p with plane := BitVec.ofNat 8 i.val, crc := pktCrc p }
  (c.onLink i fun x => if isRsp q then { x with outRsp := x.outRsp ++ [q] } else { x with outReq := x.outReq ++ [q] }).pump i

/-- A received packet leaves the receive buffer of its class; with the last one the credits of the flits it held are returned (R274). -/
def takeIn (i : Fin 12) (p : Packet) (c : Chip) : Chip :=
  let l := c.str.link[i]
  let give := fun (d : Chip) =>
    let y := d.str.link[i]
    if y.oweReq = 0 ∧ y.oweRsp = 0 then d else d.idleFlit i
  if isRsp p then
    if !l.inRsp.contains p then c
    else give (c.onLink i fun x =>
      let rest := x.inRsp.erase p
      { x with inRsp := rest, oweRsp := if rest.isEmpty then x.oweRsp + x.heldRsp else x.oweRsp, heldRsp := if rest.isEmpty then 0 else x.heldRsp })
  else
    if !l.inReq.contains p then c
    else give (c.onLink i fun x =>
      let rest := x.inReq.erase p
      { x with inReq := rest, oweReq := if rest.isEmpty then x.oweReq + x.heldReq else x.oweReq, heldReq := if rest.isEmpty then 0 else x.heldReq })

/-- A packet goes out on its planes under the next packet number; the number it took and the first strait (R282, R286). -/
def launch (mode : Nat) (p : Packet) (c : Chip) : Chip × Packet × Option (Fin 12) :=
  let ch := c.choosePlanes mode p.dest.toNat
  let q := { p with src := BitVec.ofNat 16 c.str.modId, seq := c.str.seqNo, flags := if mode = 2 then p.flags ||| 1 else p.flags &&& 0xFE }
  let c1 := c.onStr fun s => { s with seqNo := s.seqNo + 1, sprayAt := ch.2.1, sprayTurn := ch.2.2 }
  (each ch.1 (fun (i : Fin 12) (d : Chip) => d.emit i q) c1, q, ch.1.head?)

/-- The die that a request of the module comes from (R21, R22). -/
def ownerDie (c : Chip) (o : Owner) : Option Nat :=
  match o with
  | .tileGet g _ _ | .tilePut g _ => some (skOf g).val
  | .copyOut id | .copyIn id _ => (c.cmd? id).map fun x => (portSkerry x.port).val
  | .coll e _ _ | .arrive e _ _ => some (engSkerry e.val)
  | .setShadow _ s _ | .shadowEntry s _ | .shadowData s | .shadowWord s _ | .rebuildEntry s _ _ | .rebuild s _ _ _ => some (dsqSkerry (dsqOf s)).val

/-- Whether a request waits at the router of its source: its route to the strait it would take does not work, and the new one does not exist yet (R101). -/
def routeWaits (c : Chip) (r : Req) : Bool :=
  c.mesh.reroute && (c.ownerDie r.owner).any fun d => (c.choosePlanes r.mode r.pkt.dest.toNat).1.any fun i => c.mesh.waits d (strSkerry i).val

/-- Whether a request must wait: for its route; a WRITE to a 256-byte unit that has an earlier one outstanding or waiting (R290); a pinned packet while an earlier one of its
destination waits, or is neither answered nor timed out on a plane that is no longer its own (R287). -/
def mustWait (c : Chip) (r : Req) : Bool :=
  c.routeWaits r || (r.pkt.typ == 1 && (c.str.outst ++ c.str.waiting).any (fun o =>
      o.pkt.typ == 1 && o.pkt.dest == r.pkt.dest && o.pkt.addr.toNat / 256 == r.pkt.addr.toNat / 256)) ||
  (r.mode == 1 && (c.str.waiting.any (fun o => o.mode == 1 && o.pkt.dest == r.pkt.dest) || c.str.outst.any (fun o =>
      o.mode == 1 && o.pkt.dest == r.pkt.dest && o.tries == 0 && o.last.isSome && o.last != nextFrom (c.candidates r.pkt.dest.toNat) r.pkt.dest.toNat)))

/-- A request is sent and waits for its answer (R289). -/
def transmit (r : Req) (c : Chip) : Chip :=
  let x := c.launch r.mode r.pkt
  x.1.onStr fun s => { s with outst := s.outst ++ [{ r with pkt := x.2.1, last := x.2.2 }] }

/-- A request of the module: sent, or kept waiting under R287 and R290. -/
def submit (r : Req) (c : Chip) : Chip :=
  if c.mustWait r then c.onStr fun s => { s with waiting := s.waiting ++ [r] } else c.transmit r

/-- Waiting requests that may go now go, in order. -/
def releaseWaiting (c : Chip) : Chip :=
  let l := c.str.waiting
  each l (fun (r : Req) (d : Chip) => d.submit r) (c.onStr fun s => { s with waiting := [] })

/-- A packet of the module's own with nothing filled in but type, destination, address, length, payload. -/
def mkPkt (typ dest addr len ref : Nat) (payload : Bytes) : Packet :=
  { dest := BitVec.ofNat 16 dest, src := 0, typ := BitVec.ofNat 8 typ, flags := 0, len := BitVec.ofNat 16 len, seq := 0,
    ref := BitVec.ofNat 32 ref, addr := BitVec.ofNat 64 addr, crc := 0, plane := 0, code := 0, rsv := 0, payload := payload }

/-- The response to a request goes out in the mode of its request: twin where the request is a twin copy; whether another request was pinned no header field
says (R285, log 30). -/
def respond (req : Packet) (typ code : Nat) (poison : Bool) (payload : Bytes) (c : Chip) : Chip :=
  let p := { mkPkt typ req.src.toNat 0 payload.length req.seq.toNat payload with
             code := BitVec.ofNat 8 code, flags := if poison then 4 else 0, addr := if typ = 0x83 then req.addr else 0 }
  (c.launch (if bit req.flags 0 then 2 else if Config.answerPinned req.src.toNat req.seq.toNat then 1 else 0) p).1

/-- The pieces of a transfer: packets of at most 256 bytes that cross no 256-byte boundary of the target (R285): offset and length. -/
def pieces (addr len : Nat) : List (Nat × Nat) :=
  let n := if len = 0 then 0 else (addr + len - 1) / 256 - addr / 256 + 1
  (List.range n).map (fun k =>
    let lo := max addr ((addr / 256 + k) * 256)
    let hi := min (addr + len) ((addr / 256 + k + 1) * 256)
    (lo - addr, hi - lo))

/-- Writes to a peer, one request a piece. -/
def sendWrites (dest addr mode : Nat) (data : Bytes) (o : Owner) (c : Chip) : Chip :=
  each (pieces addr data.length) (fun (p : Nat × Nat) (d : Chip) =>
    d.submit { pkt := mkPkt 1 dest (addr + p.1) p.2 0 (slice data p.1 p.2), mode := mode, last := none, tries := 0, owner := o }) c

/-- Reads from a peer; the owner is told the offset of its piece. -/
def sendReads (dest addr len mode : Nat) (o : Nat → Owner) (c : Chip) : Chip :=
  each (pieces addr len) (fun (p : Nat × Nat) (d : Chip) =>
    d.submit { pkt := mkPkt 2 dest (addr + p.1) p.2 0 [], mode := mode, last := none, tries := 0, owner := o p.1 }) c

/-- Whether some request of an owner is unanswered or still waits. -/
def pendingFor (c : Chip) (p : Owner → Bool) : Bool := c.str.outst.any (fun r => p r.owner) || c.str.waiting.any (fun r => p r.owner)

end Chip
end Sys2Proof.Machine
end

