-- ==== Sys2Proof/Machine/Pages.lean ====
section
/-!
DEFINITION. Page tables and their walk (R171 to R175), the frame pools (R264), and
what the loss of a device or skerry does to the pages of sequences (R266).
-/
namespace Sys2Proof.Machine

/-- Whether a range lies in SRAM or in one GDDR7 general area (R171, R237). -/
def inTableArea (a n : Nat) : Bool :=
  match regionOf a with
  | .sram => decide (a + n ≤ sramSize)
  | .gddr => decide (devOff a + n ≤ generalSize)
  | _ => false

/-- Whether a range lies in one GDDR7 general area. -/
def inGeneral (a n : Nat) : Bool :=
  match regionOf a with
  | .gddr => decide (devOff a + n ≤ generalSize)
  | _ => false

/-- The tier of a frame (R174): 0 SRAM, 1 GDDR7 general area, 2 CXL. -/
def tierOf (a : Nat) : Option Nat :=
  match regionOf a with
  | .sram => some 0
  | .gddr => if devOff a < generalSize then some 1 else none
  | .cxl => some 2
  | _ => none

/-- What a walk finds (R174). -/
structure Walk where
  leafAt : Nat
  frame : Nat
  w0 : W64
  w1 : W64
deriving DecidableEq, Repr

namespace Chip

/-- Cached page-table entries of a sequence are dropped: the sequencer changed the table, or the sequence stopped (R176). -/
def uncache (s : Fin 128) (gone : Nat → Bool) (c : Chip) : Chip :=
  c.onDsq (dsqOf s) fun d => { d with cache := d.cache.filter (fun e => !(e.seq == s.val && gone e.page)) }
/-- An entry that was walked is cached; the oldest leaves where 4,096 are held (R176). -/
def remember (s : Fin 128) (page : Nat) (w : Walk) (c : Chip) : Chip :=
  (c.uncache s (· == page)).onDsq (dsqOf s) fun d =>
    let l := d.cache ++ [{ seq := s.val, page := page, place := w.leafAt, w0 := w.w0, w1 := w.w1 }]
    { d with cache := l.drop (l.length - 4096) }

end Chip

namespace Mach

/-- `check_table` of R174: alignment, place, mapping. -/
def checkTable (m : Mach) (t size : Nat) : Option Nat :=
  if t % size ≠ 0 then some 4
  else if !inTableArea t size then some 5
  else if !m.chip.rangeMapped t size then some 7
  else none

/-- A word of memory. -/
def word (m : Mach) (a : Nat) : W64 := BitVec.ofNat 64 (m.readNat a 8)
/-- Whether a read meets a unit marked uncorrectable. -/
def badRead (m : Mach) (a n : Nat) : Bool := !(m.badUnits a n).isEmpty

/-- The checks of a page-table entry, in the order of R174. -/
def checkEntry (m : Mach) (at' : Nat) (w0 w1 : W64) (fshift : Nat) : Except Nat Walk :=
  let size := 2 ^ fshift
  let frame := fld w0 0 48
  let tier := fld w0 56 2
  let back := fld w1 0 48
  if !bit w0 63 then .error 3
  else if w0 &&& 0x3CFF000000000000 ≠ 0 then .error 9
  else if tier = 0 ∧ w1 &&& 0x7FFF000000000000 ≠ 0 then .error 9
  else if frame % size ≠ 0 then .error 4
  else if tier = 3 ∨ tierOf frame ≠ some tier ∨ (tier = 0 ∧ frame / sliceSize ≠ (frame + size - 1) / sliceSize) then .error 5
  else if tier = 0 ∧ !bit w1 63 then .error 6
  else if tier = 0 ∧ !inGeneral back size then .error 5
  else if !m.chip.rangeMapped frame size then .error 7
  else if tier = 0 ∧ !m.chip.rangeMapped back size then .error 7
  else .ok ⟨at', frame, w0, w1⟩

/-- The walk of R174; the error is the code of R175. -/
def walk (m : Mach) (root pos fshift : Nat) : Except Nat Walk :=
  let lp := pos / 64
  if 16384 ≤ lp then .error 1
  else match m.checkTable root 512 with
    | some f => .error f
    | none =>
      let da := root + lp / 256 * 8
      let de := m.word da
      if m.badRead da 8 then .error 8
      else if !bit de 63 then .error 2
      else if de &&& 0x7FFF000000000FFF ≠ 0 then .error 9
      else
        let leaf := (de &&& 0x0000FFFFFFFFF000).toNat
        match m.checkTable leaf 4096 with
        | some f => .error f
        | none =>
          let pa := leaf + lp % 256 * 16
          if m.badRead pa 16 then .error 8 else m.checkEntry pa (m.word pa) (m.word (pa + 8)) fshift

/-- A page looked up through the sequencer's cache: an entry cached earlier may still be used until the sequence stops (R176). -/
def look (m : Mach) (s : Fin 128) (root pos fshift : Nat) : Except Nat Walk :=
  match m.chip.dsq[dsqOf s].cache.find? (fun e => e.seq == s.val && e.page == pos / 64) with
  | some e => if Config.cacheKeeps s.val (pos / 64) m.chip.free then m.checkEntry e.place e.w0 e.w1 fshift else m.walk root pos fshift
  | none => m.walk root pos fshift

/-- A write of the module's own to its tables: done, or held with its slice, behind the writes that are held already (R147, R163). -/
def own (a : Nat) (data : Bytes) (m : Mach) : Mach := m.writeOrHold .bar none a data

/-- A page-table entry and its frame-list copy written (R176, R237): each with one 16-byte write. -/
def setEntry (at' listAt : Nat) (w0 w1 : W64) (m : Mach) : Mach :=
  let b := wordBytes w0 ++ wordBytes w1
  (m.own at' b).own listAt b

/-! ### The sequence context (R237) -/

/-- A field of a sequence's context. -/
def ctx (m : Mach) (s : Fin 128) (off n : Nat) : Nat := m.readNat (m.chip.seq[s].ctx + off) n
def setCtx (s : Fin 128) (off n v : Nat) (m : Mach) : Mach := m.writeNat (m.chip.seq[s].ctx + off) n v
/-- The frame size shift of a plan (R247). -/
def fshiftOf (m : Mach) (k : Nat) : Nat := ((m.chip.hif.plans.toList.getD k resetPlan).params.getD 4 0).toNat
/-- The frame-list entry of a page. -/
def listAt (m : Mach) (s : Fin 128) (page : Nat) : Nat := m.ctx s 32 8 + 16 * page

/-! ### Pools (R264) -/

/-- Takes a GDDR7 frame of a size from the pool. -/
def takeGddr (n : Fin 4) (shift : Nat) (m : Mach) : Option (PoolFrame × Mach) :=
  match m.chip.dsq[n].gddrFrames.find? (fun f => f.shift == shift) with
  | some f => some (f, m.on fun c => c.onDsq n fun d => { d with gddrFrames := d.gddrFrames.erase f })
  | none => none

/-- Takes a frame of a size: SRAM frames first (R264); its share count becomes 1. -/
def takeFrame (n : Fin 4) (shift : Nat) (m : Mach) : Option (PoolFrame × Mach) :=
  let d := m.chip.dsq[n]
  let got := match d.sramFrames.find? (fun f => f.shift == shift) with
    | some f => some (f, m.on fun c => c.onDsq n fun d => { d with sramFrames := d.sramFrames.erase f })
    | none => m.takeGddr n shift
  got.map fun r => (r.1, r.2.on fun c => c.onDsq n fun d => { d with share := d.share ++ [(fld r.1.w0 0 48, 1, r.1.w1, r.1.shift)] })

/-- A page's frame is released: its share count falls, and at zero the frame returns to the pool, unless it or its backing lies on a lost unit; a frame the host
installed stays its own (R264, R266). -/
def releaseFrame (n : Fin 4) (frame : Nat) (m : Mach) : Mach :=
  m.on fun c => c.onDsq n fun d =>
    match d.share.find? (fun e => e.1 == frame) with
    | none => d
    | some e =>
      if 1 < e.2.1 then { d with share := d.share.map (fun x => if x.1 == frame then (x.1, x.2.1 - 1, x.2.2) else x) }
      else
        let tier := (tierOf frame).getD 0
        let f : PoolFrame := ⟨e.2.2.2, BitVec.ofNat 64 (2 ^ 63 + tier * 2 ^ 56 + frame), e.2.2.1⟩
        let d1 := { d with share := d.share.filter (fun x => x.1 != frame) }
        if !c.rangeMapped frame (2 ^ e.2.2.2) || (bit e.2.2.1 63 && !c.rangeMapped (fld e.2.2.1 0 48) (2 ^ e.2.2.2)) then d1
        else if tier = 0 then { d1 with sramFrames := d1.sramFrames ++ [f] } else { d1 with gddrFrames := d1.gddrFrames ++ [f] }

/-- A page's share count rises (R265). -/
def shareFrame (n : Fin 4) (frame : Nat) (m : Mach) : Mach :=
  m.on fun c => c.onDsq n fun d => { d with share := d.share.map (fun x => if x.1 == frame then (x.1, x.2.1 + 1, x.2.2) else x) }

/-- A leaf for a sequence from the pool, cleared, put into a directory entry (R264). -/
def takeLeaf (s : Fin 128) (da : Nat) (m : Mach) : Option Mach :=
  let n := dsqOf s
  match m.chip.dsq[n].leaves with
  | [] => none
  | l :: rest =>
    let m1 := m.on fun c => (c.onDsq n fun d => { d with leaves := rest }).onSeq s fun q => { q with poolLeaves := q.poolLeaves ++ [l] }
    some ((m1.own l (List.replicate 4096 0)).own da (bytesLe 8 (2 ^ 63 + l)))

/-- A page made ready for a row (R264): leaf, frame, frame-list entry, and a copy where the frame is shared. `none` for an empty pool. -/
def allocPage (s : Fin 128) (page : Nat) (m : Mach) : Option Mach :=
  let n := dsqOf s
  let da := m.ctx s 24 8 + page / 256 * 8
  let withLeaf := if bit (m.word da) 63 then some m else m.takeLeaf s da
  withLeaf.bind fun m0 =>
    let m1 := m0.on (Chip.uncache s (· == page))
    let pa := ((m1.word da) &&& 0x0000FFFFFFFFF000).toNat + page % 256 * 16
    let w0 := m1.word pa
    let w1 := m1.word (pa + 8)
    let la := m1.listAt s page
    let shift := m1.fshiftOf m1.chip.seq[s].plan
    if !bit w0 63 then
      (m1.takeFrame n shift).map fun r => r.2.setEntry pa la r.1.w0 r.1.w1
    else if bit w0 62 then
      (m1.takeFrame n shift).map fun r =>
        let old := fld w0 0 48
        let new := fld r.1.w0 0 48
        let m2 := r.2.copyRange old new (2 ^ shift)
        let m3 := if bit r.1.w1 63 then m2.copyRange old (fld r.1.w1 0 48) (2 ^ shift) else m2
        (m3.setEntry pa la r.1.w0 r.1.w1).releaseFrame n old
    else some (m1.setEntry pa la w0 w1)

/-- The valid entries of a leaf: page, place, words. -/
def leafPages (m : Mach) (k leaf : Nat) : List (Nat × Nat × W64 × W64) :=
  (List.range 256).filterMap fun j =>
    let w0 := m.word (leaf + 16 * j)
    if bit w0 63 then some (256 * k + j, leaf + 16 * j, w0, m.word (leaf + 16 * j + 8)) else none

/-- The pages of a live sequence by the leaves that a test of root and leaf lets through. -/
def pagesIf (m : Mach) (s : Fin 128) (ok : Nat → Nat → Bool) : List (Nat × Nat × W64 × W64) :=
  let root := m.ctx s 24 8
  let top := min 64 ((m.ctx s 80 4 + 16383) / 16384)
  (List.range top).flatMap fun k =>
    let de := m.word (root + 8 * k)
    let leaf := (de &&& 0x0000FFFFFFFFF000).toNat
    if bit de 63 && ok root leaf then m.leafPages k leaf else []

/-- The frames of a live sequence: page, place of its entry, words; only entries that are valid and whose tables can be read. -/
def pagesOf (m : Mach) (s : Fin 128) : List (Nat × Nat × W64 × W64) :=
  m.pagesIf s fun root leaf => (m.checkTable root 512).isNone && (m.checkTable leaf 4096).isNone

/-- Every page of a live sequence, those of lost tables too, as its sequencer knows them by its share counts (R264, log 47). -/
def pagesAll (m : Mach) (s : Fin 128) : List (Nat × Nat × W64 × W64) := m.pagesIf s fun _ _ => true

/-! ### The end of a GENERATE (R239, R240, R243) -/

end Mach

namespace Chip

/-- The number of Generating sequences of a plan, and the announced step of its parameters (R247, R268). -/
def stepping (c : Chip) (k : Nat) : Nat :=
  ((fins 128).filter (fun s => c.seq[s].st = .generating && c.seq[s].plan == k)).length
def powerStep (c : Chip) (k : Nat) : Int :=
  let p := (c.hif.plans.toList.getD k resetPlan).params
  (fieldLe p 52 2 : Int) - (fieldLe p 54 2 : Int)
def announceDsq (n : Fin 4) (step : Int) (lead : Nat) (c : Chip) : Chip :=
  if c.dsq[n].loadEn then c.announce (dsqSkerry n) step lead (0x10 + n.val) else c

/-- Whether a step of a plan runs. -/
def planRuns (c : Chip) (k : Nat) : Bool := c.dsq.toList.any fun d => match d.run with | some r => r.plan.val == k | none => false

/-- The end of a plan's stepping is announced by a sequencer, after the plan's last step (R268). -/
def fallOf (n : Fin 4) (k : Nat) (c : Chip) : Chip :=
  if c.planRuns k then c.onPlan (Fin.ofNat 16 k) fun p => { p with fall := some n } else c.announceDsq n (-(c.powerStep k)) 0

/-- A plan whose last step has ended makes the announcement that waited for it (R268). -/
def fallDue (k : Fin 16) (c : Chip) : Chip :=
  match c.hif.plans[k].fall with
  | some n => if c.planRuns k.val then c else (c.onPlan k fun p => { p with fall := none }).announceDsq n (-(c.powerStep k.val)) 0
  | none => c

/-- Whether a sequence has rows in the step its sequencer runs, counted or not. -/
def inRows (c : Chip) (s : Fin 128) : Bool := match c.dsq[dsqOf s].run with | some r => r.rows.any (fun w => w.seq == s) | none => false

/-- A sequence leaves Generating: it is Idle, or Broken, and its GENERATE completes (R243). The last one of its plan announces the end of stepping
(R268). -/
def closeGen (s : Fin 128) (st : SeqSt) (status result : Nat) (c : Chip) : Chip :=
  let q := c.seq[s]
  let c0 := c.onSeq s fun x => { x with st := st, cmd := none, stopReq := false, loose := false, endWith := none, ring := [], commits := false }
  let c1 : Chip := (c0.uncache s (fun _ => true)).onDsq (dsqOf s) fun (d : Dsq) => { d with run := d.run.map (fun r => { r with live := r.live.erase s }) }
  let c2 : Chip := match q.cmd with
    | some id => c1.endCmd id status result
    | none => c1
  if q.st = .generating ∧ c2.stepping q.plan = 0 then c2.fallOf (dsqOf s) q.plan else c2

/-- A sequence leaves Generating with a status: PAGE_LOST leaves it Broken, every other one Idle (R240, R266). -/
def closeWith (s : Fin 128) (status result : Nat) (c : Chip) : Chip :=
  if status = 0x0106 then (c.closeGen s .broken status result).dsqErr (dsqOf s) 3 else c.closeGen s .idle status result

/-- A plan stop or a lost page ends a sequence as of its last commit: at the end of the step that runs, whose results for it are dropped; its committed tokens are
written to the ring first (R239, R240, R266, R269). A lost page that waits so stays the end. -/
def forceEnd (s : Fin 128) (status : Nat) (c : Chip) : Chip :=
  let q := c.seq[s]
  let status := match q.endWith with | some (0x0106, _) => 0x0106 | _ => status
  if q.st = .generating ∧ ((!q.ring.isEmpty ∧ !q.loose) ∨ c.inRows s) then
    (c.onSeq s fun x => { x with endWith := some (status, q.made), commits := false }).onDsq (dsqOf s) fun d =>
      { d with run := d.run.map (fun r => { r with live := r.live.erase s }) }
  else c.closeWith s status (if q.st = .generating then q.made else 0)

/-- A sequence whose queue or port is lost is cut off at its time limit: no completion is written, what waits for the ring is dropped (R239, R269). -/
def dropGen (s : Fin 128) (c : Chip) : Chip :=
  c.closeWith s (match c.seq[s].endWith with | some (0x0106, _) => 0x0106 | _ => 0) 0

/-- A sequence whose end waited for ring entries, for its commit or for its rows' step is Idle once all are done. -/
def finishEnd (s : Fin 128) (c : Chip) : Chip :=
  let q := c.seq[s]
  match q.endWith with
  | some (st, res) => if !q.commits && (q.ring.isEmpty || q.loose) && !c.inRows s then c.closeWith s st res else c
  | none => c

/-- A sequence ends with a status and a reason; while tokens wait for ring space, or accepted rows wait to be moved, it stays Generating (R239,
R253). -/
def endGen (s : Fin 128) (status reason : Nat) (c : Chip) : Chip :=
  let q := c.seq[s]
  if q.st ≠ .generating then c
  else
    let result := (if status = 0 ∨ status = 0x0102 then reason * 2 ^ 24 else 0) + q.made
    if !q.commits && (q.ring.isEmpty || q.loose) then c.closeGen s .idle status result
    else c.onSeq s fun x => if x.endWith.isNone then { x with endWith := some (status, result) } else x

/-- Whether a sequence has rows in the step its sequencer runs. -/
def inRun (c : Chip) (s : Fin 128) : Bool :=
  match c.dsq[dsqOf s].run with
  | some r => r.live.contains s
  | none => false

/-- A sequence at a step boundary (R240, R244, R260, R269): one whose queue or port is lost is Idle, a requested stop and Draining end it. -/
def boundary (s : Fin 128) (c : Chip) : Chip :=
  let q := c.seq[s]
  if q.st ≠ .generating || c.inRun s || q.endWith.isSome then c
  else if q.loose then c.endGen s 0 0
  else if q.stopReq then c.endGen s 0 5
  else if c.mod.st = .draining then c.endGen s 0 6
  else c

/-- Every sequence that is at a step boundary (R269). -/
def boundaries (c : Chip) : Chip := each (fins 128) (fun (s : Fin 128) (d : Chip) => d.boundary s) c

end Chip

namespace Mach

def closeGen (s : Fin 128) (st : SeqSt) (status result : Nat) (m : Mach) : Mach := m.on (Chip.closeGen s st status result)
def endGen (s : Fin 128) (status reason : Nat) (m : Mach) : Mach := m.on (Chip.endGen s status reason)
def finishEnd (s : Fin 128) (m : Mach) : Mach := m.on (Chip.finishEnd s)

/-- A committed page is lost for good: the sequence is Broken (R240, R266). -/
def breakSeq (s : Fin 128) (m : Mach) : Mach :=
  if m.chip.seq[s].st = .free then m else m.on (Chip.forceEnd s 0x0106)

/-- Shadowing of a sequence stops (R305). -/
def stopShadow (s : Fin 128) (m : Mach) : Mach :=
  match m.chip.seq[s].shadow with
  | none => m
  | some h => m.on fun c =>
    let c1 := ((c.onSeq s fun q => { q with shadow := none }).strErr 8).faultSummary (dsqSkerry (dsqOf s)) 6 s.val 0x20
    each h.syncs (fun (e : Nat × Nat × Nat) (d : Chip) => d.endCmd e.1 e.2.2 (if e.2.2 = 0 then e.2.1 else 0)) c1

/-- Whether a page is being rebuilt from the partner (R307). -/
def rebuilding (m : Mach) (s : Fin 128) (page : Nat) : Bool :=
  m.chip.pendingFor fun o => match o with
    | .rebuildEntry t p _ => t == s && p == page
    | .rebuild t p _ _ => t == s && p == page
    | _ => false

/-- A committed page that no copy of the module holds is read from the partner into a pool frame; one the partner does not hold, or an empty pool, makes the
sequence Broken (R266, R307). -/
def rebuildPage (s : Fin 128) (page : Nat) (m : Mach) : Mach :=
  let n := dsqOf s
  let shift := m.fshiftOf m.chip.seq[s].plan
  match m.chip.seq[s].shadow with
  | some h =>
    if page < h.pages then
      match m.takeGddr n shift with
      | some r =>
        let new := fld r.1.w0 0 48
        r.2.on fun c =>
          (c.onDsq n fun d => { d with share := d.share ++ [(new, 1, 0, shift)] }).submit
            { pkt := Chip.mkPkt 2 c.str.partner (h.frameList + 16 * page) 16 0 [], mode := c.str.mShadow, last := none, tries := 0,
              owner := .rebuildEntry s page new }
      | none => m.breakSeq s
    else m.breakSeq s
  | none => m.breakSeq s

/-- A page whose frame or backing frame is lost (R266). -/
def losePage (s : Fin 128) (lost : Nat → Bool) (e : Nat × Nat × W64 × W64) (m : Mach) : Mach :=
  let n := dsqOf s
  let q := m.chip.seq[s]
  let page := e.1
  let frame := fld e.2.2.1 0 48
  let tier := fld e.2.2.1 56 2
  let back := fld e.2.2.2 0 48
  let la := m.listAt s page
  let shift := m.fshiftOf q.plan
  let old := m
  let m := m.on (Chip.uncache s (· == page))
  let rekey := fun (new : Nat) (w1 : W64) (x : Mach) => x.on fun c => c.onDsq n fun d =>
    { d with share := d.share.map (fun r => if r.1 == frame then (new, r.2.1, w1, r.2.2.2) else r) }
  let drop := fun (x : Mach) => x.on fun c => c.onDsq n fun d => { d with share := d.share.filter (fun r => r.1 != frame) }
  if q.st = .broken then old
  else if !(lost frame || (tier = 0 && lost back)) then old
  else if q.length ≤ 64 * page then
    if lost frame then drop (m.setEntry e.2.1 la 0 0)
    else match m.takeGddr n shift with
      | some r => rekey frame (BitVec.ofNat 64 (2 ^ 63 + fld r.1.w0 0 48)) (r.2.setEntry e.2.1 la e.2.2.1 (BitVec.ofNat 64 (2 ^ 63 + fld r.1.w0 0 48)))
      | none => drop (m.setEntry e.2.1 la 0 0)
  else if !lost frame then
    match m.takeGddr n shift with
    | some r =>
      let w1 := BitVec.ofNat 64 (2 ^ 63 + fld r.1.w0 0 48)
      rekey frame w1 ((r.2.copyRange frame (fld r.1.w0 0 48) (2 ^ shift)).setEntry e.2.1 la e.2.2.1 w1)
    | none => m.breakSeq s
  else if tier = 0 ∧ bit e.2.2.2 63 ∧ !lost back then
    rekey back 0 (m.setEntry e.2.1 la (BitVec.ofNat 64 (2 ^ 63 + 2 ^ 56 + back) ||| (e.2.2.1 &&& 0x4000000000000000)) 0)
  else drop (m.rebuildPage s page)

/-- A leaf of a shadowed sequence is lost: a pool leaf takes its place, the frames it named are released, and every committed page of it is rebuilt from the partner; without a shadow, a readable
root or a pool leaf the sequence is Broken (R266, R307, log 47). -/
def relay (s : Fin 128) (k : Nat) (m : Mach) : Mach :=
  let root := m.ctx s 24 8
  if m.chip.seq[s].shadow.isNone || (m.checkTable root 512).isSome || m.badRead (root + 8 * k) 8 then m.breakSeq s
  else match m.takeLeaf s (root + 8 * k) with
    | none => m.breakSeq s
    | some m1 =>
      let pages := (List.range 256).map (· + 256 * k)
      let old := m.leafPages k ((m.word (root + 8 * k)) &&& 0x0000FFFFFFFFF000).toNat
      let m2 := each old (fun (e : Nat × Nat × W64 × W64) (x : Mach) => x.releaseFrame (dsqOf s) (fld e.2.2.1 0 48)) m1
      each (pages.filter fun p => decide (64 * p < m.chip.seq[s].length)) (rebuildPage s) (m2.on (Chip.uncache s fun p => p / 256 == k))

/-- Every sequence is examined after a loss; pool entries on the lost unit leave the pools (R266). -/
def losePages (lost : Nat → Bool) (m : Mach) : Mach :=
  let keep := fun (f : PoolFrame) => !lost (fld f.w0 0 48) && !(bit f.w1 63 && lost (fld f.w1 0 48))
  let m1 := m.on fun c => { c with dsq := c.dsq.map (fun d =>
    { d with sramFrames := d.sramFrames.filter keep, gddrFrames := d.gddrFrames.filter keep, leaves := d.leaves.filter (fun l => !lost l) }) }
  each (fins 128) (fun (s : Fin 128) (x : Mach) =>
    if x.chip.seq[s].st = .free then x
    else
      let root := x.ctx s 24 8
      let leaves := (List.range 64).filter fun k =>
        let de := x.word (root + 8 * k)
        bit de 63 && lost ((de &&& 0x0000FFFFFFFFF000).toNat) && decide (16384 * k < x.chip.seq[s].length)
      if lost root || lost x.chip.seq[s].ctx then x.breakSeq s
      else each (x.pagesOf s) (fun (e : Nat × Nat × W64 × W64) (y : Mach) => y.losePage s lost e) (each leaves (relay s) x)) m1

end Mach
end Sys2Proof.Machine
end

