-- ==== Sys2Proof/Machine/Plans.lean ====
section
/-!
DEFINITION. What happens to tiles and plans as wholes: the state of R108, tile exceptions (R141, R142), aborted and re-run steps (R84, R219, R252),
stopped plans (R220, R269), failed loads (R230) and failed skerries (R88).
-/
namespace Sys2Proof.Machine

/-- Whether a sequencer's running step is one of a plan. -/
def Dsq.runs (d : Dsq) (k : Fin 16) : Bool := match d.run with | some r => decide (r.plan = k) | none => false

namespace Chip

/-- The image of a tile in its plan (R226). -/
def imgOf (c : Chip) (g : Fin 1024) : Option TileImg :=
  match c.tile[g].plan with
  | some k => c.hif.plans[k].imgs.find? (fun i => i.tile == g.val)
  | none => none
/-- The loaded instruction words of a tile (R82). -/
def progOf (c : Chip) (g : Fin 1024) : List W64 := match c.imgOf g with | some i => i.prog | none => []

/-- A tile with something to issue leaves Gated at once; from Nap it leaves by TILE_WAKE (R92). -/
def Tile.ungate (t : Tile) : Tile := if t.idle = 1 then { t with idle := 0 } else t
/-- A Gated period begins: the NAP_DELAY of the moment is the one it goes by (R93). -/
def Tile.rest (t : Tile) : Tile := { t with idle := 1, napHeld := none, woken := none }
/-- A tile with nothing to issue is Gated (R92). -/
def Tile.gate (t : Tile) : Tile := if t.idle = 0 then Tile.rest t else t
/-- A wake event reaches a tile at a time: one in Nap is due to leave it (R92, R94). -/
def Tile.call (now : Nat) (t : Tile) : Tile := if t.idle = 2 && t.woken.isNone then { t with woken := some now } else t

/-- HALT at the instruction boundary (R143). -/
def haltTile (g : Fin 1024) (c : Chip) : Chip :=
  c.onTile g fun t => match t.exec with
    | .running | .waiting => Tile.gate { t with exec := .halted }
    | _ => t

/-- The tiles of a plan. -/
def planTiles (p : Plan) : List (Fin 1024) := p.imgs.map (fun i => Fin.ofNat 1024 i.tile)

/-- The packets of a plan's steps leave the mesh when its tiles take the state of R108: those among its tiles, the sequencers and the plan runner (log 44). -/
def dropSteps (k : Fin 16) (c : Chip) : Chip :=
  let l := planTiles c.hif.plans[k]
  let mine := fun (e : MeshEnd) => match e with | .tile g => l.contains g | .dsq _ | .runner => true | .ce _ => false
  c.onMesh fun m => { m with sync := m.sync.filter fun q => !(mine q.src && mine q.dst) }

/-- The step starts of a plan go to every tile of its schedule, from the unit that runs the plan (R137, R219, R248). -/
def sendStarts (src : MeshEnd) (k : Fin 16) (words : Vector W64 4) (c : Chip) : Chip :=
  c.onMesh (Mesh.post (c.hif.plans[k].schedule.map fun t => ⟨src, .tile (Fin.ofNat 1024 t), .start words⟩))

/-- The step words of a decode step (R248). -/
def dsqWords (table serial : Nat) : Vector W64 4 := #v[BitVec.ofNat 64 table, BitVec.ofNat 64 serial, 0, 0]

/-- The plan a handle names (R190, R202). -/
def planOf (c : Chip) (h : Nat) : Except Nat (Fin 16) :=
  if hs : h % 2 ^ 18 < 16 then
    let p := c.hif.plans[(⟨h % 2 ^ 18, hs⟩ : Fin 16)]
    if p.st ≠ .free ∧ p.gen = h / 2 ^ 18 then .ok ⟨h % 2 ^ 18, hs⟩ else .error 3
  else .error 3

/-- Whether a command is a RUN_PLAN of a plan slot, by a live handle. -/
def runsPlan (c : Chip) (k : Fin 16) (y : Cmd) : Bool :=
  (match y.q with | .admin _ => false | .io _ => true) && y.op == 0x22 && y.ended.isNone && (match c.planOf (y.f 8 4) with | .ok j => j == k | .error _ => false)

/-- The RUN_PLANs of a runner plan that have been fetched but not started: those in its queue and those that still wait in theirs (R212, R220). -/
def waitingRuns (c : Chip) (k : Fin 16) : List Nat :=
  let p := c.hif.plans[k]
  p.queue ++ ((c.hif.cmds.filter (fun (y : Cmd) => p.kind == 2 && !y.late && !y.started && y.bar == 0 && c.runsPlan k y)).map (fun (y : Cmd) => y.id))

/-- A slot becomes Free and its generation advances (R191, R231). -/
def freePlan (k : Fin 16) (c : Chip) : Chip :=
  c.onPlan k fun p => { resetPlan with gen := if p.gen = 16383 then 1 else p.gen + 1 }

/-- A load fails: its slot is Free and the command completes (R230, R231). -/
def loadFail (k : Fin 16) (status : Nat) (c : Chip) : Chip :=
  match c.hif.loads.find? (fun l => l.slot == k.val) with
  | some l => ((c.onHif fun h => { h with loads := h.loads.filter (fun x => x.slot != k.val) }).freePlan k).endCmd l.cmd status 0
  | none => c

end Chip

namespace Mach

/-- Whether a tile can run: a working physical tile serves it and its skerry is Ready (R86, R103). -/
def tileWhole (m : Mach) (g : Fin 1024) : Bool :=
  let s := m.chip.sk[skOf g]
  s.st = .ready && (s.map.toList.getD (g.val % 64) ⟨false, false, 0⟩).valid

/-- Whether every tile of a plan can run. -/
def planWhole (m : Mach) (k : Fin 16) : Bool := (Chip.planTiles m.chip.hif.plans[k]).all m.tileWhole

/-- The state R108 gives a tile of a plan; a tile that is faulted or in reset gets it when it is served again. -/
def applyR108 (g : Fin 1024) (m : Mach) : Mach :=
  match m.chip.imgOf g with
  | none => m
  | some img =>
    if !m.tileWhole g then m else
    let m1 := m.clear (stagingAddr g) stagingSize
    let m2 := each img.staging (fun (s : Nat × Bytes) (x : Mach) => x.put (stagingAddr g + s.1) s.2) m1
    m2.on fun c => c.onTile g fun t => Chip.Tile.call m.chip.time <| Chip.Tile.ungate
      { t with x := Vector.replicate 16 0, c := Vector.replicate 16 0, acc := [], entry := img.entry, trap := img.trap, seed := img.seed,
               ctr := img.ctr, flags := 0, pc := 0, exec := .running, excDetail := 0, excPc := 0, excCount := 0, excCode := 0, starts := [],
               mat := none, vec := none, sfu := none, dm := [], inStep := false, stopped := none }

/-- The steps of a plan that run, oldest first. -/
def runsOf (m : Mach) (k : Fin 16) : List (Fin 4 × DsqRun) :=
  let l := (fins 4).filterMap (fun n => match m.chip.dsq[n].run with | some r => if r.plan = k then some (n, r) else none | none => none)
  sortBy (fun a b => decide (a.2.serial ≤ b.2.serial)) l

/-- The steps that run on a skerry are aborted (R84, R85 step 2). -/
def abortSteps (s : Fin 16) (m : Mach) : Mach :=
  m.on fun c =>
    let touches := fun (k : Fin 16) => bit c.hif.plans[k].mask s.val
    let plans := updAll c.hif.plans fun k (p : Plan) =>
      if touches k then { p with run := p.run.map (fun r => { r with aborted := true }) } else p
    let dsq := c.dsq.map fun (d : Dsq) =>
      { d with run := d.run.map (fun r => if touches r.plan then { r with aborted := true } else r) }
    { c with hif := { c.hif with plans := plans }, dsq := dsq }

/-- Whether a plan has an aborted step. -/
def hasAborted (m : Mach) (k : Fin 16) : Bool :=
  (match m.chip.hif.plans[k].run with | some r => r.aborted | none => false) || (m.runsOf k).any (fun r => r.2.aborted)

/-- An aborted step is run again once every tile of its plan is whole: R108 on every tile, then the same table and the same starts (R84, R86, R108, R219, R252). -/
def rerunPlan (k : Fin 16) (m : Mach) : Mach :=
  if !m.hasAborted k || m.chip.hif.plans[k].st ≠ .ready || !m.planWhole k then m
  else
    let p := m.chip.hif.plans[k]
    let m1 := each (Chip.planTiles p) (fun (g : Fin 1024) (x : Mach) => x.applyR108 g) (m.on (Chip.dropSteps k))
    let m2 := m1.on fun c =>
      match p.run with
      | some r => (c.onPlan k fun q => { q with run := some { r with aborted := false, waiting := q.schedule } }).sendStarts .runner k r.words
      | none => c
    each (m2.runsOf k) (fun (r : Fin 4 × DsqRun) (x : Mach) => (x.write r.2.table r.2.bytes).on fun c =>
      let c1 := (c.onDsq r.1 fun d => { d with run := some { r.2 with aborted := false, waiting := p.schedule, ready := [], drawn := [], treeN := none } }).dsqErr r.1 0
      c1.sendStarts (.dsq r.1) k (Chip.dsqWords r.2.table r.2.serial)) m2

/-- The steps that were aborted on a skerry are run again once no remap of it is left. -/
def rerunSteps (s : Fin 16) (m : Mach) : Mach :=
  each (fins 16) (fun (k : Fin 16) (x : Mach) => if bit x.chip.hif.plans[k].mask s.val then x.rerunPlan k else x) m

/-- A plan stops (R220, R269): its tiles halt, its commands and its sequences' GENERATEs complete, a class 5 event is posted. `who` is the tile of
an exception; SLOT of DSQ_WALK_INFO, which means no sequence then, keeps its value (DESIGN CHOICE, log 53: R271 does not say). -/
def planStop (k : Fin 16) (status : Nat) (who : Nat) (m : Mach) : Mach :=
  let p := m.chip.hif.plans[k]
  if p.st ≠ .ready then m
  else
    let m1 := m.on fun c =>
      let c1 := each (Chip.planTiles p) (fun (g : Fin 1024) (d : Chip) => d.haltTile g) c
      let c2 := (c1.onPlan k fun q => { q with st := .stopped, run := none, queue := [] }).postEither (Chip.eventWord 5 0 k.val (status % 256))
      let c3 := match p.run with
        | some r => c2.endCmd r.cmd status (if status = 0x0F then who else 0)
        | none => c2
      each (c.waitingRuns k) (fun (id : Nat) (d : Chip) => d.endCmd id 0x0E 0) c3
    if p.kind = 0 then
      let m2 := m1.on fun c =>
        let ends := fun (n : Fin 4) => c.dsq[n].runs k || ((fins 128).any fun s => dsqOf s == n && c.seq[s].st == .generating && c.seq[s].plan == k.val)
        { c with dsq := updAll c.dsq fun n (d : Dsq) =>
            let d1 := if d.prevPlan = k.val then { d with commitMap := 0 } else d
            let d2 := if d1.runs k then { d1 with run := none } else d1
            if status = 0x0F && ends n then { d2 with wiValid := true, wiCode := 0xFF, wiPos := who } else d2 }
      (fun (x : Mach) => x.on (Chip.fallDue k)) <| each (fins 128) (fun (s : Fin 128) (x : Mach) =>
        if x.chip.seq[s].st = .generating ∧ x.chip.seq[s].plan = k.val then x.on (Chip.forceEnd s status) else x) m2
    else if p.kind = 1 then
      m1.on fun c =>
        let hit := fun (n : Fin 4) =>
          c.dsq[n].runs k || ((fins 128).any fun s => dsqOf s == n && c.seq[s].st == .generating && c.seq[s].draft == some k.val)
        let dsq := updAll c.dsq fun n (d : Dsq) =>
          let d1 := if d.runs k then { d with run := none } else d
          if hit n then { d1 with err := setBit d1.err 5 true } else d1
        let c1 : Chip := { c with seq := c.seq.map (fun q => if q.draft = some k.val then { q with draft := none } else q), dsq := dsq }
        -- an end that waited for the draft step comes now (R240, R269)
        (each (fins 128) (fun (s : Fin 128) (d : Chip) => d.finishEnd s) c1).boundaries
    else m1

/-- An exception of an instruction at a place in program order (R141, R142): the earliest is the one recorded, the tile stops, and a plan that
runs a step stops once the event has reached the unit that started it (R99). COUNT of SKR_T_EXC counts the exception that stops the tile, not those that R141 discards (DESIGN
CHOICE, log 53: R144 does not say). -/
def tileException (g : Fin 1024) (ord pc code detail : Nat) (m : Mach) : Mach :=
  let t := m.chip.tile[g]
  let first := t.stopped.isNone
  let earlier := match t.stopped with | some o => decide (ord < o) | none => true
  let m1 := m.on fun c => c.onTile g fun t =>
    let t1 := if earlier then { t with excCode := code, excDetail := detail % 2 ^ 32, excPc := pc, stopped := some ord } else t
    Chip.Tile.gate { t1 with exec := .exception, excCount := if first then min 255 (t.excCount + 1) else t.excCount }
  match t.plan with
  | some k =>
    if first && (t.inStep || m.chip.hif.plans[k].run.isSome || !(m.runsOf k).isEmpty) then
      match m.chip.hif.plans[k].run, (m.runsOf k).head? with
      | none, some r => m1.signal ⟨.tile g, .dsq r.1, .exception k⟩ (planStop k 0x0F g.val)
      | _, _ => m1.planStop k 0x0F g.val
    else m1
  | none => m1

/-- A skerry fails (R88, R102): its tiles stop, the plans and loads that use it fail, pages on it are lost, a fault summary is posted. -/
def skerryFail (s : Fin 16) (cause : Nat) (m : Mach) : Mach :=
  if m.chip.sk[s].st = .failed then m
  else
    let m1 := m.on fun c =>
      let c1 := c.onSk s fun k => { k with st := .failed, fault := setBit k.fault 3 true, loading := none, remapQ := [] }
      let c2 := each (tilesOf s) (fun (g : Fin 1024) (d : Chip) => d.onTile g fun t => { t with exec := .faulted, idle := 3 }) c1
      let c3 := c2.faultSummary s 2 s.val cause
      { c3 with held := c3.held.filter (fun h => !(regionOf h.addr == .sram && skOf (tileOfSram h.addr) == s)) }
    let m2 := each (fins 16) (fun (k : Fin 16) (x : Mach) =>
      if bit x.chip.hif.plans[k].mask s.val then
        match x.chip.hif.plans[k].st with
        | .ready => x.planStop k 0x15 0
        | .loading => x.on fun c => c.loadFail k 0x15
        | _ => x
      else x) m1
    m2.losePages fun a => a / skerrySpan == s.val && decide (a < sramSize)

/-- A tile reaches the END of the step it runs (R137, R219, R252): it no longer owes its END. -/
def endReached (g : Fin 1024) (m : Mach) : Mach :=
  let t := m.chip.tile[g]
  if !t.inStep then m
  else
    let m1 := m.on fun c => c.onTile g fun t => { t with inStep := false }
    match t.plan with
    | none => m1
    | some k =>
      match m.chip.hif.plans[k].run with
      | some r => if r.aborted then m1 else m1.on fun c => c.onPlan k fun p => { p with run := some { r with waiting := r.waiting.erase g.val } }
      | none =>
        match (m.runsOf k).find? (fun r => r.2.waiting.contains g.val && !r.2.aborted) with
        | some r => m1.on fun c => c.onDsq r.1 fun d => { d with run := some { r.2 with waiting := r.2.waiting.erase g.val } }
        | none => m1

end Mach
end Sys2Proof.Machine
end

