-- ==== Sys2Proof/Machine/Experts.lean ====
section
/-!
DEFINITION. Plan parameters (R247), and the cold experts of a plan: its table, slots and page-ins (R246, R267).
-/
namespace Sys2Proof.Machine

/-- A plan parameter by its byte offset past header byte 64 (R247). -/
def Plan.prm (p : Plan) (off n : Nat) : Nat := fieldLe p.params off n

namespace Chip

def planAt (c : Chip) (k : Nat) : Plan := c.hif.plans.toList.getD k resetPlan

end Chip

namespace Mach

def planN (m : Mach) (k : Nat) : Plan := m.chip.planAt k

/-- The expert table entry of a plan. -/
def expertAt (p : Plan) (e : Nat) : Nat := p.prm 24 8 + 16 * e
/-- Whether an offset lies in no active window. -/
def imageGone (m : Mach) (p : Plan) (e : Nat) : Bool :=
  let a := m.readNat (expertAt p e) 8
  !(regionOf a == .cxl && m.chip.rangeMapped a (p.prm 46 2 * p.prm 36 4))
/-- The word of an expert's entry written by the sequencer that serves the plan's requests, or held with its slice (R163). -/
def setExpert (p : Plan) (e slot st : Nat) (m : Mach) : Mach :=
  m.writeOrHold .bar (some (dsqSkerry (Fin.ofNat 4 (p.prm 7 1))).val) (expertAt p e + 8) (bytesLe 2 slot ++ bytesLe 1 st)
/-- Whether a plan's expert table lies in a held slice: what reads it waits (R163). -/
def expertHeld (m : Mach) (p : Plan) : Bool := p.prm 32 2 != 0 && m.chip.holds (some (dsqSkerry (Fin.ofNat 4 (p.prm 7 1))).val) (p.prm 24 8) (16 * p.prm 32 2)
/-- Whether a step that has not ended asked for an expert. -/
def askedFor (m : Mach) (k e : Nat) (n : Fin 4) : Bool :=
  m.chip.dsq[n].used.any (fun u => u.1 == k && u.2.1 == e && (m.runsOf (Fin.ofNat 16 k)).any (fun r => r.2.serial == u.2.2 && !r.2.waiting.isEmpty))
/-- The slot an expert can have: a free one, else that of the least recently requested expert no unended step asked for, with that expert. -/
def expertSlot (m : Mach) (n : Fin 4) (k : Nat) : Option (Nat × Option Nat) :=
  let p := m.planN k
  let held := (List.range (p.prm 32 2)).filterMap (fun e =>
    let st := m.readNat (expertAt p e + 10) 1
    if st = 2 ∨ st = 3 then some (e, m.readNat (expertAt p e + 8) 2, st) else none)
  match (List.range (p.prm 34 2)).find? (fun s => !held.any (fun h => h.2.1 == s)) with
  | some s => some (s, none)
  | none =>
    let victims := held.filter (fun h => h.2.2 == 3 && !m.askedFor k h.1 n)
    let age := fun (e : Nat) => (firstIdx (fun (u : Nat × Nat × Nat) => u.1 == k && u.2.1 == e) m.chip.dsq[n].used).elim 0 (· + 1)
    (sortBy (fun a b => decide (age a.1 ≤ age b.1)) victims).head?.map (fun h => (h.2.1, some h.1))

/-- Waiting requests begin their page-ins, up to four at once; an image in a down window stops the plan. -/
def pageIns (n : Fin 4) (m : Mach) : Mach :=
  each m.chip.dsq[n].waiters (fun (w : Nat × Nat × Nat) (y : Mach) =>
    let p := y.planN w.1
    if p.st ≠ .ready ∨ y.expertHeld p ∨ y.readNat (expertAt p w.2.1 + 10) 1 ≠ 1 then y
    else if y.imageGone p w.2.1 then (y.on fun c => c.dsqErr n 4).planStop (Fin.ofNat 16 w.1) 0x0109 0
    else if 4 ≤ y.chip.dsq[n].pageIns.length then y
    else match y.expertSlot n w.1 with
      | none => y
      | some (slot, old) =>
        let y1 := match old with | some e => y.setExpert p e slot 1 | none => y
        (y1.setExpert p w.2.1 slot 2).on fun c => c.onDsq n fun d => { d with pageIns := d.pageIns ++ [(w.1, w.2.1, slot)] }) m

end Mach
end Sys2Proof.Machine
end

