-- ==== Sys2Proof/Machine/Actuators.lean ====
section
/-!
DEFINITION. The actuator driver's channels and the blowers as devices: peaks, holds, decays, faults, probes, pulses, retries
(R397 to R412). What a channel's event means for the module's own sequences is in Power.lean.
-/
namespace Sys2Proof.Machine
namespace Chip

/-- The partner of an isolation-valve channel, or the channel itself (R397). -/
def partner (k : Fin 10) : Fin 10 :=
  match k.val with
  | 0 => 1
  | 1 => 0
  | 2 => 3
  | 3 => 2
  | _ => k

/-- The other channel on a shared supply switch (R397). -/
def switchMate (k : Fin 10) : Option (Fin 10) :=
  match k.val with
  | 4 => some 5
  | 5 => some 4
  | 6 => some 7
  | 7 => some 6
  | _ => none

/-- Whether the isolation valve of channels 0, 1 or 2, 3 is served by the channel. -/
def isIso (k : Fin 10) : Bool := k.val < 4
def isTrim (k : Fin 10) : Bool := 4 ≤ k.val && k.val ≤ 7

/-- Peak and hold current per channel in units of 10 mA (R397). -/
def peakMa (k : Fin 10) : Nat := if k.val < 4 then 600 else 400
def holdMa (k : Fin 10) : Nat := if k.val < 4 then 25 else if k.val < 8 then 40 else 30

/-- Whether some channel of a list is in a phase. -/
def anyPhase (c : Chip) (ks : List (Fin 10)) (p : ChPhase) : Bool := ks.any (fun k => c.ad.ch[k].phase == p)

/-- The channels of the other isolation valve. -/
def otherValve (k : Fin 10) : List (Fin 10) := if k.val < 2 then [2, 3] else [0, 1]

/-- Whether a channel's armature is held or in flight still: a decay runs, or has ended within 5 ms (R400). -/
def settling (h : Chan) (now : Nat) : Bool :=
  h.phase == .decay || h.fading || (match h.decayEnd with | some t => decide (now < t + 50) | none => false)

/-- A peak starts now; movement is judged in it unless the armature has not settled (R400). -/
def startPeak (k : Fin 10) (c : Chip) : Chip :=
  c.onCh k fun h => { h with phase := .peak, current := peakMa k, judged := !settling h c.time, fading := false }

/-- A peak request waits in a phase; a decay that runs goes on meanwhile (R401). -/
def waitIn (p : ChPhase) (h : Chan) : Chan := { h with phase := p, fading := h.fading || h.phase == .decay }

/-- A peak request: it waits for the boost rail, for the other isolation valve's peak, or for its shared switch; else it starts
(R398, R402). -/
def requestPeak (k : Fin 10) (c : Chip) : Chip :=
  if !c.ad.boost then c.onCh k (waitIn .waitBoost)
  else if isIso k && (c.anyPhase (otherValve k) .peak || c.anyPhase (otherValve k) .waitIso && k.val ≥ 2) then c.onCh k (waitIn .waitIso)
  else if isTrim k then c.onCh k (waitIn .waitSwitch)
  else c.startPeak k

/-- An energise command on one channel in its phase (R401); a locked-off channel or a refusing pair stays as it is (R405, R406). -/
def energise1 (k : Fin 10) (c : Chip) : Chip :=
  let h := c.ad.ch[k]
  if h.locked then c
  else match h.phase with
    | .off | .decay => c.requestPeak k
    | _ => c

/-- A request that waits is dropped: the channel is off, or in the decay that still runs (R401). -/
def dropWait (h : Chan) : Chan := { h with phase := if h.fading then .decay else .off, fading := false }

/-- A de-energise command on one channel (R401): the energised position is no longer known until a probe has run (R407). -/
def deenergise1 (k : Fin 10) (c : Chip) : Chip :=
  match c.ad.ch[k].phase with
  | .peak | .hold => c.onCh k fun x => { x with phase := .decay, probes := 0, pos := 0 }
  | .waitBoost | .waitIso | .waitSwitch => c.onCh k dropWait
  | .off => c.onCh k fun x => { x with pos := if x.pos = 2 then 0 else x.pos }
  | .decay => c

/-- A command to both channels of a valve, or to the one channel of another load. -/
def energise (k : Fin 10) (c : Chip) : Chip :=
  if isIso k then (c.energise1 k).energise1 (partner k) else c.energise1 k
def deenergise (k : Fin 10) (c : Chip) : Chip :=
  if isIso k then (c.deenergise1 k).deenergise1 (partner k) else c.deenergise1 k

/-- Both isolation valves are commanded closed. -/
def closeValves (c : Chip) : Chip := (c.deenergise 0).deenergise 2

/-- Peaks of the other isolation valve that waited start (R398). -/
def releaseIso (c : Chip) : Chip :=
  if c.anyPhase [0, 1, 2, 3] .peak then c
  else
    let ks : List (Fin 10) := if c.anyPhase [0, 1] .waitIso then [0, 1] else [2, 3]
    each ks (fun k (d : Chip) => if d.ad.ch[k].phase == .waitIso then d.startPeak k else d) c

/-- The word of a channel (R404). -/
def chWord (h : Chan) : Nat := h.fault * 4096 + h.pos * 1024 + h.current % 1024

/-- A fault code is set on a channel: its EMCY condition carries the code and the current (R404, R453). -/
def chFault (k : Fin 10) (code : Nat) (c : Chip) : Chip :=
  let cur := c.ad.ch[k].current
  (c.onCh k fun h => { h with fault := code }).condCause (code ≠ 0) 0x5110 k.val code cur

/-- Stuck-valve faults are counted for the life of the module, object 3020.0E (R419). -/
def countStuck (c : Chip) : Chip := { c with ad := { c.ad with stuckCount := satAdd 32 c.ad.stuckCount 1 } }

/-- A fault of R405 on a channel during a peak, with its consequence: an isolation pair is de-energised and refuses; a trim channel is
locked off, after a stuck fault only at the third; channel 8 refuses (R405, R406). -/
def peakFault (k : Fin 10) (code : Nat) (c : Chip) : Chip :=
  if isIso k then
    let c1 := (c.deenergise k).chFault k code
    (c1.onCh k fun h => { h with locked := true }).onCh (partner k) fun h => { h with locked := true }
  else if isTrim k then
    if code = 1 then
      let n := c.ad.ch[k].stuck + 1
      if n ≥ 3 then ((c.deenergise1 k).onCh k fun h => { h with stuck := n, locked := true, pulsing := false }).chFault k 7
      else ((c.onCh k fun h => { h with stuck := n, phase := .hold, current := holdMa k }).chFault k 1)
    else ((c.deenergise1 k).onCh k fun h => { h with locked := true, pulsing := false }).chFault k code
  else ((c.deenergise1 k).onCh k fun h => { h with locked := true }).chFault k code

/-- A peak ends with hold (R400): POSITION becomes 2 at a dip on channels 0–3 and 8 (R407); a fault before the third stuck clears. -/
def peakDone (k : Fin 10) (dip : Bool) (c : Chip) : Chip :=
  let c1 := c.onCh k fun h =>
    { h with phase := .hold, current := holdMa k, pos := if dip && !isTrim k then 2 else h.pos, stuck := if dip && h.judged then 0 else h.stuck }
  if dip && c.ad.ch[k].fault = 1 then c1.chFault k 0 else c1

/-- The end of a channel's peak as its current showed it (R397, R400, R405). Missing movement in a peak that is not judged means nothing. -/
def endPeak (k : Fin 10) (r : PeakResult) (c : Chip) : Chip :=
  if c.ad.ch[k].phase ≠ .peak then c
  else
    let ks : List (Fin 10) := if isIso k then [k, partner k] else [k]
    let ended : Chip := match r with
      | .dip => each ks (fun (j : Fin 10) (d : Chip) => if d.ad.ch[j].phase == .peak then d.peakDone j true else d) c
      | .noDip =>
        if c.ad.ch[k].judged then (c.peakFault k 1).countStuck
        else each ks (fun (j : Fin 10) (d : Chip) => if d.ad.ch[j].phase == .peak then d.peakDone j false else d) c
      | .openCoil => c.peakFault k 2
      | .switchFault =>
        match switchMate k with
        | some j => (c.peakFault k 4).peakFault j 4
        | none => c.peakFault k 4
    ended.releaseIso

/-- The end of a decay: the channel is off, or waits on with its request, and its 5 ms window starts (R400, R401). -/
def endDecay (k : Fin 10) (c : Chip) : Chip :=
  if c.ad.ch[k].phase = .decay then c.onCh k fun h => { h with phase := .off, current := 0, decayEnd := some c.time }
  else if c.ad.ch[k].fading then c.onCh k fun h => { h with fading := false, current := 0, decayEnd := some c.time } else c

/-- A peak that waited 5 ms for the boost rail reports boost rail low (R398, R405). -/
def boostTimeout (k : Fin 10) (c : Chip) : Chip :=
  if c.ad.ch[k].phase = .waitBoost then
    (c.onCh k dropWait).peakFault k 5
  else c

/-- A channel over 8 A is off at once (R398). In a peak it is a fault of R405; on a held isolation valve the partner, where it holds, holds alone and
reports 0x8, and the valve then refuses to open again (R406). The last channel of a valve that is off lets it close, its position unknown until a probe has run. -/
def overCurrent (k : Fin 10) (c : Chip) : Chip :=
  let h := c.ad.ch[k]
  let off := c.onCh k fun x => { x with phase := .off, current := 0, decayEnd := some c.time }
  match h.phase with
  | .peak => (off.peakFault k 3).releaseIso
  | .hold =>
    if isIso k then
      let p := partner k
      let c1 := (off.onCh k fun x => { x with locked := true }).chFault k 3
      if c.ad.ch[p].phase = .hold then (c1.onCh p fun x => { x with locked := true, current := 2 * holdMa p }).chFault p 8
      else (c1.onCh k fun x => { x with probes := 0, pos := 0 }).onCh p fun x => { x with locked := true, probes := 0, pos := 0 }
    else off.peakFault k 3
  | _ => c

/-- The shared switch takes the requests that wait, lower channel first, while its partner does not peak (R402). -/
def switchBoundary (lo hi : Fin 10) (c : Chip) : Chip :=
  if c.anyPhase [lo, hi] .peak then c
  else if c.ad.ch[lo].phase = .waitSwitch then c.startPeak lo
  else if c.ad.ch[hi].phase = .waitSwitch then c.startPeak hi
  else c

/-- The two parts of a pulse period, kept exact as milliseconds times `200 × FREQ` (R403):
energised `1000 × DUTY`, de-energised `1000 × (200 − DUTY)`; compared with 3 ms and 6 ms. -/
def staysOff (h : Chan) : Bool := 1000 * h.pDuty < 3 * 200 * h.pFreq
def staysOn (h : Chan) : Bool := 1000 * (200 - h.pDuty) < 6 * 200 * h.pFreq

/-- A pulse period starts: changes of DUTY and FREQ take effect, and the channel is energised unless its part is too short (R403). -/
def periodStart (k : Fin 10) (c : Chip) : Chip :=
  if isTrim k && c.ad.ch[k].mode = 2 then
    let c1 := c.onCh k fun h => { h with pulsing := true, pDuty := h.duty, pFreq := h.freq }
    if staysOff c1.ad.ch[k] then c1.deenergise1 k else c1.energise1 k
  else c

/-- The energised part of a period ends (R403). -/
def periodOff (k : Fin 10) (c : Chip) : Chip :=
  if isTrim k && c.ad.ch[k].pulsing && !staysOn c.ad.ch[k] then c.deenergise1 k else c

/-- A position probe of a de-energised isolation valve or of the lock, its current in 10 mA (R407). -/
def probe (k : Fin 10) (ma10 : Nat) (c : Chip) : Chip :=
  let ks : List (Fin 10) := if isIso k then [k, partner k] else [k]
  if c.ad.boost && (isIso k || k.val = 8) && ks.all (fun j => c.ad.ch[j].phase == .off) then
    if ma10 ≥ 40 then
      each ks (fun (j : Fin 10) (d : Chip) =>
        let d1 := d.onCh j fun h => { h with pos := 1, probes := 0 }
        if d.ad.ch[j].fault = 6 then d1.chFault j 0 else d1) c
    else
      each ks (fun (j : Fin 10) (d : Chip) =>
        let n := d.ad.ch[j].probes + 1
        let d1 := d.onCh j fun h => { h with probes := n }
        if n ≥ 3 then (d1.onCh j fun h => { h with pos := 3 }).chFault j 6 else d1) c
  else c

/-- The lock is released only while the applied frame's state is Aux, Standby or Tripped, both isolation valves report the spring position and the command stands;
when one of these ends, channel 8 is de-energised (R408). -/
def lockWatch (c : Chip) : Chip :=
  let st := c.recv[(16 : Fin 19)].state
  let may := (st = 1 || st = 2 || st = 8) && c.ad.ch[(8 : Fin 10)].mode = 1 && [0, 1, 2, 3].all (fun (k : Fin 10) => c.ad.ch[k].pos = 1)
  if may || c.ad.ch[(8 : Fin 10)].phase = .off || c.ad.ch[(8 : Fin 10)].phase = .decay then c else c.deenergise 8

/-- Channel faults cleared through object 3020.0D: bit c clears channel c, and with it a partner's 0x8; an isolation pair energises again once neither of its
channels holds a fault that refused it (R405, R406, R419). -/
def clearFaults (v : Nat) (c : Chip) : Chip :=
  each (fins 10) (fun k (d : Chip) =>
    if nbit v k.val then
      let j := partner k
      let d1 := (d.onCh k fun h => { h with stuck := 0 }).chFault k 0
      let d2 := if isIso k && d1.ad.ch[j].fault == 8 then d1.chFault j 0 else d1
      if d2.ad.ch[j].fault = 0 ∨ d2.ad.ch[j].fault = 6 then
        (d2.onCh k fun h => { h with locked := false }).onCh j fun h => { h with locked := false }
      else d2
    else d) c

/-- The boost rail reaches 80 V: peaks that waited for it start (R398). -/
def boostUp (c : Chip) : Chip :=
  let c1 := { c with ad := { c.ad with boost := c.pwr.hotSwap, boostV := if c.pwr.hotSwap then 900 else 0 } }
  if c.pwr.hotSwap then
    each (fins 10) (fun k (d : Chip) => if d.ad.ch[k].phase == .waitBoost then d.requestPeak k else d) c1
  else c1

/-- Channels 0–8 are switched off (R40, R415): energised channels decay, waiting requests are dropped, pulses stop. -/
def channelsOff (c : Chip) : Chip :=
  each (fins 10) (fun k (d : Chip) => (d.deenergise1 k).onCh k fun h => { h with mode := 0, pulsing := false }) c

/-! ### Blowers (R409 to R412) -/

def onBlower (b : Fin 2) (f : Blower → Blower) (c : Chip) : Chip := { c with blow := upd c.blow b f }

/-- The duty a blower runs at: 100 % in Ochre hold and after a trip (R37, R415); at least 30 % for the first 2 s of a start; nothing while
stalled (R410). -/
def appliedDuty (b : Blower) : Nat :=
  if b.stalled then 0
  else
    let d := if b.full then 1000 else b.duty
    if b.starting && d > 0 then max d 300 else d

/-- The duty a blower is driven at: the 54 V input feeds it (R40, R409). -/
def drivenDuty (c : Chip) (b : Fin 2) : Nat := if c.pwr.hotSwap then appliedDuty c.blow[b] else 0

/-- A start, while the 54 V input is there (R409, R410). -/
def blowerStart (b : Fin 2) (c : Chip) : Chip :=
  if c.pwr.hotSwap then
    (c.onBlower b fun x => { x with starting := true, stalled := false, startedAt := c.time }).condClear 0x5210 b.val
  else c

/-- The blowers follow the 54 V input: they stop with it, and those commanded above 0 start again with it (R40, R409, R410). -/
def blowersFed (c : Chip) : Chip :=
  each (fins 2) (fun (b : Fin 2) (d : Chip) =>
    let x := d.blow[b]
    if !d.pwr.hotSwap then d.onBlower b fun y => { y with starting := false }
    else if x.full || decide (0 < x.duty) then d.blowerStart b else d) c

/-- A commanded duty and RESTART counter applied to a blower: a rise from 0 or a changed counter starts it; a changed counter also resets the
retry sequence (R410). -/
def blowerApply (b : Fin 2) (duty : Nat) (restart : Byte) (c : Chip) : Chip :=
  let old := c.blow[b]
  let c1 := c.onBlower b fun x => { x with duty := duty, restart := restart, retry := if restart ≠ old.restart then 0 else x.retry }
  if restart ≠ old.restart then c1.blowerStart b
  else if old.duty = 0 && duty > 0 then c1.blowerStart b
  else c1

/-- A blower without a tach pulse is stalled: its drive is removed (R410). -/
def blowerStall (b : Fin 2) (c : Chip) : Chip :=
  let x := c.blow[b]
  if c.pwr.hotSwap && (x.duty > 0 || x.full) && !x.stalled then
    (c.onBlower b fun y => { y with stalled := true, starting := false }).condRaise 0x5210 b.val 0 x.ma.toNat
  else c

/-- A retry of a stalled blower (R410). -/
def blowerRetry (b : Fin 2) (c : Chip) : Chip :=
  if c.pwr.hotSwap && c.blow[b].stalled then (c.onBlower b fun y => { y with retry := y.retry + 1 }).blowerStart b else c

/-- The wait before a stalled blower's next retry: 5, 10, 20, 40 s, then 60 s (R410). -/
def retryWait (n : Nat) : Nat := [5, 10, 20, 40].getD n 60

/-- A tach gap of 1 s: the wire when the current lies within 50–150 % of the factory curve, else a stall (R411). -/
def tachGap (b : Fin 2) (percent : Nat) (c : Chip) : Chip :=
  let x := c.blow[b]
  if c.pwr.hotSwap && (x.duty > 0 || x.full) && !x.stalled then
    if 50 ≤ percent ∧ percent ≤ 150 then
      (c.onBlower b fun y => { y with tachBroken := true, rpm := 0x8000 }).condRaise 0x5220 b.val 0 x.ma.toNat
    else c.blowerStall b
  else c

/-- Both blowers at full duty (R37, R415). -/
def blowersFull (on : Bool) (c : Chip) : Chip :=
  if on then
    each (fins 2) (fun b (d : Chip) =>
      let was := appliedDuty d.blow[b]
      let d1 := d.onBlower b fun x => { x with full := true }
      if was = 0 && !d.blow[b].stalled then d1.blowerStart b else d1) c
  else each (fins 2) (fun b (d : Chip) => d.onBlower b fun x => { x with full := false }) c

/-! ### The indicator outputs (R506, R507) -/

/-- A flash of a period, in base ticks, with 50 % duty: on in its first half. -/
def flash (period now : Nat) : Bool := decide (now % period < period / 2)

/-- IND_FAULT (R506), from the actuator driver's own view: on in Tripped, flashing at 1 Hz in Ochre hold. -/
def indFault (c : Chip) : Bool :=
  if c.ad.latch ≠ 0 ∨ c.recv[(16 : Fin 19)].state = 8 then true else c.recv[(16 : Fin 19)].orphan && flash (secs 1) c.time
/-- IND_OK2RM (R506), from the same view: on in Aux, Standby and Tripped where both isolation valves report POSITION 1, flashing at 2 Hz in Draining. Before the first
frame the view is Aux. -/
def indRemove (c : Chip) : Bool :=
  let r := c.recv[(16 : Fin 19)]
  if c.mod.st = .unpowered then false
  else if c.ad.latch ≠ 0 ∨ (!r.orphan && (r.state ≤ 2 || r.state = 8)) then [0, 1, 2, 3].all (fun (k : Fin 10) => c.ad.ch[k].pos = 1)
  else !r.orphan && r.state = 6 && flash (secs 1 / 2) c.time

end Chip
end Sys2Proof.Machine
end

