-- ==== Sys2Proof/Machine/Package.lean ====
section
/-!
DEFINITION. What the package loses with its rails (R222, R430, R435), and the tile clock (R89 to R91).
-/
namespace Sys2Proof.Machine
namespace Chip

/-- SKR_STATUS.SPARES_FREE: a spare counts until it takes a tile at step 5 of R85, or is retired (R85, R87, R103). -/
def sparesFree (k : Skerry) : Nat := (k.phys.toList.filter (fun e => e.1 == 1 || e.1 == 4)).length

/-- Whether the ceilings leave room for a clock code: the skerry's for any, above 1.6 GHz the package's too (R43). -/
def codeFits (s : Skerry) (n : Nat) : Bool :=
  decide (Config.clockNeed n ≤ s.ceil) && (decide (n ≤ 32) || decide (Config.boostNeed n ≤ s.pkgCeil))

/-- The highest clock code that the ceilings allow, 8 at least (R43, R89). -/
def ceilCode (s : Skerry) : Nat := ((List.range 31).map (· + 8)).foldl (fun b n => if codeFits s n then n else b) 8

/-- The highest clock code that ceiling, clamp and CLK_LIM allow: SKR_CLOCK.LIMIT (R89). -/
def clockLimit (s : Skerry) : Nat := min s.clkLim (min (ceilCode s) (if s.clamp then 8 else 38))

/-- The applied clock is the lower of request and limit in every state but Off (R89, R90, R103). -/
def reclock (i : Fin 16) (c : Chip) : Chip :=
  c.onSk i fun s => { s with applied := if s.st = .off then 0 else min s.req (clockLimit s) }

/-- A skerry after package power: registers at reset; the tile map, the retired tiles and their places survive, a spare that was being loaded is
free again (R76, R435). -/
def skerryOff (s : Skerry) : Skerry :=
  { resetSkerry with map := s.map.map (fun e => { e with valid := true }), retired := s.retired,
                     phys := s.phys.map (fun e => if e.1 = 4 then (1, 0xFF) else e) }

/-- The host interface at its reset values, its objects gone: the generation of every slot that held one has advanced (R191, R199, R222). -/
def hostReset (h : Hif) : Hif :=
  { resetHif with
    qgen := h.queues.foldl (fun g (q : Queue) => spSet 1 q.slot (nextGen (spGet 1 q.slot g)) g) h.qgen,
    rgen := h.regions.foldl (fun g (r : Region) => spSet 1 r.slot (nextGen (spGet 1 r.slot g)) g) h.rgen,
    plans := h.plans.map (fun p => { resetPlan with gen := if p.st = .free then p.gen else nextGen p.gen }) }

/-- A sequence slot after its sequence is gone; a Free one stays as it is (R191, R235). -/
def seqGone (q : Seq) : Seq := { resetSeq with gen := if q.st = .free then q.gen else nextGen q.gen }

/-- Every package register at its reset value (R435): queues, regions, plans and sequences are gone, the generations of their slots advanced, and the module's fabric
identity with them (R191, R222, R235, R279). -/
def packageReset (c : Chip) : Chip :=
  { c with
    sk := c.sk.map skerryOff,
    ecc := c.ecc.map (fun e => { resetEcc with rowsUsed := e.rowsUsed }),
    tile := resetTiles, mesh := resetMesh, gmc := resetGmc, cxl := resetCxl, hif := hostReset c.hif,
    str := resetStr, dsq := Vector.replicate 4 resetDsq, held := [], errs := c.errs.filter (fun f => decide (0x100000000000 ≤ f.addr)), seq := c.seq.map seqGone,
    recv := updAll c.recv (fun i r => if i.val < 16 then resetRecv else r) }

/-- The light is gone: no lane is in use, and host ports, straits and CXL ports are down with their windows (R25, R170, R186, R426), and the roles of clients on MCTP over PCIe end (R480). -/
def lightGone (c : Chip) : Chip :=
  let c1 := (c.hostsGone.onPwr fun p => { p with laser := false }).onHif fun h => { h with port := h.port.map (fun p => { p with st := 0, speed := 0, width := 0 }) }
  { c1 with
    str := { c1.str with link := c1.str.link.map (fun l => { l with st := 0, lanes := 0 }) },
    cxl := { c1.cxl with
      port := c1.cxl.port.map (fun p => { p with st := 0, width := 0, speed := 0, flit := false, lopt := false, devices := 0, err := if p.st = 2 then setBit p.err 0 true else p.err }),
      win := c1.cxl.win.map (fun w => if w.wstate = 1 then { w with wstate := 2 } else w) } }

/-- The module darkens its lasers in a power-down (R431, R433); that is no strait fault (R308). -/
def lasersDark (c : Chip) : Chip :=
  c.lightGone.onPwr fun p => { p with darkened := true, good := setBit p.good 5 false, enabled := setBit p.enabled 5 false }

end Chip

/-- A command that leaves the memory alone answers the next state. -/
def onChip (f : Chip → Chip) (s : State) : Host.Outcome State Fault Refusal := .next { s with m := s.m.on f }
/-- A command answers the next state. -/
def onMach (f : Mach → Mach) (s : State) : Host.Outcome State Fault Refusal := .next { s with m := f s.m }

/-- The package rails go off, the lasers first: the package's objects destroyed, SRAM and GDDR7 contents lost; bytes behind CXL windows belong to their devices (R222, R431, R435). -/
def Mach.packageDown (m : Mach) : Mach :=
  let off := { m.chip.hostsGone.packageReset with pwr := { m.chip.pwr with enabled := 0, good := 0, phase := .down, laser := false, darkened := false } }
  { chip := each (fins 16) (fun (i : Fin 16) (c : Chip) => c.condClear 0x4210 i.val) off,
    mem := m.mem.filter (fun e => 0x100000000000 ≤ e.1 && e.1 < 0xFF0000000000),
    poison := m.poison.filter (fun a => 0x100000000000 ≤ a && a < 0xFF0000000000) }

end Sys2Proof.Machine
end

