-- ==== Sys2Proof/Machine/Faults.lean ====
section
/-!
DEFINITION. Faults of the compute side: remaps (R83 to R88), slice refills and row repairs (R149, R150), GDDR7 reads, training and retirement
(R157 to R166), plan copies (R154), CXL windows (R170), mesh links (R95, R100 to R102), single-skerry resets (R436, R437).
-/
namespace Sys2Proof.Machine
namespace Mach

/-! ### Refills -/

/-- Bytes of SRAM key and value frames that lie in a range come back from their backing frames (R150 step 3). -/
def refillFrames (a n : Nat) (m : Mach) : Mach :=
  each (fins 128) (fun (s : Fin 128) (x : Mach) =>
    if x.chip.seq[s].st = .free then x
    else each (x.pagesOf s) (fun (e : Nat × Nat × W64 × W64) (y : Mach) =>
      let frame := fld e.2.2.1 0 48
      let size := 2 ^ y.fshiftOf y.chip.seq[s].plan
      let lo := max a frame
      let hi := min (a + n) (frame + size)
      if fld e.2.2.1 56 2 = 0 ∧ bit e.2.2.2 63 ∧ lo < hi then y.copyRaw (fld e.2.2.2 0 48 + (lo - frame)) lo (hi - lo) else y) x) m

/-- The errors that stand in what a refill reads of a slice's mirror slot are met (R157). -/
def metMirror (g : Fin 1024) (off n : Nat) (m : Mach) : Mach :=
  match m.chip.tile[g].mirrorSlot with
  | some s => m.gddrMeets fun f => ReadFault.within (mirrorAddr s + off) n f && bit m.chip.tile[g].mirror ((f.addr - mirrorAddr s) / 0x10000)
  | none => m

/-- A range of a slice refilled: mirrored granules from the mirror slot, frames from their backing, every other byte zero (R85, R150, R436); no mirrored
byte is written as zero, so one without a mirror slot keeps its value (R150). A slice whose mirror is being rebuilt keeps what it holds (R316). -/
def refill (g : Fin 1024) (off n : Nat) (m : Mach) : Mach :=
  if m.chip.gmc.rebuilding.contains g.val then m
  else
    let t := m.chip.tile[g]
    let m1 := each (List.range 192) (fun (k : Nat) (x : Mach) =>
      let lo := max off (k * 0x10000)
      let hi := min (off + n) ((k + 1) * 0x10000)
      if hi ≤ lo then x
      else if bit t.mirror k then (match t.mirrorSlot with
        | some s => x.copyRaw (mirrorAddr s + lo) (sliceAddr g + lo) (hi - lo)
        | none => x)
      else x.clear (sliceAddr g + lo) (hi - lo)) m
    m1.refillFrames (sliceAddr g + off) n

/-- Whether a refill would need a mirror that the slice does not have, or that is marked uncorrectable there (R150, R165). -/
def noMirror (m : Mach) (g : Fin 1024) (off n : Nat) : Bool :=
  let t := m.chip.tile[g]
  let gap := fun (lo hi : Nat) => match t.mirrorSlot with
    | some s => !m.chip.gmc.rebuilding.contains g.val && !(m.badUnits (mirrorAddr s + lo) (hi - lo)).isEmpty
    | none => true
  (List.range 192).any fun k =>
    bit t.mirror k && decide (off < (k + 1) * 0x10000) && decide (k * 0x10000 < off + n) && gap (max off (k * 0x10000)) (min (off + n) ((k + 1) * 0x10000))

/-- Whether lost rows cannot be made good: no mirror, or one that is being copied from the slice itself (R150, R165, R316). -/
def rowGap (m : Mach) (g : Fin 1024) (off n : Nat) : Bool :=
  m.noMirror g off n || (m.chip.gmc.rebuilding.contains g.val &&
    (List.range 192).any fun k => bit m.chip.tile[g].mirror k && decide (off < (k + 1) * 0x10000) && decide (k * 0x10000 < off + n))

/-- The units of a write that came marked uncorrectable take the mark (R282). -/
def markWrite (p : Packet) (m : Mach) : Mach :=
  if bit p.flags 2 then each (List.range ((p.addr.toNat + p.payload.length - 1) / 64 - p.addr.toNat / 64 + 1)) (fun (k : Nat) (x : Mach) =>
    x.mark (p.addr.toNat / 64 * 64 + 64 * k)) m
  else m

/-- A FABRIC_COPY whose packets are all answered completes (R309, R310). -/
def copyEnd (cid : Nat) (m : Mach) : Mach :=
  let open' := m.chip.pendingFor (fun o => match o with | .copyOut i => i == cid | .copyIn i _ => i == cid | _ => false) || m.chip.held.any (fun h => h.who == .copy cid)
  match m.chip.str.fcopy.find? (fun e => e.1 == cid) with
  | some e =>
    if open' then m
    else m.on fun c => (c.onStr fun s => { s with fcopy := s.fcopy.filter (fun x => x.1 != cid) }).endCmd cid
      (if e.2.2.1 ≠ 0 then e.2.2.1 else if e.2.1 ≠ 0 then 0x0A else 0) (if e.2.2.1 ≠ 0 then e.2.2.2 else e.2.1)
  | none => m

/-- What waited for a held write goes on: a COPY or fabric command completes, a peer's WRITE is answered (R163). -/
def heldDone (h : Held) (m : Mach) : Mach :=
  match h.who with
  | .bar => m
  | .put _ _ => m
  | .copy id =>
    if m.chip.held.any (fun x => x.who == h.who) then m
    else if m.chip.str.fcopy.any (fun e => e.1 == id) then m.copyEnd id
    else m.on (Chip.copyDone id)
  | .packet _ p => (m.markWrite p).on fun c => c.respond p 0x81 0 false []

/-- Held writes whose slice is free, and those whose routes work again, are applied in arrival order (R101, R163); expert requests that waited for their table go on. -/
def applyHeld (m : Mach) : Mach :=
  let free := m.chip.held.filter (fun h => !m.chip.holds h.die h.addr h.data.length)
  let m1 := m.on fun c => { c with held := c.held.filter (fun h => c.holds h.die h.addr h.data.length) }
  let m2 := each free (fun (h : Held) (x : Mach) => x.write h.addr h.data) m1
  each (fins 4) (fun (n : Fin 4) (x : Mach) => x.pageIns n) (each free (fun (h : Held) (x : Mach) => x.heldDone h) m2)

/-! ### Remaps (R83 to R87) -/

/-- The lowest free field spare of a skerry. -/
def freeSpare (k : Skerry) : Option (Fin 68) := (fins 68).find? (fun p => (k.phys[p]).1 = 1)

/-- A physical tile is retired for good (R76). -/
def retirePhys (s : Fin 16) (p : Fin 68) (c : Chip) : Chip :=
  c.onSk s fun k => { k with phys := vput k.phys p (3, 0xFF), retired := insertNat p.val k.retired }

/-- Step 3 of R85 for a logical tile: the lowest free spare is powered and loaded; without one the skerry fails (R88). -/
def startLoad (s : Fin 16) (t : Nat) (m : Mach) : Mach :=
  match freeSpare m.chip.sk[s] with
  | some p => m.on fun c => c.onSk s fun k => { k with phys := vput k.phys p (4, t), loading := some (t, p.val) }
  | none => m.skerryFail s 1

/-- A remap is queued or begins; remaps of one skerry run one at a time in ascending tile order (R87). -/
def queueRemap (s : Fin 16) (t : Nat) (m : Mach) : Mach :=
  match m.chip.sk[s].loading with
  | some _ => m.on fun c => c.onSk s fun k => { k with remapQ := insertNat t k.remapQ }
  | none => m.startLoad s t

/-- The most recent tile fault in SKR_FAULT_INFO, its summary (R103, R513). -/
def recordFault (s : Fin 16) (p : Nat) (logical cause : Nat) (m : Mach) : Mach :=
  m.on fun c =>
    let c1 := c.onSk s fun k =>
      { k with fault := setBit k.fault 1 true, fiCause := cause, fiCount := satAdd 8 k.fiCount 1, fiPhys := p, fiLog := logical,
               causes := if logical < 64 then spSet 0 logical cause k.causes else k.causes }
    c1.faultSummary s 1 (if logical < 64 then s.val * 64 + logical else 2048 + s.val * 128 + p) cause

/-- A physical tile faults (R83): a spare is retired; a tile in use is stopped, its step aborted, and under AUTO it is remapped (R85, R86). -/
def tileFault (s : Fin 16) (p : Fin 68) (cause : Nat) (m : Mach) : Mach :=
  let k := m.chip.sk[s]
  if k.st = .off ∨ k.st = .failed then m
  else
    let e := k.phys[p]
    if e.1 = 1 then (m.recordFault s p.val 0xFF cause).on (retirePhys s p)
    else if e.1 = 4 then
      let m1 := (m.recordFault s p.val 0xFF cause).on (retirePhys s p)
      m1.startLoad s e.2
    else if e.1 = 0 ∧ e.2 < 64 then
      let t := e.2
      let g : Fin 1024 := Fin.ofNat 1024 (64 * s.val + t)
      if !(k.map.toList.getD t ⟨false, false, 0⟩).valid then m
      else
        let m1 := (m.recordFault s p.val t cause).on fun c =>
          (c.onSk s fun x => { x with map := updAll x.map (fun i v => if i.val = t then { v with valid := false } else v) }).onTile g
            fun x => { x with exec := .faulted, idle := 3 }
        let m1 := m1.metMirror g 0 sliceSize
        if (freeSpare k).isNone then m1.skerryFail s 1
        else if (if cause = 1 then m1.rowGap g 0 sliceSize else m1.noMirror g 0 sliceSize) then m1.skerryFail s 2
        else
          let m2 := m1.abortSteps s
          if k.auto || decide (cause = 6) then m2.queueRemap s t else m2
    else m

/-- Cached experts of a group that a tile belongs to are cold again (R267). -/
def coldExperts (g : Fin 1024) (m : Mach) : Mach :=
  each (fins 16) (fun (k : Fin 16) (x : Mach) =>
    let p := x.chip.hif.plans[k]
    let first := fieldLe p.params 44 2
    if (p.st = .ready ∨ p.st = .stopped) ∧ p.kind = 0 ∧ first ≤ g.val ∧ g.val < first + fieldLe p.params 46 2 then
      each (List.range (fieldLe p.params 32 2)) (fun (e : Nat) (y : Mach) =>
        let a := fieldLe p.params 24 8 + 16 * e + 10
        if y.readNat a 1 = 3 then y.own a [1] else y) x
    else x) m

/-- A tile of a plan after its program store was reloaded outside a re-run: ready plans start it at word 0, stopped ones keep it halted. -/
def reloadTile (g : Fin 1024) (m : Mach) : Mach :=
  match m.chip.tile[g].plan with
  | some k =>
    match m.chip.hif.plans[k].st with
    | .ready => m.applyR108 g
    | .stopped => (m.applyR108 g).on (Chip.haltTile g)
    | _ => m.on fun c => c.onTile g fun t => { t with exec := .idle }
  | none => m.on fun c => c.onTile g fun t => { t with exec := .idle }

/-- Steps 4 to 6 of R85: the spare takes the logical tile, the old one is retired, the next queued remap begins, and after the last the aborted steps
are run again. -/
def remapDone (s : Fin 16) (m : Mach) : Mach :=
  match m.chip.sk[s].loading with
  | none => m
  | some (t, p) =>
    if m.chip.sk[s].st ≠ .ready then m
    else
      let g : Fin 1024 := Fin.ofNat 1024 (64 * s.val + t)
      let old := (m.chip.sk[s].map.toList.getD t ⟨false, false, 0⟩).phys
      let m1 := m.refill g 0 sliceSize
      let m2 := m1.on fun c =>
        ((c.onSk s fun k =>
          { k with map := updAll k.map (fun i v => if i.val = t then ⟨true, true, p⟩ else v),
                   phys := updAll k.phys (fun i v => if i.val = p then (0, t) else if i.val = old then (3, 0xFF) else v),
                   retired := insertNat old k.retired, fault := setBit k.fault 2 true, loading := none }).onEcc s
          (fun e => { e with rowsUsed := spSet 0 g.val 0 e.rowsUsed, rowCe := e.rowCe.filter fun r => r.1 / 65536 != g.val })).onTile g Chip.Tile.rest
      let m3 := ((m2.coldExperts g).reloadTile g).applyHeld
      match m3.chip.sk[s].remapQ with
      | [] => m3.rerunSteps s
      | q :: rest => (m3.on fun c => c.onSk s fun k => { k with remapQ := rest }).startLoad s q

/-- A GO write (R86, R87): a remap of a faulted or healthy tile; refused and counted where one is queued or running, or no spare is free. -/
def remapGo (s : Fin 16) (t : Nat) (m : Mach) : Mach :=
  let k := m.chip.sk[s]
  let busy := k.remapQ.contains t || (match k.loading with | some (x, _) => x == t | none => false)
  if k.st ≠ .ready ∨ busy ∨ (freeSpare k).isNone then m.on Chip.hifRefused
  else
    let e := k.map.toList.getD t ⟨false, false, 0⟩
    let g : Fin 1024 := Fin.ofNat 1024 (64 * s.val + t)
    let m1 := if e.valid then
        (m.recordFault s e.phys t 6).on fun c =>
          (c.onSk s fun x => { x with map := updAll x.map (fun i v => if i.val = t then { v with valid := false } else v) }).onTile g
            fun x => { x with exec := .faulted, idle := 3 }
      else m
    let m1 := m1.metMirror g 0 sliceSize
    if m1.noMirror g 0 sliceSize then m1.skerryFail s 2 else (m1.abortSteps s).queueRemap s t

/-! ### SRAM errors (R149, R150) -/

/-- A spare row is mapped in place of a row (R150 steps 2 and 3). -/
def useRow (g : Fin 1024) (row : Nat) (m : Mach) : Mach :=
  let m1 := m.on fun c => c.onEcc (skOf g) fun e =>
    let used := spGet 0 g.val e.rowsUsed + 1
    { e with rowsUsed := spSet 0 g.val used e.rowsUsed, repairs := satAdd 8 e.repairs 1, spareLow := e.spareLow || decide (6 ≤ used),
             rowCe := spSet 0 (g.val * 65536 + row) 0 e.rowCe }
  if m.chip.gmc.rebuilding.contains g.val then (if m.rowGap g (256 * row) 256 then m1 else (m1.clear (sliceAddr g + 256 * row) 256).refillFrames (sliceAddr g + 256 * row) 256)
  else m1.refill g (256 * row) 256

/-- The physical tile behind a logical tile. -/
def physOf (m : Mach) (g : Fin 1024) : Fin 68 :=
  Fin.ofNat 68 ((m.chip.sk[skOf g].map.toList.getD (g.val % 64) ⟨false, false, 0⟩).phys)

/-- An uncorrectable error in a slice row (R150): repaired while the slice has a spare row, with the running step re-run; else a tile fault of cause
0x01 (R83). -/
def rowRepair (g : Fin 1024) (row : Nat) (m : Mach) : Mach :=
  let s := skOf g
  if m.chip.sk[s].st ≠ .ready ∨ 49152 ≤ row then m
  else if spGet 0 g.val m.chip.ecc[s].rowsUsed < 8 then
    let m := m.metMirror g (256 * row) 256
    let gap := m.rowGap g (256 * row) 256
    let m1 := m.useRow g row
    if gap then m1.skerryFail s 2 else (m1.abortSteps s).rerunSteps s
  else m.tileFault s (m.physOf g) 1

/-- A correctable error in a slice (R149); a row's third one uses a spare row while one is free, and its data is kept (R150). The count of a row starts
anew with its spare. -/
def sramCorrect (a : Nat) (m : Mach) : Mach :=
  let g := tileOfSram a
  let key := g.val * 65536 + a % sliceSize / 256
  m.on fun c => c.onEcc (skOf g) fun e =>
    let n := spGet 0 key e.rowCe + 1
    let used := spGet 0 g.val e.rowsUsed
    let e1 := { e with ceCount := satAdd 16 e.ceCount 1, rowCe := spSet 0 key n e.rowCe }
    if n = 3 ∧ used < 8 then
      { e1 with rowsUsed := spSet 0 g.val (used + 1) e.rowsUsed, repairs := satAdd 8 e.repairs 1, spareLow := e.spareLow || decide (6 ≤ used + 1),
                rowCe := spSet 0 key 0 e.rowCe }
    else e1

/-! ### Plan copies and mirror slots (R154, R161, R165) -/

/-- Bytes of a device's plan-copy area in use. -/
def copyUsed (c : Chip) (d : Nat) : Nat := (c.hif.plans.toList.map (fun p => if p.copies.contains d then p.copyLen else 0)).foldl (· + ·) 0
def copyRoom (c : Chip) (d : Fin 24) (n : Nat) : Bool := c.gmc.dev[d].st = 2 && decide (copyUsed c d.val + n ≤ planAreaSize)

/-- The pair of devices for a new plan's copies (R154). -/
def copyPair (c : Chip) (n : Nat) : Option (Nat × Nat) :=
  ((fins 24).flatMap (fun a => (fins 24).map (fun b => (a, b)))).find? (fun p =>
    decide (p.1.val < p.2.val) && devSkerry p.1.val != devSkerry p.2.val && copyRoom c p.1 n && copyRoom c p.2 n) |>.map
    (fun p => (p.1.val, p.2.val))

/-- The device for the second copy of a plan that has one left (R154). -/
def copyPlace (c : Chip) (left n : Nat) : Option Nat :=
  let l := (fins 24).filter (fun d => d.val != left && copyRoom c d n)
  match l.find? (fun d => devSkerry d.val != devSkerry left) with
  | some d => some d.val
  | none => l.head?.map (·.val)

/-- GMC_STATUS.PLAN_COPY_GAP follows the plans (R180). -/
def copyGap (c : Chip) : Chip :=
  c.onGmc fun g => { g with copyGap := c.hif.plans.toList.any (fun p => p.copies.length == 1) }

/-- The second copy of a plan is made from the first where a device has room (R154). -/
def rebuildCopy (k : Fin 16) (c : Chip) : Chip :=
  match c.hif.plans[k].copies with
  | [d] =>
    match copyPlace c d c.hif.plans[k].copyLen with
    | some e => copyGap (c.onPlan k fun p => { p with copies := [d, e] })
    | none => c
  | _ => c

/-- The lowest free mirror slot of the ready devices: lowest device, then lowest slot (R165). -/
def freeMirror (c : Chip) (but : Nat) : Option (Nat × Nat) :=
  let used := c.tile.toList.filterMap (fun t => t.mirrorSlot)
  let devs := (fins 24).filter (fun d => d.val != but && c.gmc.dev[d].st = 2)
  (devs.flatMap (fun d => (List.range 45).map (fun s => (d.val, s)))).find? (fun x => !used.contains x)

/-- Whether a tile's mirror slot is on a device. -/
def slotOn (c : Chip) (d : Fin 24) (g : Fin 1024) : Bool := match c.tile[g].mirrorSlot with | some (e, _) => e == d.val | none => false

/-- A slice gets a free mirror slot, into which its granules are then copied; or it is left with none (R165 step 4). -/
def giveSlot (but : Nat) (g : Fin 1024) (x : Chip) : Chip :=
  match freeMirror x but with
  | some s =>
    (x.onTile g fun t => { t with mirrorSlot := some s }).onGmc fun q =>
      { q with moved := true, rebuilding := if x.tile[g].mirror = 0 then q.rebuilding else insertNat g.val q.rebuilding }
  | none => (x.onTile g fun t => { t with mirrorSlot := none }).onGmc fun q => { q with rebuilding := q.rebuilding.filter (fun i => i != g.val) }

/-- The slices whose slot is on a device get new slots (R165 step 4); slices left without one are reported for the device (R513). -/
def moveSlots (d : Fin 24) (c : Chip) : Chip :=
  let lost := (fins 1024).filter (slotOn c d)
  let c1 := each lost (giveSlot d.val) c
  if lost.any (fun g => c1.tile[g].mirrorSlot.isNone) then c1.faultSummary (devSkerry d.val) 4 d.val 5 else c1

/-- GMC_STATUS.MIRROR_GAP: some slice has no mirror slot on a device that serves (R180). -/
def mirrorGap (c : Chip) : Chip :=
  c.onGmc fun q => { q with mirrorGap := c.tile.toList.any (fun t => match t.mirrorSlot with
    | some (e, _) => decide ((c.gmc.dev.toList.map (·.st)).getD e 3 = 3)
    | none => true) }

/-- The moment every device is ready or retired (R160): the step "GDDR7 trained" is complete, and slices without a slot on a ready device get one where one
is free (R165). -/
def trainingEnds (c : Chip) : Chip :=
  if c.gmc.trainDone || !(fins 24).all (fun e => c.gmc.dev[e].st = 2 || c.gmc.dev[e].st = 3) then c
  else
    let c1 := c.onGmc fun g => { g with trainDone := true }
    let c2 := each (fins 24) (fun (e : Fin 24) (x : Chip) => if x.gmc.dev[e].st = 3 then moveSlots e x else x) c1
    mirrorGap (each (fins 1024) (fun (g : Fin 1024) (x : Chip) => if x.tile[g].mirrorSlot.isNone then giveSlot 24 g x else x) c2)

/-- A device is retired (R164, R165). -/
def deviceRetire (d : Fin 24) (cause : Nat) (m : Mach) : Mach :=
  let st := m.chip.gmc.dev[d].st
  if st ≠ 1 ∧ st ≠ 2 then m
  else
    let m1 := m.on fun c =>
      let c1 := (c.onDev d fun g => { g with st := 3, cause := cause }).onGmc fun g => { g with err := setBit g.err 2 true }
      let c2 := c1.faultSummary (devSkerry d.val) 4 d.val cause
      -- with no other device ready and others still training the slots are given out when every device is ready or retired
      let wait := (fins 24).all (fun e => c2.gmc.dev[e].st != 2) && (fins 24).any (fun e => c2.gmc.dev[e].st = 1)
      mirrorGap (if wait then c2 else moveSlots d c2)
    -- a remap that reloads from the lost slot: a row error cannot be made good (R316)
    let m2 := each (fins 16) (fun (s : Fin 16) (x : Mach) =>
      match x.chip.sk[s].loading with
      | some (t, _) =>
        let g : Fin 1024 := Fin.ofNat 1024 (64 * s.val + t)
        if decide (spGet 0 t x.chip.sk[s].causes = 1) && decide (m.chip.tile[g].mirror ≠ 0) && slotOn m.chip d g then x.skerryFail s 2 else x
      | none => x) m1
    let m3 := m2.losePages fun a => regionOf a == .gddr && devOf a == d
    let m4 := each (fins 16) (fun (k : Fin 16) (x : Mach) =>
      let p := x.chip.hif.plans[k]
      if p.copies.contains d.val then
        let left := p.copies.erase d.val
        let x1 := x.on fun c => c.onPlan k fun q => { q with copies := left }
        if left.isEmpty then x1.planStop k 0x0A 0
        else if (copyPlace x1.chip (left.headD 0) p.copyLen).isNone then x1.on fun c => c.faultSummary (devSkerry d.val) 4 d.val 6
        else x1
      else x) m3
    m4.on fun c => trainingEnds (copyGap c)

/-- A training attempt of a device ends (R160); no eye is wider than one unit interval, 64. -/
def trainingDone (d : Fin 24) (rd wr : Nat) (completed : Bool) (m : Mach) : Mach :=
  if m.chip.gmc.dev[d].st ≠ 1 ∨ 64 < rd ∨ 64 < wr then m
  else
    let good := completed && decide (16 ≤ rd) && decide (16 ≤ wr)
    let m1 := m.on fun c => c.onDev d fun g =>
      { g with rdMargin := if completed then rd else g.rdMargin, wrMargin := if completed then wr else g.wrMargin,
               attempts := if good then g.attempts else g.attempts + 1, st := if good then 2 else g.st }
    let m2 := if !good ∧ 3 ≤ m1.chip.gmc.dev[d].attempts then m1.deviceRetire d 1 else m1
    m2.on trainingEnds

/-! ### Reads that meet errors (R149, R157, R159) -/

/-- Flits sent again on a CXL port: more than 1,000 within a second set RETRY_HIGH (R181). -/
def cxlReplay (now n : Nat) (x : CxlPort) : CxlPort :=
  let recent := (now, n) :: x.recent.filter (fun e => now < e.1 + secs 1)
  { x with recent := recent, err := if 1000 < (recent.map (·.2)).foldl (· + ·) 0 then setBit x.err 3 true else x.err }

/-- Sixteen uncorrectable errors of a device within 1 s retire it (R164). -/
def retireDue (d : Fin 24) (m : Mach) : Mach :=
  if 16 ≤ (m.chip.gmc.dev[d].ueTimes.filter fun t => m.chip.time < t + secs 1).length then m.deviceRetire d 2 else m

/-- One read error met by an access; the units it leaves uncorrectable. -/
def readFault (f : ReadFault) (m : Mach) : Mach × List Nat :=
  let u := f.addr / 64 * 64
  match regionOf f.addr, f.kind with
  | .gddr, _ => let r := m.gddrFault f; (r.1.retireDue (devOf f.addr), r.2)
  | .sram, .correctable => (m.sramCorrect f.addr, [])
  | .sram, .uncorrectable => (m.rowRepair (tileOfSram f.addr) (f.addr % sliceSize / 256), [])
  | .cxl, .uncorrectable =>
    match m.chip.winOf f.addr with
    | some w =>
      let port := m.chip.cxlPortOf w f.addr
      (m.on fun c => { c with cxl := { c.cxl with port := updAll c.cxl.port (fun i x => if i.val = port then { x with err := setBit x.err 1 true } else x) } }, [u])
    | none => (m, [u])
  | .cxl, .retried n =>
    match m.chip.winOf f.addr with
    | some w => (m.on fun c => { c with cxl := { c.cxl with port := upd c.cxl.port (Fin.ofNat 4 (c.cxlPortOf w f.addr)) (cxlReplay c.time n) } }, [])
    | none => (m, [])
  | _, _ => (m, [])

/-- The read errors of an access in order, and every unit it then delivers uncorrectable. -/
def readFaults (l : List ReadFault) (m : Mach) : Mach × List Nat :=
  l.foldl (fun (r : Mach × List Nat) f => let x := r.1.readFault f; (x.1, r.2 ++ x.2)) (m, [])

/-- The ports that delivered a marked unit of a window report it (R170). -/
def poisonRx (a n : Nat) (m : Mach) : Mach :=
  each (m.badUnits a n) (fun (u : Nat) (x : Mach) =>
    match regionOf u, x.chip.winOf u with
    | .cxl, some w => x.on fun c => { c with cxl := { c.cxl with port := upd c.cxl.port (Fin.ofNat 4 (c.cxlPortOf w u)) fun p => { p with err := setBit p.err 1 true } } }
    | _, _ => x) m

/-- The errors among some that an access meets; they stand no more (R149, R157). CXL memory that has given poison keeps it. -/
def meets (p : ReadFault → Bool) (m : Mach) : Mach :=
  let due := m.chip.errs.filter p
  let m1 := m.on fun c => { c with errs := c.errs.filter fun f => !p f }
  due.foldl (fun (x : Mach) f =>
    let y := (x.readFault f).1
    if regionOf f.addr == .cxl && decide (f.kind = .uncorrectable) then y.mark f.addr else y) m1

/-- A read of a range by any source: the errors that stand there are met, and poison from a CXL port is reported (R149, R157, R159, R170). -/
def met (a n : Nat) (m : Mach) : Mach := (m.meets fun f => ReadFault.within a n f && m.chip.readable f.addr).poisonRx a n

/-- The copies into slots given out anew are complete, none where no slice has a mirrored granule (R165 step 4); the slices are read for them
(R149). -/
def mirrorRebuilt (m : Mach) : Mach :=
  if !m.chip.gmc.moved then m
  else
    let m1 := each m.chip.gmc.rebuilding (fun (i : Nat) (x : Mach) =>
      let g := Fin.ofNat 1024 i
      match x.chip.tile[g].mirrorSlot with
      | some s => each (List.range 192) (fun (k : Nat) (y : Mach) =>
          if bit y.chip.tile[g].mirror k then (y.met (sliceAddr g + k * 0x10000) 0x10000).copyRaw (sliceAddr g + k * 0x10000) (mirrorAddr s + k * 0x10000) 0x10000 else y) x
      | none => x) m
    m1.on fun c => c.onGmc fun g => { g with rebuilding := [], moved := false, err := setBit g.err 3 true }

/-- A write through a staging window is a wake event for its tile (R92). -/
def callTiles (a n : Nat) (m : Mach) : Mach :=
  if regionOf a == .staging && decide (0 < n) then
    each (List.range ((a + n - 1 - stagingBase) / stagingSize - (a - stagingBase) / stagingSize + 1)) (fun (k : Nat) (x : Mach) =>
      x.on fun c => c.onTile (Fin.ofNat 1024 ((a - stagingBase) / stagingSize + k)) (Chip.Tile.call m.chip.time)) m
  else m

/-- A write from a tile, a host, a peer or a command, sent from a die: done, or held with its slice or at its router. Errors that it meets can retire the device
(R158, R159, R164). -/
def store (who : HeldBy) (die : Option Nat) (a : Nat) (data : Bytes) (m : Mach) : Mach :=
  let x := (m.callTiles a data.length).writeOrHold who die a data
  if x.chip.errs = m.chip.errs then x else x.retireDue (devOf a)

end Mach

namespace Chip

/-- Whether a range meets the reserved areas of a device (R154). -/
def reservedIn (c : Chip) (a n : Nat) : Bool :=
  c.packageMapped && (fins 24).any fun d => decide (a < devAddr d.val devSpan) && decide (devAddr d.val generalSize < a + n)

/-- A write in flight to a device that was retired is discarded and counted (R165). -/
def lostWrite (a : Nat) (c : Chip) : Chip := if regionOf a == .gddr then c.onGmc fun g => { g with discarded := g.discarded + 1 } else c

/-- A write that is refused, and whose range meets a reserved area, is reported (R154). -/
def refusedWrite (a n : Nat) (c : Chip) : Chip := if c.reservedIn a n then c.onGmc fun g => { g with err := setBit g.err 6 true } else c

end Chip

namespace Mach

/-! ### CXL windows (R170) -/

/-- The ports of a window. -/
def winPorts (w : CxlWin) : List Nat := (List.range (2 ^ w.ways)).map (fun k => nfld w.ports (2 * k) 2)

/-- A port stops serving: its active windows go down and its summary is posted (R170, R513). Causes: 1 link down, 2 completion timeout, 3 viral. -/
def cxlDown (p : Fin 4) (cause : Nat) (m : Mach) : Mach :=
  m.on fun c =>
    let port := updAll c.cxl.port fun i (x : CxlPort) =>
      if i = p then
        { x with err := setBit x.err (if cause = 1 then 0 else if cause = 2 then 2 else 4) true,
                 st := if cause = 1 then 0 else if cause = 3 then 4 else x.st, width := if cause = 1 then 0 else x.width,
                 flit := decide (cause ≠ 1) && x.flit, lopt := decide (cause ≠ 1) && x.lopt,
                 speed := if cause = 1 then 0 else x.speed, devices := if cause = 1 then 0 else x.devices }
      else x
    let win := c.cxl.win.map fun (w : CxlWin) => if w.enable && w.wstate == 1 && (winPorts w).contains p.val then { w with wstate := 2 } else w
    ({ c with cxl := { c.cxl with port := port, win := win } }).faultSummary (cxlSkerry p.val) 5 p.val cause

/-! ### Single-skerry resets (R436, R437) -/

/-- A reset of a skerry starts: steps aborted, tiles stopped, a remap in progress ends (R87, R436 steps 1 and 2). -/
def skReset (s : Fin 16) (m : Mach) : Mach :=
  let m1 := m.abortSteps s
  m1.on fun c =>
    let c1 := c.onSk s fun k =>
      { k with st := .resetting, resetting := 1, loading := none, remapQ := [], selfFails := [],
               phys := k.phys.map (fun e => if e.1 = 4 then (1, 0xFF) else e) }
    each (tilesOf s) (fun (g : Fin 1024) (d : Chip) => d.onTile g fun t =>
      { resetTile with exec := if t.exec = .faulted then .faulted else .idle, ord := t.ord, plan := t.plan, mirror := t.mirror,
                       mirrorSlot := t.mirrorSlot }) c1

/-- The reset is released and the tiles test themselves (R436 step 3). -/
def skRelease (s : Fin 16) (fails : List (Fin 68)) (m : Mach) : Mach :=
  if m.chip.sk[s].st = .resetting ∧ m.chip.sk[s].resetting = 1 then
    m.on fun c => c.onSk s fun k =>
      { k with resetting := 2, selfFails := (fails.filter (fun p => (k.phys[p]).1 != 2 && (k.phys[p]).1 != 3)).map (·.val) }
  else m

/-- Steps 4 and 5 of R436: slices and plan state refilled, the skerry is Ready, tiles that failed their test are faulted, aborted steps re-run. -/
def skDone (s : Fin 16) (m : Mach) : Mach :=
  if m.chip.sk[s].st = .resetting ∧ m.chip.sk[s].resetting = 2 then
    let m := each (tilesOf s) (fun (g : Fin 1024) (x : Mach) => x.metMirror g 0 sliceSize) m
    if (tilesOf s).any (fun g => m.noMirror g 0 sliceSize) then m.skerryFail s 2
    else
      let fails := m.chip.sk[s].selfFails
      let m1 := each (tilesOf s) (fun (g : Fin 1024) (x : Mach) => x.refill g 0 sliceSize) m
      let m2 := m1.on fun c => (c.onSk s fun k => { k with st := .ready, resetting := 0, selfFails := [] }).reclock s
      let m3 := each (tilesOf s) (fun (g : Fin 1024) (x : Mach) =>
        if (x.chip.sk[s].map.toList.getD (g.val % 64) ⟨false, false, 0⟩).valid then
          (x.on fun c => c.onTile g fun t => Chip.Tile.rest { t with exec := .idle }).reloadTile g
        else x.clear (stagingAddr g) stagingSize) m2
      let m4 := m3.applyHeld
      let m5 := each fails (fun (p : Nat) (x : Mach) => x.tileFault s (Fin.ofNat 68 p) 5) m4
      if m5.chip.sk[s].loading.isNone then m5.rerunSteps s else m5
  else m

/-- The supervisor resets its skerry for an error of the tile-side mesh port; the third within 60 s fails the skerry (R437). -/
def supvReset (s : Fin 16) (m : Mach) : Mach :=
  let k := m.chip.sk[s]
  if k.st = .off ∨ k.st = .failed then m
  else
    let times := (m.chip.time :: k.supvTimes).filter (fun t => m.chip.time < t + secs 60)
    let m1 := m.on fun c => c.onSk s fun x => { x with fault := setBit x.fault 5 true, supvTimes := times }
    if 3 ≤ times.length then m1.skerryFail s 4
    else
      let m2 := m1.on fun c => (((c.onSk s fun x => { x with fault := setBit x.fault 4 true }).onPwr fun p =>
        { p with supvResets := satAdd 32 p.supvResets 1 })).faultSummary s 2 s.val 5
      m2.skReset s

end Mach
end Sys2Proof.Machine
end

