-- ==== Sys2Proof/Machine/MemCmds.lean ====
section
/-!
DEFINITION. Commands of the compute side and of the memory tiers: tile faults, remaps, skerry resets, mesh lanes, SRAM and GDDR7 errors,
CXL ports and windows, host accesses of module memory (R83 to R102, R149 to R170, R189, R436 to R438).
-/
namespace Sys2Proof.Machine

namespace Chip

/-- An access narrower than 32 bits or unaligned (R13). -/
def narrow (c : Chip) : Chip := (c.hifErr 0).hifCount 0
/-- An access of an unmapped offset (R189). -/
def unmapped (c : Chip) : Chip := (c.hifErr 1).hifCount 1
/-- Whether an access has the width and alignment of R13. -/
def aligned (offset size : Nat) : Bool := (size == 4 || size == 8) && offset % size == 0

/-! ### CXL registers (R168, R169, R181) -/

/-- Whether a window setting can be enabled (R169). -/
def winOk (c : Chip) (w : Fin 16) (base : Nat) : Bool :=
  let x := c.cxl.win[w]
  let ports := Mach.winPorts x
  let clash := (fins 16).any (fun v =>
    let y := c.cxl.win[v]
    v != w && y.enable && decide (base < y.base + y.size * gib) && decide (y.base < base + x.size * gib))
  decide (1 ≤ x.size) && decide (x.size ≤ 16384) && decide (x.gran ≤ 6) && x.ways != 3 && !clash && ports.eraseDups.length == ports.length &&
    ports.all (fun p => (c.cxl.port.toList.getD p resetCxl.port[(0 : Fin 4)]).st == 2)

/-- A write of CXP_WIN_BASE (R169, R170): the base cannot change while the window is enabled; enabling is refused where the setting forbids it. -/
def winBase (w : Fin 16) (v : W64) (c : Chip) : Chip :=
  let x := c.cxl.win[w]
  let base := fld v 30 14 * gib
  let put := fun (y : CxlWin) => { c with cxl := { c.cxl with win := vput c.cxl.win w y } }
  if x.enable then (if bit v 63 then c else put { x with enable := false, wstate := 0 })
  else if bit v 63 && c.winOk w base then put { x with base := base, enable := true, wstate := 1 }
  else put { x with base := base }

/-- A write of CXP_CFG_ADDR (R181): with GO it starts an access of a device's configuration space, unless one runs. -/
def cfgAddr (v : W64) (c : Chip) : Chip :=
  if bit v 63 && c.cxl.cfgBusy then c
  else
    let c1 := { c with cxl := { c.cxl with cfgWrite := bit v 62, cfgPort := fld v 56 2, cfgBdf := fld v 40 16, cfgDword := fld v 2 10 } }
    if bit v 63 then
      ({ c1 with cxl := { c1.cxl with cfgBusy := true, cfgRun := bit v 62 } }).send
        (.cxlCfg (fld v 56 2) (fld v 40 16) (fld v 2 10) (bit v 62) (if bit v 62 then c.cxl.cfgData.toNat else 0))
    else c1

/-- A configuration access ends (R181). -/
def cfgDone (err : Bool) (data : W32) (c : Chip) : Chip :=
  if c.cxl.cfgBusy then
    { c with cxl := { c.cxl with cfgBusy := false, cfgErr := err, cfgData := if err || c.cxl.cfgRun then c.cxl.cfgData else data } }
  else c

/-- A port of the root complex trains; one that went viral, whose link stands, recovers (R167, R170, R181, log 46). -/
def cxlRetrain (p : Fin 4) (c : Chip) : Chip :=
  if c.railsOn && !bit c.mesh.cut (6 + p.val / 2) && (c.cxl.port[p].st == 0 || c.cxl.port[p].st == 4) then
    { c with cxl := { c.cxl with port := upd c.cxl.port p fun x => { x with st := if x.st = 4 then 3 else 1 } } }
  else c

/-- Training ends: the port is up with its width, speed and flit mode; a device with a feature outside R167 is reported (R167, R513). -/
def cxlTrained (p : Fin 4) (width : Nat) (fast lopt : Bool) (devices : Nat) (unsupported : Bool) (c : Chip) : Chip :=
  let x := c.cxl.port[p]
  if c.railsOn && c.lit (6 + p.val / 2) && (x.st == 0 || x.st == 1 || x.st == 3) && (width == 4 || width == 8 || width == 16) then
    let y := { x with st := 2, width := width, speed := if fast then 6 else 5, flit := true, lopt := lopt, devices := min 8 devices,
                      err := if unsupported then setBit x.err 5 true else x.err }
    let c1 := { c with cxl := { c.cxl with port := vput c.cxl.port p y } }
    if unsupported then c1.faultSummary (cxlSkerry p.val) 5 p.val 4 else c1
  else c

/-- An access of a device aperture goes to its port; a read returns what the device answered (R168). -/
def aperture (hp : Fin 2) (offset size : Nat) (wr : Option Bytes) (answer : Bytes) (c : Chip) : Chip :=
  if !c.portUp hp then c
  else if !aligned offset size then
    let c1 := c.narrow
    if wr.isNone then c1.send (.barRead hp (List.replicate size 0) false) else c1
  else
    let c1 := c.send (.cxlMem (offset / 0x1000000) (offset % 0x1000000) (wr.map (fun d => slice d 0 size)) size)
    if wr.isNone then c1.send (.barRead hp (slice answer 0 size) false) else c1

/-! ### Skerry registers with commands (R86, R103, R438) -/

/-- SKR_RESET: a keyed write starts a reset, or is refused and counted (R436, R438). -/
def resetRefused (c : Chip) (s : Fin 16) : Bool := c.sk[s].st = .resetting || c.sk[s].st = .failed || c.pwr.darkened

end Chip

namespace Mach

def skrReset (s : Fin 16) (v : W32) (m : Mach) : Mach :=
  if fld v 16 16 = 0x5A5A ∧ bit v 0 then (if m.chip.resetRefused s then m.on Chip.hifRefused else m.skReset s) else m

/-- SKR_REMAP_CTRL: AUTO and TILE are stored, GO starts a remap of TILE (R86, R103). -/
def remapCtrl (s : Fin 16) (v : W32) (m : Mach) : Mach :=
  let m1 := m.on fun c => c.onSk s fun k => { k with auto := bit v 31, remapTile := fld v 0 6 }
  if bit v 8 then m1.remapGo s (fld v 0 6) else m1

/-- GMC_RETIRE_CTRL: retires a device only with the key, GO and a device that exists (R180). -/
def retireCtrl (v : W32) (m : Mach) : Mach :=
  if h : fld v 0 5 < 24 then (if fld v 16 16 = 0xA5A5 ∧ bit v 8 then m.deviceRetire ⟨fld v 0 5, h⟩ 3 else m) else m

/-- The cause of a retirement that the module decides itself: three failed trainings, an isolated base die, else uncorrectable errors (R164). -/
def retireCause (m : Mach) (d : Fin 24) : Nat :=
  if 3 ≤ m.chip.gmc.dev[d].attempts then 1 else if m.chip.mesh.isolated (devSkerry d.val) then 4 else 2

/-! ### Host accesses of module memory (R154, R158, R189) -/

/-- Whether an offset lies in the reserved areas of a device (R154). -/
def reservedArea (c : Chip) (a : Nat) : Bool :=
  regionOf a == .gddr && decide (generalSize ≤ devOff a) && c.packageMapped

/-- A write through a port's BAR2: mapped bytes are written or held, others discarded (R154, R163, R189). The errors given with it stand where it writes (R158, R159). -/
def barWrite (hp : Fin 2) (a : Nat) (data : Bytes) (faults : List ReadFault) (m : Mach) : Mach :=
  let cells := (data.zipIdx).map (fun (p : Byte × Nat) => (a + p.2, p.1))
  let good := cells.filter (fun (p : Nat × Byte) => m.chip.mapped p.1)
  let reserved := cells.any (fun (p : Nat × Byte) => reservedArea m.chip p.1)
  let lost := cells.any (fun (p : Nat × Byte) => !m.chip.mapped p.1 && !reservedArea m.chip p.1)
  let die := some (portSkerry hp).val
  let m1 := m.on fun c => { c with errs := c.errs ++ faults.filter fun f => regionOf f.addr == .gddr && c.mapped f.addr && writeMeets a data.length f }
  let m2 := if good.length = data.length then m1.store .bar die a data
    else each good (fun (p : Nat × Byte) (x : Mach) => x.store .bar die p.1 [p.2]) m1
  let m3 := if reserved then m2.on fun c => c.onGmc fun g => { g with err := setBit g.err 6 true } else m2
  if lost then m3.on Chip.unmapped else m3

/-- A read through BAR2; uncorrectable bytes come with the poisoned bit and no stated value (R189). A read of a held slice waits, and one whose
routes do not work: the command has no effect then (R101, R163, log 38). -/
def barRead (hp : Fin 2) (a n : Nat) (faults : List ReadFault) (m : Mach) : Mach :=
  if m.chip.holds (some (portSkerry hp).val) a n then m
  else
    let r := (m.met a n).readFaults (faults.filter (fun f => ReadFault.within a n f && m.chip.mapped f.addr))
    let m1 := r.1
    let bad := r.2 ++ m1.badUnits a n
    let data := (List.range n).map (fun i =>
      if !m.chip.mapped (a + i) then (0xFF : Byte)
      else if bad.any (fun u => decide (u ≤ a + i) && decide (a + i < u + 64)) then Config.freeByte (m1.chip.free + i)
      else m1.mem.get (a + i))
    let poisoned := (List.range n).any (fun i => m.chip.mapped (a + i) && bad.any (fun u => decide (u ≤ a + i) && decide (a + i < u + 64)))
    let lost := (List.range n).any (fun i => !m.chip.mapped (a + i))
    m1.on fun c =>
      let c1 := ({ c with free := c.free + n }).send (.barRead hp data poisoned)
      if lost then c1.unmapped else c1

/-- An access through BAR2 (R189). -/
def bar2 (hp : Fin 2) (a n : Nat) (wr : Option Bytes) (faults : List ReadFault) (m : Mach) : Mach :=
  if !m.chip.portUp hp ∨ n = 0 then m
  else match wr with
    | some d => m.barWrite hp a (slice d 0 n) faults
    | none => m.barRead hp a n faults

/-- The patrol scrub of a skerry's slices reads rows (R151). -/
def patrol (s : Fin 16) (faults : List ReadFault) (m : Mach) : Mach :=
  if m.chip.sk[s].st = .ready then
    let ok := fun (f : ReadFault) => regionOf f.addr == .sram && skOf (tileOfSram f.addr) == s
    ((m.meets ok).readFaults (faults.filter ok)).1
  else m

/-- A full pass of the GDDR7 scrub ends (R166). -/
def scrubPass (faults : List ReadFault) (m : Mach) : Mach :=
  if m.chip.gmc.scrubOn && m.chip.packageMapped then
    let ok := fun (f : ReadFault) => regionOf f.addr == .gddr && m.chip.gmc.dev[devOf f.addr].st == 2
    (((m.meets ok).readFaults (faults.filter ok)).1).on fun c => c.onGmc fun g => { g with err := setBit g.err 5 true }
  else m

end Mach

/-- Causes of R83 that a tile or its slice reports: 0x01, 0x03, 0x04, 0x05. -/
def execTileFault (sk : Fin 16) (phys : Fin 68) (cause : Fin 4) (s : State) : Host.Outcome State Fault Refusal :=
  onMach (Mach.tileFault sk phys ([1, 3, 4, 5].getD cause.val 1)) s
def execTileWatchdogExpiry (g : Fin 1024) (s : State) : Host.Outcome State Fault Refusal :=
  onMach (fun m => if m.chip.tile[g].exec = .running then m.tileFault (skOf g) (m.physOf g) 2 else m) s
def execRemapReloadDone (sk : Fin 16) (s : State) : Host.Outcome State Fault Refusal := onMach (Mach.remapDone sk) s
def execRemapGo (port : Fin 2) (sk : Fin 16) (value : W32) (s : State) : Host.Outcome State Fault Refusal :=
  onMach (fun m => if m.chip.portUp port then m.remapCtrl sk value else m) s
def execSkrReset (port : Fin 2) (sk : Fin 16) (value : W32) (s : State) : Host.Outcome State Fault Refusal :=
  onMach (fun m => if m.chip.portUp port || (m.chip.railsOn && m.chip.pwr.darkened) then m.skrReset sk value else m) s
def execSkerryResetRelease (sk : Fin 16) (testFails : List (Fin 68)) (s : State) : Host.Outcome State Fault Refusal :=
  onMach (Mach.skRelease sk testFails) s
def execSkerryResetDone (sk : Fin 16) (s : State) : Host.Outcome State Fault Refusal := onMach (Mach.skDone sk) s
def execSupvReset (sk : Fin 16) (s : State) : Host.Outcome State Fault Refusal := onMach (Mach.supvReset sk) s
def execSramRowRepair (g : Fin 1024) (row : Nat) (s : State) : Host.Outcome State Fault Refusal := onMach (Mach.rowRepair g row) s
def execSramPatrolScrub (sk : Fin 16) (faults : List ReadFault) (s : State) : Host.Outcome State Fault Refusal := onMach (Mach.patrol sk faults) s
def execGddr7TrainingDone (d : Fin 24) (rdEye : Byte) (wrEye : Byte) (completed : Bool) (s : State) : Host.Outcome State Fault Refusal :=
  onMach (Mach.trainingDone d rdEye.toNat wrEye.toNat completed) s
def execDeviceRetire (d : Fin 24) (s : State) : Host.Outcome State Fault Refusal := onMach (fun m => m.deviceRetire d (m.retireCause d)) s
def execGmcRetireCtrl (value : W32) (s : State) : Host.Outcome State Fault Refusal := onMach (Mach.retireCtrl value) s
def execMirrorRebuildDone (s : State) : Host.Outcome State Fault Refusal := onMach Mach.mirrorRebuilt s
def execPlanCopyRebuild (plan : Fin 16) (s : State) : Host.Outcome State Fault Refusal := onChip (Mach.rebuildCopy plan) s
def execGddr7ScrubPass (faults : List ReadFault) (s : State) : Host.Outcome State Fault Refusal := onMach (Mach.scrubPass faults) s
def execCxpWinEnable (w : Fin 16) (value : W64) (s : State) : Host.Outcome State Fault Refusal :=
  onChip (fun c => if c.railsOn then c.winBase w value else c) s
def execCxlRetrain (port : Fin 4) (s : State) : Host.Outcome State Fault Refusal := onChip (Chip.cxlRetrain port) s
def execCxlPortTrained (port : Fin 4) (width : Nat) (fast : Bool) (lopt : Bool) (devices : Nat) (unsupported : Bool) (s : State) :
    Host.Outcome State Fault Refusal := onChip (Chip.cxlTrained port width fast lopt devices unsupported) s
def execCxpCfgAccess (value : W64) (s : State) : Host.Outcome State Fault Refusal := onChip (fun c => if c.railsOn then c.cfgAddr value else c) s
def execCxpCfgDone (err : Bool) (data : W32) (s : State) : Host.Outcome State Fault Refusal := onChip (Chip.cfgDone err data) s
def execCxlApertureAccess (hp : Fin 2) (offset : BitVec 26) (size : Nat) (wr : Option Bytes) (answer : Bytes) (s : State) :
    Host.Outcome State Fault Refusal := onChip (Chip.aperture hp offset.toNat size wr answer) s
def execBar2Access (hp : Fin 2) (offset : BitVec 38) (size : Nat) (wr : Option Bytes) (faults : List ReadFault) (s : State) :
    Host.Outcome State Fault Refusal := onMach (Mach.bar2 hp offset.toNat size wr faults) s

end Sys2Proof.Machine
end

