-- ==== Sys2Proof/Machine/Power.lean ====
section
/-!
DEFINITION. Module states, permission, the coolant path's opening, the rails, removal, trips and loss of supplies as shared operations
(R24, R25, R31 to R40, R413 to R439).
-/
namespace Sys2Proof.Machine
namespace Chip

/-- The lock counts as engaged while channel 8 reports neither the energised position nor the loss of the spring position (R24, R407). POSITION 0, unknown until
a probe has run, counts as engaged: the spec does not say (DESIGN CHOICE, log 50). -/
def lockClosed (c : Chip) : Bool := c.ad.ch[(8 : Fin 10)].pos ≠ 2 && c.ad.ch[(8 : Fin 10)].pos ≠ 3

/-- Laser interlock conditions 1 and 2 of R24: both engagement contacts made, ejector closed, lock bolt extended. -/
def interlock (c : Chip) : Bool := c.pins.engageA && c.pins.engageB && c.pins.ejector && c.lockClosed

/-- Both leak loops supervised and dry as the actuator driver classifies them (R394). -/
def loopsDry (c : Chip) : Bool := c.ad.loop[(0 : Fin 2)] = 0 && c.ad.loop[(1 : Fin 2)] = 0 && c.ad.loopSeen[(0 : Fin 2)] && c.ad.loopSeen[(1 : Fin 2)]

/-- The permission checks from Standby (R32, R420, R421): the busbar within 44–60 V behind a closed switch, both loops dry, the connector
engaged, the ejector locked. -/
def permitChecks (c : Chip) : Bool :=
  c.pwr.hotSwap && 4400 ≤ c.pins.busbar && c.pins.busbar ≤ 6000 && c.loopsDry && c.pins.engageA && c.pins.engageB && c.pins.ejector &&
    c.lockClosed

/-- States in which the loss of the busbar is a loss of input power (R40). -/
def namesBusbar : ModState → Bool
  | .coolantReady | .packageOn | .serving | .draining | .ochre => true
  | _ => false

/-- The DP reading of the active controller in 0.1 kPa; 0 where it has none. -/
def dpNow (c : Chip) : Int := (c.mc[c.act].cool.dp).getD 0

/-- The pressure-decay test fails: channels 0–3 de-energised, Standby kept, cause and decay in 2400.0C and by EMCY (R429). -/
def openFail (cause decay : Nat) (c : Chip) : Chip :=
  let c1 := c.closeValves
  (c1.onMod fun m => { m with opening := .idle, permit := 0, decayRes := cause * 4096 + min decay 4095 }).emcyEvent 0xFF20 0 cause (min decay 4095)

/-- A step of the opening energises a valve; a pair that refuses to energise will not reach its position, which fails the test (R406, R429). -/
def openValve (k : Fin 10) (c : Chip) : Chip := if c.ad.ch[k].locked then c.openFail 4 0 else c.energise k

/-- A stopped core starts again; its frames resume with RESYNC (R319, R320, R336). -/
def wake (i : Fin 2) (c : Chip) : Chip :=
  if c.mc[i].core = .stopped then c.onMc i fun m => { m with core := .running, sending := true, resync := 0xF } else c
def wakeAll (c : Chip) : Chip := (c.wake 0).wake 1

/-- Acceptance of a grant in Standby: the target is in force, the inlet valve is energised (R428 step 1), and no core stays stopped, since none may be in the states
that follow (R319). -/
def openPath (target : Nat) (c : Chip) : Chip :=
  let c1 := c.wakeAll.onMod fun m => { m with permit := target, autoDone := true }
  match c.mod.opening with
  | .idle => (c1.onMod fun m => { m with opening := .inlet }).openValve 0
  | _ => c1

/-- While the path opens, a permission check that stops holding, or a loop that leaves Dry, fails the test (R429 causes 3 and 5). -/
def openWatch (c : Chip) : Chip :=
  if c.mod.st = .standby ∧ c.mod.opening ≠ .idle then
    if !c.loopsDry then c.openFail 3 0
    else if !c.permitChecks then c.openFail 5 0
    else c
  else c

/-- The rail sequence starts (R430): the SRAM rail is enabled, and every GDDR7 device is in training (R160). -/
def railsStart (c : Chip) : Chip :=
  (c.onGmc fun g => { g with dev := g.dev.map (fun (d : Gddr) => { d with st := 1 }) }).onPwr fun p => { p with enabled := 1, good := 0, phase := .up 0 }

/-- The active controller sends policy and plan keys to the host interface (R483). -/
def sendPolicy (c : Chip) : Chip :=
  c.onHif fun h =>
    { h with policy := c.val (okey 0x5010 1),
             keys := (List.range 8).map (fun k => bytesLe 113 (c.val (okey 0x5011 (k + 1)))) }

/-- Entry to Package-on from Coolant-ready with target Serving (R32, R430, R432). -/
def enterPackageOn (c : Chip) : Chip :=
  let c1 := (({ c.packageReset with hif := resetHif, seq := Vector.replicate 128 resetSeq }).setState .packageOn).railsStart
  c1.sendPolicy

/-- A permission with target Serving moves Coolant-ready on at the end of the controller cycle, where no event that R34 ranks above start-up falls in it (R32, R34,
log 2). -/
def askOn (c : Chip) : Chip := c.onMod fun m => { m with permit := 2, goOn := true }

/-- Coolant-ready is reached; with target Serving the module moves on (R32, R428 step 7). -/
def enterCoolantReady (c : Chip) : Chip :=
  let c1 := (c.onMod fun m => { m with opening := .idle }).setState .coolantReady
  if c1.mod.permit = 2 then c1.askOn else c1

/-- What the end of a peak means for the opening of the path (R428 steps 2, 6, 7), or its failure by a valve fault (R429). -/
def openPeak (k : Fin 10) (c : Chip) : Chip :=
  if c.mod.st ≠ .standby then c
  else if (k.val < 4) && (c.ad.ch[k].fault ≠ 0) && c.mod.opening ≠ .idle then c.openFail 4 0
  else match c.mod.opening with
    | .inlet => if k.val < 2 ∧ c.ad.ch[k].phase = .hold then c.onMod fun m => { m with opening := .filling } else c
    | .inletAgain =>
      if k.val < 2 ∧ c.ad.ch[k].phase = .hold then (c.onMod fun m => { m with opening := .outlet }).openValve 2 else c
    | .outlet => if (k.val = 2 ∨ k.val = 3) ∧ c.ad.ch[k].phase = .hold then c.enterCoolantReady else c
    | _ => c

/-- Step 3 of R428: the fill pressure is recorded and the inlet de-energised; below 20 kPa there is no supply (R429). -/
def fillDone (dp : Int) (c : Chip) : Chip :=
  if c.mod.st = .standby ∧ c.mod.opening = .filling then
    if dp < 200 then c.openFail 1 0
    else (c.onMod fun m => { m with opening := .closing, fillP := dp.toNat }).deenergise 0
  else c

/-- Step 5 of R428: the hold ends; the decay is judged against 2400.0D, and on a pass the inlet opens again. -/
def holdEnd (dp : Int) (c : Chip) : Chip :=
  match c.mod.opening with
  | .holding dp0 =>
    if c.mod.st ≠ .standby then c
    else
      let fell := (dp0 - dp).toNat
      if fell > c.val (okey 0x2400 0xD) then c.openFail 2 fell
      else (c.onMod fun m => { m with opening := .inletAgain, decayRes := min fell 4095 }).openValve 0
  | _ => c

/-- Draining is entered (R433 step 1) with its last stop cause; in Coolant-ready, or with the rails already off, the valves close at once. -/
def enterDraining (cause : Nat) (c : Chip) : Chip :=
  let c1 := (c.onMod fun m => { m with lastStop := cause, permit := 0, opening := .idle }).setState .draining
  if c.railsOn then (c1.onMod fun m => { m with drain := .commands }).boundaries
  else (c1.onMod fun m => { m with drain := .closing }).closeValves

/-- States from which a removal request or a withdrawal starts Draining (R32). -/
def canDrain : ModState → Bool
  | .coolantReady | .packageOn | .serving => true
  | _ => false

/-- A removal request or a withdrawal stands until the controller cycle ends: an event that R34 ranks above it in the same cycle, a trip, the loss of the busbar or
Ochre hold, makes it lose (R34, log 2). The first of a cycle counts. -/
def askStop (cause : Nat) (c : Chip) : Chip := c.onMod fun m => { m with stopReq := some (m.stopReq.getD cause) }

/-- At the end of the controller cycle the request that stands is acted on, and without one the step to Package-on (R32, R34). -/
def settleStop (c : Chip) : Chip :=
  match c.mod.stopReq with
  | some cause => if canDrain c.mod.st then c.enterDraining cause else c.onMod fun m => { m with stopReq := none }
  | none => if c.mod.goOn && c.mod.st == .coolantReady then c.enterPackageOn else c

/-- A withdrawal of the permission (R32, R213): Draining; in Standby the opening of the path ends (log 18). -/
def withdraw (cause : Nat) (c : Chip) : Chip :=
  if canDrain c.mod.st then c.askStop cause
  else if c.mod.st = .standby then
    (c.onMod fun m => { m with permit := 0, opening := .idle }).closeValves
  else c

/-- Whether a grant with a target is accepted in the present state, and its effect (R32, R35, R213, R493). -/
def grantOk (target : Nat) (c : Chip) : Bool :=
  c.sec.ret = 0 &&
  (match c.mod.st with
   | .standby => c.permitChecks
   | .coolantReady | .packageOn | .serving => target = 1 || target = 2
   | _ => false)
def grant (target : Nat) (c : Chip) : Chip :=
  match c.mod.st with
  | .standby => c.openPath target
  | .coolantReady => if target = 2 then c.askOn else c
  | _ => c

/-- The next rail of the order is enabled; the laser rail waits for the interlock (R430). -/
def nextRail (k : Nat) (c : Chip) : Chip :=
  if k = 5 && !c.interlock then c.onPwr fun p => { p with phase := .up 5 }
  else c.onPwr fun p => { p with phase := .up k, enabled := setBit p.enabled k true }

/-- The start-up step that is still pending (R432, object 2400.04): host ports, GDDR7, fabric discovery. -/
def pendingStep (c : Chip) (discDone : Bool) : Nat :=
  match c.pwr.phase with
  | .done =>
    if c.hif.port.toList.all (fun p => p.st = 0) then 3 else if !c.gmc.trainDone then 4 else if !discDone then 5 else 0
  | .up 5 => if bit c.pwr.enabled 5 then 1 else 2
  | _ => 1

/-- A rail holds power-good for 1 ms (R430): at the core rail every skerry becomes Ready; at the laser rail the lasers emit. -/
def railGood (k : Fin 6) (c : Chip) : Chip :=
  if c.pwr.phase = .up k.val ∧ bit c.pwr.enabled k.val then
    let c1 := c.onPwr fun p => { p with good := setBit p.good k.val true }
    let c2 : Chip := if k.val = 1 then
        let d := { c1 with tile := c1.tile.map (fun (t : Tile) => { t with idle := 1 }),
                           mesh := { c1.mesh with link := c1.mesh.link.map (fun (l : MeshLink) => { l with st := 1 }) } }
        each (fins 16) (fun i (d : Chip) => (d.onSk i fun s => { s with st := .ready }).reclock i) d
      else c1
    if k.val = 5 then
      let on := c.interlock
      let d := c2.onPwr fun p => { p with phase := .done, laser := on }
      if on then
        { d with str := { d.str with link := d.str.link.map (fun (l : Strait) => { l with st := 1 }) },
                 cxl := { d.cxl with port := d.cxl.port.map (fun (x : CxlPort) => { x with st := 1 }) } }
      else d
    else c2.nextRail (k.val + 1)
  else c

/-- A last-gasp record of the actuator driver (R418). -/
def gasp (rtype cause source value seconds cycles : Nat) (c : Chip) : Chip :=
  let el := fun (v : Option Int) => bytesLe 2 (match v with | some x => unsgn 16 x | none => 0x8000)
  let body := bytesLe 1 rtype ++ bytesLe 1 cause ++ bytesLe 1 c.recv[(16 : Fin 19)].state ++ bytesLe 1 source ++ bytesLe 4 seconds ++
    bytesLe 2 cycles ++ bytesLe 2 value ++ bytesLe 4 c.recv[(16 : Fin 19)].seq.toNat ++ el c.ad.to1 ++ el c.ad.to2 ++
    bytesLe 4 c.ad.gaspNext ++ bytesLe 4 0
  let slot : Fin 16 := ⟨(c.ad.gaspNext - 1) % 16, Nat.mod_lt _ (by decide)⟩
  { c with ad := { c.ad with gasp := vput c.ad.gasp slot (body ++ bytesLe 4 (crc32 body).toNat), gaspNext := c.ad.gaspNext + 1 } }

/-- The module's own sequences end (trip, loss of a supply). -/
def endSequences (c : Chip) : Chip :=
  c.onMod fun m => { m with permit := 0, autoDone := true, opening := .idle, drain := .idle, rampFrom := none }

/-- The receivers' share of a trip (R415): latches in the actuator driver and the power stages, blowers full, channels 0–8 off. -/
def tripLatch (cause : Fin 5) (c : Chip) : Chip :=
  let c1 := { c with ad := { c.ad with latch := setBit c.ad.latch cause.val true, nvCauses := setBit c.ad.nvCauses cause.val true,
                                       trips := satAdd 32 c.ad.trips 1 } }
  ((c1.onPwr fun p => { p with latchTrip := setBit p.latchTrip cause.val true }).blowersFull true).channelsOff

end Chip

/-- Whether the condition of a madder cause holds with a reading (R413): a powered supervisor's junction at 115 °C or more; an outlet element inside its valid range
above 75 °C; a leak that the actuator driver can confirm, both loops Wet or Short, one with the other Open, one alone (R395). The reading is in 1/16 °C. -/
def Chip.tripHolds (cause : Fin 5) (reading : W16) (c : Chip) : Bool :=
  let wet := fun (k : Fin 2) => c.ad.loop[k] = 1 || c.ad.loop[k] = 2
  match cause with
  | 0 => bit c.pwr.good 1 && decide (1840 ≤ sgn 16 reading.toNat)
  | 1 => decide (1200 < sgn 16 reading.toNat) && decide (sgn 16 reading.toNat ≤ 1920)
  | 2 => wet 0 && wet 1
  | 3 => (wet 0 && c.ad.loop[(1 : Fin 2)] = 3) || (wet 1 && c.ad.loop[(0 : Fin 2)] = 3)
  | 4 => wet 0 || wet 1

/-- The madder path trips (R415) and the module reports Tripped from every state R32 lists (R38): nothing but loss of auxiliary power ranks
above it (R34). The path is armed from Aux on (R28). -/
def Mach.trip (cause : Fin 5) (source value : Nat) (m : Mach) : Mach :=
  if m.chip.mod.st = .unpowered then m
  else
    let m1 := if m.chip.railsOn then m.packageDown else m
    let c1 := (m1.chip.tripLatch cause).gasp 1 (cause.val + 1) source value m1.chip.ad.seconds m1.chip.ad.cycles
    let c2 := (c1.emcyEvent 0xFF10 source (cause.val + 1) value).endSequences
    { m1 with chip := c2.setState .tripped }

/-- Loss of the busbar while auxiliary power remains (R40): package down unsequenced, peak drive and blowers gone, valves closed by spring, the
cause latched, Tripped. In other states nothing that the busbar feeds is on. -/
def Mach.busbarLost (m : Mach) : Mach :=
  let dark := fun (c : Chip) =>
    { c.channelsOff with ad := { c.channelsOff.ad with boost := false, boostV := 0 } }.blowersFed
  if Chip.namesBusbar m.chip.mod.st then
    let m1 := if m.chip.railsOn then m.packageDown else m
    let c1 := (dark m1.chip).gasp 3 0 0 0 m1.chip.ad.seconds m1.chip.ad.cycles
    { m1 with chip := ((c1.onPwr fun p => { p with latchInput := true }).endSequences).setState .tripped }
  else { m with chip := dark m.chip }

/-- The drain time ends (R433 steps 2–5): commands still running are dropped with their queues, lasers dark, rails down, channels 0–3
de-energised. -/
def Mach.drainEnd (m : Mach) : Mach :=
  if m.chip.mod.st = .draining ∧ m.chip.mod.drain = .commands then
    let m1 := m.packageDown
    m1.on fun c => (c.onMod fun x => { x with drain := .closing }).closeValves
  else m

/-- A rail fault (R431): every rail down, counted, reported; Package-on stays and waits for its retry; in Serving the permission is withdrawn with cause 4, which R34
ranks like any withdrawal; Draining goes on with the rails off. In Ochre hold the state before it acts once it stands again (DEDUCED, log 2). -/
def Mach.railFault (rail : Fin 6) (cause : Nat) (m : Mach) : Mach :=
  if m.chip.railsOn && bit m.chip.pwr.enabled rail.val then
    let m1 := m.packageDown
    m1.on fun c =>
      let c1 := (c.onPwr fun p => { p with railFaults := satAdd 32 p.railFaults 1 }).emcyEvent 0x3130 (rail.val + 1) cause 0
      match c.mod.st with
      | .packageOn => c1.onPwr fun p => { p with phase := .waitRetry }
      | .serving => c1.askStop 4
      | .draining => (c1.onMod fun x => { x with drain := .closing }).closeValves
      | .ochre => if c.mod.before = .packageOn then c1.onPwr fun p => { p with phase := .waitRetry } else c1
      | _ => c1
  else m

namespace Chip

/-- Both valves confirmed closed in Draining (R433 step 6): Standby; a valve that does not confirm is reported (0xFF21). -/
def drainClosed (c : Chip) : Chip :=
  if c.mod.st = .draining ∧ c.mod.drain = .closing then
    let c1 := (c.condSet (c.ad.ch[(0 : Fin 10)].pos = 3) 0xFF21 0 0 0).condSet (c.ad.ch[(2 : Fin 10)].pos = 3) 0xFF21 2 0 0
    if (List.range 4).all (fun k => (c.ad.ch.toList.getD k resetChan).pos = 1) then
      (c1.onMod fun m => { m with drain := .idle }).setState .standby
    else c1
  else c

/-- A confirmed spring position in the opening starts the hold (R428 step 4); a valve that does not close fails the test (R429). -/
def openClosed (k : Fin 10) (c : Chip) : Chip :=
  if c.mod.st = .standby ∧ c.mod.opening = .closing ∧ k.val < 2 then
    if c.ad.ch[k].pos = 1 then c.onMod fun m => { m with opening := .holding c.dpNow }
    else if c.ad.ch[k].pos = 3 then c.openFail 4 0
    else c
  else c

/-- A removal request (R425, R35): an accepted change to pressed. In Ochre hold it is not acted on. -/
def removalRequest (c : Chip) : Chip :=
  let c1 := { c with pins := { c.pins with pressed := true } }
  if c.pins.ignored || c.pins.request || c.mod.st == .unpowered then c1
  else
    let c2 := { c1 with pins := { c1.pins with request := true } }
    if canDrain c.mod.st then c2.askStop 1 else c2

/-- The trip causes still present at an acknowledgement (R417). -/
def causesPresent (c : Chip) : List Nat :=
  let below := fun (v : Option Int) => match v with | some x => decide (x < 1120) | none => false
  let dry := (List.range 2).all (fun k => (c.ad.loop.toList.getD k 3) = 0 && (c.ad.drySince.toList.getD k 0) + secs 60 ≤ c.time)
  ((List.range 5).filter (fun k => bit (c.ad.latch ||| c.pwr.latchTrip) k &&
    (if k = 0 then c.railsOn else if k = 1 then !(below c.ad.to1 && below c.ad.to2) else !dry))).map (· + 1) ++
  (if c.pwr.latchInput && !(c.pwr.hotSwap && 4400 ≤ c.pins.busbar && c.pins.busbar ≤ 6000) then [6] else [])

/-- The actuator driver and the power stages clear their latches at a changed TRIP_ACK only when every cause has cleared (R417); with both
latches clear the module enters Standby. -/
def ackAd (v : W16) (c : Chip) : Chip :=
  let c1 := { c with ad := { c.ad with tripAck := v } }
  if v ≠ c.ad.tripAck ∧ (c.causesPresent.filter (· < 6)) = [] then
    { c1 with ad := { c1.ad with latch := 0, nvCauses := 0, confirmed := false } }
  else c1
def ackPower (v : W16) (c : Chip) : Chip :=
  let c1 := c.onPwr fun p => { p with tripAck := v }
  if v ≠ c.pwr.tripAck ∧ c.causesPresent = [] then c1.onPwr fun p => { p with latchTrip := 0, latchInput := false } else c1
def tripLeft (c : Chip) : Chip :=
  if c.mod.st = .tripped ∧ c.ad.latch = 0 ∧ c.pwr.latchTrip = 0 ∧ !c.pwr.latchInput then
    (c.blowersFull false).setState .standby
  else c

/-- The slots that an image defines are created with generation 1 and started (R353, R384). -/
def bootSlots (st : Stored) : Vector Slot 32 :=
  Vector.ofFn fun n =>
    if bit st.slots n.val then { resetSlot with st := if bit st.run n.val then .running else .stopped } else resetSlot

/-- A controller at entry to Aux: core starting, values from its stored image (R10, R422). -/
def bootCtrl (x : Ctrl) : Ctrl :=
  { resetCtrl with core := .starting, stored := x.stored, flagErase := x.flagErase, val := x.stored.val, slots := bootSlots x.stored }

/-- The areas of a stored image that fail their check are loaded from the factory layer (R460). -/
def dropAreas (bad : BitVec 11) (s : Stored) : Stored :=
  let gone := fun k => bit bad (areaOf (k / 256))
  { s with val := omErase gone s.val,
           slots := if bit bad 8 then 0x01FFFFFF else s.slots, run := if bit bad 8 then 0x01FFFFFF else s.run }

/-- The node-ID by the position pins: 1 + base + rack position (R448). -/
def nodeSum (pos : BitVec 6) (c : Chip) : Nat := 1 + c.val (okey 0x2010 2) + pos.toNat

/-- The applied node-ID (R448): the setting, or the sum, at most 127. -/
def takeNodeId (pos : BitVec 6) (c : Chip) : Chip :=
  let set := c.val (okey 0x2010 1)
  c.onComm fun m => { m with nodeId := if 1 ≤ set ∧ set ≤ 127 then set else min 127 (c.nodeSum pos) }

/-- A sum above 127 is reported (R448), at a boot once EMCYs can be sent. -/
def reportNodeId (pos : BitVec 6) (c : Chip) : Chip :=
  let set := c.val (okey 0x2010 1)
  if (1 ≤ set ∧ set ≤ 127) ∨ c.nodeSum pos ≤ 127 then c else c.emcyEvent 0xFF80 (c.val (okey 0x2010 2)) pos.toNat 0

end Chip

/-- Loss of auxiliary power (R40, R435): everything at reset but stored images, logbooks, life counts, last-gasp records, latched madder
causes, failed optical engines (R308), one-time-programmable maps, and the levels of contacts and switches. -/
def Mach.auxLost (m : Mach) : Mach :=
  let c := m.chip
  let keepLog := fun (n : CtrlNv) =>
    { resetNv with log := { resetLog with ring := n.log.ring, next := n.log.next, gaspSerial := n.log.gaspSerial }, cycles := n.cycles, fw := n.fw,
                   bankB := n.bankB, secVer := n.secVer }
  { chip :=
      { resetChip with
        mod := { resetModule with lastStop := c.mod.lastStop, lastGaspSeen := c.mod.lastGaspSeen },
        pins := { resetPins with presence := c.pins.presence, engageA := c.pins.engageA, engageB := c.pins.engageB, ejector := c.pins.ejector,
                                 pressed := c.pins.pressed },
        mc := c.mc.map (fun x => { resetCtrl with stored := x.stored, flagErase := x.flagErase }),
        nv := c.nv.map keepLog,
        pwr := { resetPower with engFailed := c.pwr.engFailed },
        comm := { resetComm with stores := c.comm.stores },
        ad := { resetActuator with nvCauses := c.ad.nvCauses, gasp := c.ad.gasp, gaspNext := c.ad.gaspNext, gaspSeen := c.ad.gaspSeen,
                                   cycles := c.ad.cycles, stuckCount := c.ad.stuckCount, trips := c.ad.trips, clamps := c.ad.clamps },
        sec := { resetSecurity with ret := c.sec.ret, erased := c.sec.erased, rxVer := c.sec.rxVer, staged := c.sec.staged, runSec := c.sec.runSec },
        sk := c.sk.map Chip.skerryOff, ecc := c.ecc.map (fun e => { resetEcc with rowsUsed := e.rowsUsed }),
        errs := c.errs.filter (fun f => decide (0x100000000000 ≤ f.addr)), sent := c.sent, free := c.free, time := c.time },
    mem := m.mem.filter (fun e => 0x100000000000 ≤ e.1 && e.1 < 0xFF0000000000),
    poison := m.poison.filter (fun a => 0x100000000000 ≤ a && a < 0xFF0000000000) }

namespace Chip

/-- Entry to Aux (R422): images checked, reconciled and loaded, logbooks checked, slots created, node-ID taken, the latched madder causes
restored to Tripped (R416, R460, R474). A logbook area that fails its check acts as a memory failure of code 4, its EMCY once the dictionary is ready. -/
def auxValid (pos : BitVec 6) (bad : Vector (BitVec 11) 2) (logBad : BitVec 2) (c : Chip) : Chip :=
  if c.mod.st ≠ .unpowered then c
  else
    let img := fun (i : Fin 2) => dropAreas bad[i] c.mc[i].stored
    let a := img 0
    let b := img 1
    let best := if a.serial < b.serial then b else a
    let use := fun (s : Stored) => if s.serial < best.serial then best else s
    let c1 := { c with
      pins := { c.pins with pos := pos, ignored := c.pins.pressed, request := false },
      mc := Vector.ofFn fun i => bootCtrl { c.mc[i] with stored := use (img i) },
      nv := updAll c.nv (fun i n =>
        let m := { n with cycles := n.cycles + 1, log := { n.log with failed := false, gaspLeft := 0 } }
        if bit logBad i.val then m.logFails i 4 else m),
      ad := { c.ad with cycles := c.ad.cycles + 1, latch := c.ad.nvCauses },
      comm := { resetComm with stores := c.comm.stores, areasFactory := (bad[(0 : Fin 2)] ||| bad[(1 : Fin 2)]).toNat },
      pwr := { c.pwr with latchTrip := c.ad.nvCauses } }
    let c2 := { c1 with mod := { c1.mod with st := .aux, autoDone := true } }
    let newGasp := b2n (c2.mod.lastGaspSeen + 1 < c2.ad.gaspNext)
    let start := fun (i : Fin 2) (d : Chip) =>
      let r1 := d.logRec i 1 0x0101 0 (bytesLe 2 c2.comm.areasFactory ++ bytesLe 1 newGasp) 0xF
      let r2 := d.logRec i 2 0x0120 0 (bytesLe 1 0 ++ bytesLe 1 1 ++ bytesLe 1 d.mod.lastStop) 0xF
      let r3 := d.logRec i 5 0x0502 (other i).val [4] 0xF
      d.onNv i fun n =>
        let l := LogBook.add d.time r2 (LogBook.add d.time r1 n.log)
        { n with log := if bit logBad (other i).val then LogBook.add d.time r3 l else l }
    let c3 := ((start 1 (start 0 c2)).takeNodeId pos)
    if c3.ad.latch ≠ 0 then (c3.blowersFull true).setState .tripped else c3

/-- The newest last-gasp record read at entry to Standby from Aux: a newer one of type 0x03 sets last stop cause 6 (R434). -/
def readGasp (c : Chip) : Chip :=
  let newest := c.ad.gaspNext - 1
  let slot : Fin 16 := ⟨(newest - 1) % 16, Nat.mod_lt _ (by decide)⟩
  if newest > c.mod.lastGaspSeen then
    c.onMod fun m => { m with lastGaspSeen := newest,
                              lastStop := if (c.ad.gasp[slot]).headD 0 = 3 then 6 else m.lastStop }
  else c

end Chip
end Sys2Proof.Machine
end

