-- ==== Sys2Proof/Machine/Coolant.lean ====
section
/-!
DEFINITION. Coolant sensors, resolved values, the protection ceiling, the leak loops (R386 to R396).
-/
namespace Sys2Proof.Machine

/-- Round to the nearest integer, ties to even (R19). -/
def rne (x : Rat) : Int :=
  let f := x.floor
  let d := x - f
  if d < 1 / 2 then f else if 1 / 2 < d then f + 1 else if f % 2 = 0 then f else f + 1

/-- Saturation to a signed type of `n` bits (R19). -/
def satS (n : Nat) (x : Int) : Int := clampInt (-(2 ^ (n - 1) : Nat)) ((2 ^ (n - 1) : Nat) - 1) x

/-- A power of two with a signed exponent. -/
def pow2 (e : Int) : Rat := if 0 ≤ e then ((2 ^ e.toNat : Nat) : Rat) else 1 / ((2 ^ (-e).toNat : Nat) : Rat)

/-- The square root of a DP reading in kPa, from 0.1 kPa, rounded down to 10⁻⁵ (R391; log 19). -/
def sqrtKpa (dp10 : Nat) : Rat := (isqrt (dp10 * 10 ^ 9) : Rat) / 10 ^ 5

namespace Chip

def onCool (i : Fin 2) (f : Cool → Cool) (c : Chip) : Chip := c.onMc i fun m => { m with cool := f m.cool }

/-- States in which the package is watched: Package-on, Serving, Draining (R354, R387, R393). -/
def pkgState : ModState → Bool
  | .packageOn | .serving | .draining => true
  | _ => false

/-- Input power V × I in W as the pins read it (0.01 V, 0.01 A). -/
def inputPower (c : Chip) : Rat := (c.pins.busbar : Rat) * c.pins.amps / 10000

/-- The applied duty of a trim channel as a fraction (R391, R403). -/
def trimFraction (h : Chan) : Rat := if h.mode = 1 then 1 else if h.mode = 2 then (h.duty : Rat) / 200 else 0
/-- The flow fraction φ of the trim valves (R391). -/
def phi (c : Chip) : Rat :=
  (4 - trimFraction c.ad.ch[(4 : Fin 10)] - trimFraction c.ad.ch[(5 : Fin 10)] - trimFraction c.ad.ch[(6 : Fin 10)] - trimFraction c.ad.ch[(7 : Fin 10)]) / 4

/-- The volumetric heat capacity of the coolant type (R388). -/
def heatCap (c : Chip) (i : Fin 2) : Rat := if c.valOf i (okey 0x3000 1) = 0 then 697 / 10 else 663 / 10
def kq (c : Chip) (i : Fin 2) : Rat := (c.valOf i (okey 0x3000 3) : Rat) / 1000
def kh (c : Chip) (i : Fin 2) : Rat := (c.valOf i (okey 0x3000 2) : Rat) / 10000

/-- Plausible readings among two elements: present and not faulted. -/
def plausible (v : Vector (Option Int) 2) (faulted : BitVec 6) (base : Nat) : List (Fin 2 × Int) :=
  (fins 2).filterMap fun k => match v[k] with | some x => if bit faulted (base + k.val) then none else some (k, x) | none => none

def maxOf : List (Fin 2 × Int) → Option Int
  | [] => none
  | x :: r => some (r.foldl (fun a y => max a y.2) x.2)

/-- A reading latched by a controller: the previous one while it is STALE (R323). -/
def latch' {α : Type} (stale : Bool) (old new : α) : α := if stale then old else new

/-- A temperature element's reading inside its valid range, -20 to 120 °C (R386). -/
def goodTemp (v : Option Int) : Option Int := v.filter fun x => decide (-320 ≤ x) && decide (x ≤ 1920)
/-- FQ inside 0 to 12 L/min, and DP inside -50 to 250 kPa (R386). -/
def goodFlow (v : Option Nat) : Option Nat := v.filter fun x => decide (x ≤ 1200)
def goodPress (v : Option Int) : Option Int := v.filter fun x => decide (-500 ≤ x) && decide (x ≤ 2500)

/-- The readings of a tick enter a controller's record: its own elements, and the other's, `peer`, over the pair link; FQ and DP at every 10 ms (R386, R392). A STALE
word leaves the value that was delivered before, and its flag goes with it (R323). Readings that are missing or outside their range are element faults. -/
def coolRead (i : Fin 2) (ten : Bool) (a b : SensorIn) (link : Bool) (peer x : Cool) : Cool :=
  let own := if i = 0 then a else b
  let far := if i = 0 then b else a
  let see := fun (k : Fin 2) => decide (k = i) || link
  let src := fun (k : Fin 2) => if k = 0 then a else b
  let read := fun (stale : SensorIn → Bool) (new : SensorIn → Option Int) (old other : Vector (Option Int) 2) =>
    updAll old (fun k v => if see k then latch' (stale (src k)) (if k = i then v else other[k]) (goodTemp (new (src k))) else none)
  let ti := read (·.staleTi) (·.ti) x.ti peer.ti
  let tout := read (·.staleTo) (·.tout) x.tout peer.tout
  let fq := latch' (!ten || own.staleFq) x.fq (goodFlow own.fq)
  let dp := latch' (!ten || own.staleDp) x.dp (goodPress own.dp)
  let lost := fun (on : Bool) (bitNo : Nat) (w : BitVec 6) => if on then setBit w bitNo true else w
  let out := fun (k : Fin 2) => see k && !(src k).staleTo && tout[k].isNone
  let inn := fun (k : Fin 2) => see k && !(src k).staleTi && ti[k].isNone
  let w := lost (inn 0) 0 (lost (inn 1) 1 (lost (out 0) 2 (lost (out 1) 3
    (lost (ten && !own.staleFq && fq.isNone) 4 (lost (ten && !own.staleDp && dp.isNone) 5 x.faulted)))))
  let bump := fun (s : Bool) (n : Nat) => if s then min 8 (n + 1) else 0
  let word := fun (fresh : Bool) (v : Option Int) (old : Nat) => match v with | some r => if fresh then unsgn 16 r else old | none => old
  { x with ti := ti, tout := tout, fq := fq, dp := dp, faulted := w,
           lk := updAll x.lk (fun k old => if see k then latch' (src k).staleLk (if k = i then old else peer.lk[k]) (src k).lk else old),
           lastWord := updAll x.lastWord (fun k old =>
             if h : k.val < 2 then word (see ⟨k.val, h⟩ && !(src ⟨k.val, h⟩).staleTi) (src ⟨k.val, h⟩).ti old
             else if h : k.val - 2 < 2 then word (see ⟨k.val - 2, h⟩ && !(src ⟨k.val - 2, h⟩).staleTo) (src ⟨k.val - 2, h⟩).tout old
             else if k = 4 then word (ten && !own.staleFq) (own.fq.map fun n => (n : Int)) old else word (ten && !own.staleDp) own.dp old),
           stale := updAll x.stale (fun k n =>
             if k = 0 then bump own.staleTi n else if k = 1 then bump own.staleTo n
             else if k = 2 then (if ten then bump own.staleFq n else n) else if k = 3 then (if ten then bump own.staleDp n else n)
             else if k = 4 then bump own.staleLk n else if k = 25 then bump (link && far.staleTi) n else if k = 26 then bump (link && far.staleTo) n
             else if k = 27 then bump (link && far.staleLk) n else n) }

/-- Flow from DP: kh × sqrt(dp) × φ, the reading clamped at 0 (R386, R391). -/
def flowDp (c : Chip) (i : Fin 2) : Rat := c.kh i * sqrtKpa (((c.mc[i].cool.dp).getD 0).toNat) * c.phi

/-- Whether a filter that Package-on seeds is due to be seeded (R369, R387): at the first tick of Package-on, not again after Ochre hold. A controller that lost its
filters in a restart seeds them again while the package is on (DESIGN CHOICE, log 51). -/
def seedsPkg (i : Fin 2) (c : Chip) : Bool :=
  !c.mc[i].ovhSeeded && (match c.mod.st with | .packageOn | .serving => true | .draining => c.mod.drain == .commands | _ => false)

/-- The filter of the model moves every 10 ms, and is seeded at entry to Package-on (R387). -/
def coolFilter (i : Fin 2) (c : Chip) : Chip :=
  let p := c.inputPower
  c.onCool i fun x =>
    { x with pf := if c.seedsPkg i then p else if pkgState c.mod.st && c.time % 100 == 0 then x.pf + (p - x.pf) / 500 else x.pf }

/-- Resolved values from the latched readings (R387 to R391). -/
def coolResolve (i : Fin 2) (c : Chip) : Chip :=
  let x := c.mc[i].cool
  let on := pkgState c.mod.st
  let pf := x.pf
  let ins := plausible x.ti x.faulted 0
  let outs := plausible x.tout x.faulted 2
  let inlet := (maxOf ins).getD 640
  let fdp := c.flowDp i
  let flow : Option Rat :=
    match x.fq with
    | some q => if bit x.faulted 4 then (if x.dp.isSome && !bit x.faulted 5 then some fdp else none) else some ((q : Rat) / 100)
    | none => if x.dp.isSome && !bit x.faulted 5 then some fdp else none
  let rise := fun (f : Rat) => c.kq i * pf / (c.heatCap i * f)
  let valid := on && !ins.isEmpty && (match flow with | some f => decide (1 ≤ f) | none => false)
  let model : Option Rat := if valid then (match flow with | some f => some ((inlet : Rat) / 16 + rise f) | none => none) else none
  let subst := on && outs.isEmpty
  let outlet : Int := match maxOf outs with
    | some v => v
    | none => rne (16 * (model.getD ((inlet : Rat) / 16 + rise 1)))
  c.onCool i fun y => { y with inlet := inlet, outlet := outlet, model := model, modelValid := valid, flow := flow, fdp := fdp, substituted := subst }

/-- The class of a leak loop for its resistance in 10 Ω, with the hysteresis band (R394): 0 Dry, 1 Wet, 2 Short, 3 Open. -/
def leakClass (r old : Nat) (seen : Bool) : Nat :=
  if r < 20 then 2 else if r < 500 then 1 else if r < 750 then (if seen then old else 1) else if r ≤ 1300 then 0 else 3

/-- The actuator driver classifies both loops (R394). -/
def adLoops (r0 r1 : Nat) (c : Chip) : Chip :=
  let r := fun (k : Fin 2) => if k = 0 then r0 else r1
  let cls := updAll c.ad.loop (fun k old => leakClass (r k) old c.ad.loopSeen[k])
  { c with ad := { c.ad with loop := cls, loopSeen := Vector.replicate 2 true,
                             drySince := updAll c.ad.drySince (fun k t => if cls[k] = 0 ∧ (c.ad.loop[k] ≠ 0 ∨ !c.ad.loopSeen[k]) then c.time else t) } }

/-- A controller classifies the loops it knows (R394). -/
def coolLoops (i : Fin 2) (c : Chip) : Chip :=
  c.onCool i fun x =>
    let see := fun (k : Fin 2) => k = i || c.pair.link
    { x with loop := updAll x.loop (fun k old => if see k then leakClass x.lk[k] old x.loopSeen[k] else old),
             loopSeen := updAll x.loopSeen (fun k old => old || see k) }

/-- Warnings and open loops at the active controller, which reports them (R395, R396). -/
def leakReport (c : Chip) : Chip :=
  let x := c.mc[c.act].cool
  each (fins 2) (fun (k : Fin 2) (d : Chip) =>
    let cls := x.loop[k]
    (d.condCause ((cls = 1 || cls = 2) && !c.ad.confirmed) 0xFF01 k.val cls x.lk[k]).condSet (cls = 3) 0xFF02 k.val 3 x.lk[k]) c

/-- Element, flow and pressure faults, inputs STALE in eight reads (R323) and the substituted outlet at the active controller (R453). -/
def coolReport (c : Chip) : Chip :=
  let x := c.mc[c.act].cool
  let dead := fun (k : Fin 28) => x.stale[k] == 8
  let c1 := each (fins 2) (fun (k : Fin 2) (d : Chip) =>
    (d.condSet (bit x.faulted k.val || dead (if k = c.act then 0 else 25)) 0x5010 (k.val + 1) 0 (x.lastWord.toList.getD k.val 0)).condSet
      (bit x.faulted (2 + k.val) || dead (if k = c.act then 1 else 26)) 0x5010 (k.val + 3) 0 (x.lastWord.toList.getD (2 + k.val) 0)) c
  let c2 := (c1.condSet (bit x.faulted 4 || dead 2) 0x5020 0 0 x.lastWord[(4 : Fin 6)]).condSet (bit x.faulted 5 || dead 3) 0x5030 0 0 x.lastWord[(5 : Fin 6)]
  c2.condCause x.substituted 0x5040 0 (if x.modelValid then 1 else 2) (unsgn 16 x.outlet)

/-- The protection ceiling in 0.125 W and the causes in force (R393). -/
def protection (i : Fin 2) (c : Chip) : Nat × Nat :=
  if pkgState c.mod.st then
    let x := c.mc[i].cool
    let flowCap : Nat := match x.flow with
      | some f => if c.phi = 0 then 24960 else (520 * 8 * f / c.phi).floor.toNat
      | none => 24960
    let cands : List (Nat × Nat) :=
      (if flowCap < 24960 then [(flowCap, 1)] else []) ++
      (if x.substituted then (if x.modelValid then [(19968, 2)] else [(c.valOf i (okey 0x4000 6), 4)]) else []) ++
      (if x.flow.isNone then [(14976, 8)] else []) ++
      (if c.blow[(0 : Fin 2)].stalled && c.blow[(1 : Fin 2)].stalled then [(14976, 16)] else [])
    (cands.foldl (fun a y => min a y.1) 24960, cands.foldl (fun a y => a ||| y.2) 0)
  else (24960, 0)

/-- An element is faulted in the controllers that share the reading (R386, R392): it stays faulted until the next entry to Standby. -/
def faultElement (k : Nat) (own : Option (Fin 2)) (c : Chip) : Chip :=
  let mark := fun (i : Fin 2) (d : Chip) =>
    if c.pair.link || own = none || own = some i then d.onCool i fun x => { x with faulted := setBit x.faulted k true } else d
  ((mark 1 (mark 0 c)).coolResolve 0).coolResolve 1

/-- The outlet judgement of R389 against a controller's record: below the inlet by 0.5 K, off the model by 8 K, or the farther of two that differ
by more than 1.5 K. -/
def outletBad (x : Cool) (k : Fin 2) : Bool :=
  match x.tout[k], x.model with
  | some v, some m =>
    let off := fun (u : Int) => ((u : Rat) / 16 - m).abs
    !bit x.faulted (2 + k.val) && x.modelValid &&
    (decide (v + 8 < x.inlet) || decide (8 < off v) ||
      (match x.tout[other k] with
       | some w => !bit x.faulted (2 + (other k).val) && decide (24 < (v - w).natAbs) && decide (off w ≤ off v)
       | none => false))
  | _, _ => false

/-- The outlet element's judgement time has passed (R389). -/
def outletFault (k : Fin 2) (c : Chip) : Chip :=
  let i := if c.pair.link then c.act else k
  if outletBad c.mc[i].cool k then (c.faultElement (2 + k.val) (some k)).coolReport else c

/-- Whether the resolved outlet is a measured value (R389). -/
def measured (x : Cool) : Bool := !(plausible x.tout x.faulted 2).isEmpty

/-- Inlet elements that differ by more than 1.5 K for 10 s while the outlet is measured: the farther from outlet less rise is faulted (R390). -/
def inletFault (c : Chip) : Chip :=
  let x := c.mc[c.act].cool
  match plausible x.ti x.faulted 0, x.flow with
  | [(_, u), (_, v)], some f =>
    if 24 < (u - v).natAbs ∧ measured x ∧ 0 < f then
      let want : Rat := (x.outlet : Rat) / 16 - c.kq c.act * x.pf / (c.heatCap c.act * f)
      let far := fun (t : Int) => ((t : Rat) / 16 - want).abs
      if far v < far u then (c.faultElement 0 none).coolReport else (c.faultElement 1 none).coolReport
    else c
  | _, _ => c

/-- FQ and the DP estimate have disagreed for 5 s: FQ is faulted, or DP when heat agrees with FQ (R391). -/
def flowFault (c : Chip) : Chip :=
  let i := c.act
  let x := c.mc[i].cool
  match x.fq with
  | some q =>
    let fq : Rat := (q : Rat) / 100
    if !bit x.faulted 4 && !bit x.faulted 5 && x.dp.isSome && decide (1 ≤ x.fdp) && decide (x.fdp / 5 < (fq - x.fdp).abs) then
      let dt : Rat := ((x.outlet - x.inlet : Int) : Rat) / 16
      let fth : Rat := c.kq i * x.pf / (c.heatCap i * dt)
      if measured x && decide (3 ≤ dt) && decide ((fq - fth).abs ≤ fth / 5) && decide (fth / 5 < (x.fdp - fth).abs) then
        (c.faultElement 5 none).coolReport
      else (c.faultElement 4 none).coolReport
    else c
  | none => c

end Chip
end Sys2Proof.Machine
end

