-- ==== Sys2Proof/Machine/Loop.lean ====
section
/-!
DEFINITION. The loop engine: block floating point, one sample, seeding, arbitration, feed-forward, the dispatch input, faults, test signals and
capture (R352 to R385).
-/
namespace Sys2Proof.Machine

/-- Ticks of a class (R352). -/
def divider (cls : Nat) : Nat := [1, 10, 100, 1000].getD cls 1000

/-- The sine table of R381: entry i is sat(rne(sin(2π i / 4096) × 2^17), s18), from the series of sine at 2^-80 (log 20). -/
def piNum : Int := 3141592653589793238462643383279502884197
def piDen : Int := 10 ^ 39
def sinTerms (x2 : Int) : Nat → Nat → Int → Int
  | 0, _, _ => 0
  | n + 1, k, t =>
    let t' := -(t * x2) / 2 ^ 80 / ((2 * k + 2 : Nat) * (2 * k + 3 : Nat) : Nat)
    t + sinTerms x2 n (k + 1) t'
def sinEntry (i : Nat) : Int :=
  let q := i % 4096
  let h := q % 2048
  let r := if h ≤ 1024 then h else 2048 - h
  let x : Int := (2 * piNum * r * 2 ^ 80) / (4096 * piDen)
  let s := sinTerms (x * x / 2 ^ 80) 30 0 x
  let v := rne ((s : Rat) / ((2 ^ 63 : Nat) : Rat))
  satS 18 (if q < 2048 then v else -v)

namespace Chip

/-- An object of slot n's block as controller i holds it, read with its type (R385). -/
def slotObj (c : Chip) (i : Fin 2) (n o s : Nat) : Int :=
  let k := okey (slotBase n + o) s
  match slotInfo n o s with
  | some e => if e.ty.signed then sgn (8 * e.ty.size) (c.valOf i k) else (c.valOf i k : Int)
  | none => 0
def slotNat (c : Chip) (i : Fin 2) (n o s : Nat) : Nat := (c.slotObj i n o s).toNat

def slotCls (c : Chip) (i : Fin 2) (n : Nat) : Nat := c.slotNat i n 0 5
def slotIn (c : Chip) (i : Fin 2) (n : Nat) : Nat := c.slotNat i n 0 7
def slotOut (c : Chip) (i : Fin 2) (n : Nat) : Nat := c.slotNat i n 0 8
def slotFf (c : Chip) (i : Fin 2) (n : Nat) : Nat := c.slotNat i n 0 9
/-- Exponents: 1 EY, 2 EG, 3 EU, 4 EI, 5 ED, 6 EF (R355). -/
def slotExp (c : Chip) (i : Fin 2) (n s : Nat) : Int := c.slotObj i n 2 s

def onSlot (i : Fin 2) (n : Fin 32) (f : Slot → Slot) (c : Chip) : Chip := c.onMc i fun m => { m with slots := upd m.slots n f }
def onDisp (i : Fin 2) (f : Dispatch → Dispatch) (c : Chip) : Chip := c.onMc i fun m => { m with disp := f m.disp }

/-- Junction readings of a supervisor's last status frame, without the sensors that report none (R329, R375). -/
def telTj (t : Tel) : List Int :=
  if !t.seen then []
  else (List.range 8).filterMap fun j =>
    let v := fieldLe t.payload (2 * j) 2
    if v = 0x8000 then none else some (sgn 16 v)
def telPower (t : Tel) : Nat := fieldLe t.payload 16 2
def telState (t : Tel) : Nat := fieldLe t.payload 21 1

/-- The telemetry of skerry s at controller i. -/
def supTel (c : Chip) (i : Fin 2) (s : Nat) : Tel := c.mc[i].tel.toList.getD s resetTel

/-- Package power in 0.125 W, input 0x30 (R364). -/
def pkgPower (c : Chip) (i : Fin 2) : Nat := (List.range 16).foldl (fun a s => a + telPower (c.supTel i s)) 0

/-- Volts and amperes of the power-stage status frame (R329): 0.01 V, 0.01 A. -/
def telVolts (c : Chip) (i : Fin 2) : Nat := fieldLe (c.supTel i 18).payload 8 2
def telAmps (c : Chip) (i : Fin 2) : Nat := fieldLe (c.supTel i 18).payload 10 2

def listMax : List Int → Option Int
  | [] => none
  | x :: r => some (r.foldl max x)

/-- The skerries whose junctions an input 0x10 to 0x23 takes the highest of (R364). -/
def junctionOf (code : Nat) : List Nat := if code ≤ 0x1F then [code - 0x10] else (List.range 4).map (fun j => 4 * (code - 0x20) + j)

/-- For how many reads in a row a coolant input has been STALE (R323): the outlet and inlet temperatures with the word of either controller's element, whose flag comes
over the pair link (R392). -/
def staleRun (x : Cool) (code : Nat) : Nat :=
  if code = 0x03 then max x.stale[(1 : Fin 28)] x.stale[(26 : Fin 28)]
  else if code = 0x04 then max x.stale[(0 : Fin 28)] x.stale[(25 : Fin 28)]
  else if code = 0x05 then x.stale[(2 : Fin 28)] else if code = 0x06 then x.stale[(3 : Fin 28)] else 0

/-- An input of R364 in its physical unit: none where every element is missing or the value is STALE. -/
def inputOf (c : Chip) (i : Fin 2) (code : Nat) : Option Rat :=
  let x := c.mc[i].cool
  let tj := fun (l : List Nat) => (listMax (l.flatMap (fun s => telTj (c.supTel i s)))).map (fun v => (v : Rat) / 16)
  if code = 0x01 then some ((c.telVolts i : Rat) * c.telAmps i / 10000)
  else if code = 0x02 then some ((c.telAmps i : Rat) / 100)
  else if code = 0x03 then (if staleRun x code = 0 then some ((x.outlet : Rat) / 16) else none)
  else if code = 0x04 then (if staleRun x code = 0 then some ((x.inlet : Rat) / 16) else none)
  else if code = 0x05 then (if staleRun x code = 0 then x.fq.map (fun v => (v : Rat) / 100) else none)
  else if code = 0x06 then (if staleRun x code = 0 then x.dp.map (fun v => (v : Rat) / 10) else none)
  else if 0x10 ≤ code ∧ code ≤ 0x23 then tj (junctionOf code)
  else if code = 0x30 then some ((c.pkgPower i : Rat) / 8)
  else none

/-- An input of which no status frame has been received: it has no reading, and a slot that reads it does not compute (R361). -/
def inputAbsent (c : Chip) (i : Fin 2) (code : Nat) : Bool :=
  let unseen := fun (l : List Nat) => l.all (fun s => !(c.supTel i s).seen)
  if code = 0x01 ∨ code = 0x02 then unseen [18]
  else if 0x10 ≤ code ∧ code ≤ 0x23 then unseen (junctionOf code)
  else if code = 0x30 then unseen (List.range 16)
  else false

/-- An input whose sensor is faulted: eight STALE reads, or an element fault with no substitute (R323, R375). -/
def inputFault (c : Chip) (i : Fin 2) (code : Nat) : Bool :=
  let x := c.mc[i].cool
  if code = 0x03 ∨ code = 0x04 then staleRun x code = 8
  else if code = 0x05 then staleRun x code = 8 || bit x.faulted 4 else if code = 0x06 then staleRun x code = 8 || bit x.faulted 5
  else if 0x10 ≤ code ∧ code ≤ 0x23 then x.stale.toList.getD (code - 0xB) 0 = 8
  else false

/-- Whether a slot's read of an input is STALE (R323, R375). -/
def inputStale (c : Chip) (i : Fin 2) (code : Nat) : Bool :=
  let x := c.mc[i].cool
  if 0x03 ≤ code ∧ code ≤ 0x06 then staleRun x code ≠ 0
  else if 0x10 ≤ code ∧ code ≤ 0x23 then (c.inputOf i code).isNone
  else false

/-- The junction inputs as a tick latches them: eight reads in which all elements are missing fault the input for every slot that reads it (R323, R375). -/
def junctionRead (i : Fin 2) (c : Chip) : Chip :=
  c.onCool i fun x => { x with stale := updAll x.stale (fun k n =>
    let code := k.val + 0xB
    if k.val < 5 || 25 ≤ k.val || c.inputAbsent i code then n else if (c.inputOf i code).isNone then min 8 (n + 1) else 0) }

/-- The gain of an error (R358). -/
def gainAt (em : Int) (x g : Nat → Int) (count : Nat) : Int :=
  if em ≤ x 0 then g 0
  else
    match (List.range (count - 1)).find? (fun i => decide (em < x (i + 1))) with
    | some i =>
      if x (i + 1) ≤ x i then g i
      else g i + rne (((g (i + 1) - g i) * (em - x i) : Int) / ((x (i + 1) - x i : Int) : Rat))
    | none => g (count - 1)

/-- The schedule index of a measurement with hysteresis (R360): raised and then lowered, at most `count` times each. -/
def schedUp (ym : Int) (x : Nat → Int) (count : Nat) : Nat → Nat → Nat
  | 0, k => k
  | n + 1, k => if k + 1 < count ∧ x (k + 1) ≤ ym then schedUp ym x count n (k + 1) else k
def schedDown (ym hs : Int) (x : Nat → Int) : Nat → Nat → Nat
  | 0, k => k
  | n + 1, k => if 0 < k ∧ ym < x k - hs then schedDown ym hs x n (k - 1) else k

/-- The rated or protection ceiling in 0.125 W (R364, R393). -/
def ceilTop (c : Chip) (i : Fin 2) : Nat := (c.protection i).1

/-- The announced allowance A in W (R367). -/
def allowance (c : Chip) (i : Fin 2) : Nat :=
  min 3120 ((c.mc[i].posts.filter (fun p => p.allow && !p.fresh && decide (0 < p.step))).foldl (fun a p => a + p.step.toNat) 0)

/-- The tracking limit in 0.125 W, with the ramp after Ochre hold (R367, R368). -/
def tracking (c : Chip) (i : Fin 2) : Nat :=
  let t := c.pkgPower i + c.valOf i (okey 0x4000 3) + 8 * c.allowance i
  match c.mod.rampFrom with
  | some t0 =>
    let bound := 14976 + 8 * c.valOf i (okey 0x4010 7) * (c.time - t0) / 10000
    if bound < 24960 then min t bound else t
  | none => t

/-- The feed-forward term in output units (R369). -/
def feedForward (c : Chip) (i : Fin 2) (n : Nat) : Int :=
  let eu := c.slotExp i n 3
  let kind := c.slotFf i n
  let ovh := c.mc[i].ovh
  if kind = 1 then rne ((c.mc[i].disp.setp - ovh) * pow2 (-eu))
  else if kind = 2 then
    rne (((c.slotObj i n 1 1 : Rat) * pow2 (c.slotExp i n 1) * ((c.telVolts i : Rat) / 100) - ovh) * pow2 (-eu))
  else if kind = 3 then
    let tf := c.slotNat i n 0 0x10
    let kf := c.slotObj i n 0 0xF
    rne (c.mc[i].posts.foldl (fun (a : Rat) p =>
      let tau := c.time - p.at'
      if !p.fresh && decide (tau < msecs tf) then
        a + (rne ((kf * p.step : Int) * pow2 (c.slotExp i n 6 - eu)) : Rat) * (1 - (tau : Rat) / (msecs tf : Nat))
      else a) 0)
  else 0

/-- The package ceiling that status frames echo: the applied ceilings of the Ready skerries, of which each has an equal share (R329, R366; DEDUCED, log 51). -/
def echoCeil (c : Chip) (i : Fin 2) : Option Nat :=
  let ready := (List.range 16).filter (fun s => (c.supTel i s).seen && telState (c.supTel i s) = 2)
  if ready = [] then none else some (ready.foldl (fun a s => a + fieldLe (c.supTel i s).payload 18 2) 0)

/-- The duty fraction that the actuator driver's last status frame echoes for a channel (R329, R391). -/
def echoTrim (c : Chip) (i : Fin 2) (k : Nat) : Rat :=
  let p := (c.supTel i 16).payload
  if fieldLe p (4 * k) 1 = 1 then 1 else if fieldLe p (4 * k) 1 = 2 then (fieldLe p (4 * k + 1) 1 : Rat) / 200 else 0

/-- The field value applied at the receivers for an output, as the status frames echo it and a mantissa at `EU` (R345, R356, R359): for the package ceiling group the
applied ceiling plus the headroom. -/
def seedTarget (c : Chip) (i : Fin 2) (n : Nat) : Int :=
  let out := c.slotOut i n
  let eu := c.slotExp i n 3
  if out = 1 then (c.mc[i].applied + c.valOf i (okey 0x4000 2) : Nat)
  else if 0x14 ≤ out ∧ out ≤ 0x17 then
    rne (100 * c.echoTrim i (out - 0x10) * pow2 (-eu))
  else if out = 0x20 ∨ out = 0x21 then rne (((fieldLe (c.supTel i 17).payload (4 * (out - 0x20)) 2 : Rat) / 10) * pow2 (-eu))
  else c.mc[i].slots.toList.getD n resetSlot |>.om

/-- The injected value of a running test in sample k (R381). -/
def injection (c : Chip) (i : Fin 2) (n : Fin 32) : Int :=
  let s := c.mc[i].slots[n]
  let ty := c.slotNat i n 7 1
  let a := c.slotObj i n 7 3
  let d := c.slotNat i n 7 6
  if s.test ≠ 2 ∨ d ≤ s.testK then 0
  else if ty = 1 then a
  else if ty = 2 then rne (((a * sinEntry (s.phase / 2 ^ 20) : Int) : Rat) / ((2 ^ 17 : Nat) : Rat))
  else if ty = 3 then (if nbit s.reg 10 then a else -a)
  else 0

/-- The test moves on by one sample (R381). -/
def testStep (c : Chip) (i : Fin 2) (n : Fin 32) (s : Slot) : Slot :=
  if s.test ≠ 2 then s
  else
    let d := c.slotNat i n 7 6
    let f0 : Rat := (c.slotNat i n 7 4 : Rat) / 100
    let f1 : Rat := (c.slotNat i n 7 5 : Rat) / 100
    let ts : Rat := (divider (c.slotCls i n) : Rat) / 10000
    let ph := (s.phase + unsgn 32 (rne ((f0 + (f1 - f0) * s.testK / max 1 d) * ts * ((2 ^ 32 : Nat) : Rat)))) % 2 ^ 32
    let p := max 1 (c.slotNat i n 7 7)
    let k := s.testK + 1
    let fb := b2n (nbit s.reg 10 != nbit s.reg 8)
    let reg := if k % p = 0 then (s.reg * 2 + fb) % 2048 else s.reg
    { s with testK := k, phase := ph, reg := reg, test := if d ≤ k then 3 else 2 }

/-- The three terms of the law at an error and a measurement (R357). -/
def terms (c : Chip) (i : Fin 2) (n : Fin 32) (ym df jsp : Int) : Int × Int × Int :=
  let ey := c.slotExp i n 1
  let eu := c.slotExp i n 3
  let em := satS 18 (c.slotObj i n 1 1 + jsp - ym)
  let count := c.slotNat i n 0 0x13
  let gm := gainAt em (fun k => c.slotObj i n 4 (k + 1)) (fun k => c.slotObj i n 5 (k + 1)) count
  let um := satS 18 (rne ((gm * em : Int) * pow2 (c.slotExp i n 2 + ey - eu)))
  let dm := satS 18 (rne ((c.slotObj i n 3 2 * df : Int) * pow2 (c.slotExp i n 5 + ey - eu)))
  (em, um, dm)

/-- The integrator set so that the output equals the target, the other terms taken from the present measurement (R345, R359). -/
def retarget (c : Chip) (i : Fin 2) (n : Fin 32) (ym target : Int) (s : Slot) : Slot :=
  let inj := c.injection i n
  let atSp := c.slotNat i n 7 2 = 0
  let (em, um, dm) := c.terms i n ym s.df (if atSp then inj else 0)
  let ff := satS 18 (c.feedForward i n)
  let jm := if atSp then 0 else inj
  let im := target - um - dm - ff - jm
  { s with em := em, um := um, dm := dm, ffm := ff, jm := jm, ig := satS 32 (im * 2 ^ 14), im := im, om := target }

/-- Seeding (R359): the filter is emptied and the integrator set so that the output equals the target. -/
def seedSlot (c : Chip) (i : Fin 2) (n : Fin 32) (ym target : Int) (s : Slot) : Slot :=
  { c.retarget i n ym target { s with df := 0 } with seeded := true, ymPrev := ym, k := 0, ym := ym, out := true, toOwn := false }

/-- The output brought between the clamps, the integrator following (R357). -/
def clampOut (lo hi : Int) (s : Slot) : Slot :=
  let rest := s.um + s.dm + s.ffm + s.jm
  let s1 := if s.om > hi then { s with om := hi, ig := satS 32 ((hi - rest) * 2 ^ 14) } else s
  if s1.om < lo then { s1 with om := lo, ig := satS 32 ((lo - rest) * 2 ^ 14) } else s1

/-- The measurement mantissa of a slot; its previous one for a STALE input (R356, R375). -/
def measure (c : Chip) (i : Fin 2) (n : Fin 32) (s : Slot) : Int :=
  match c.inputOf i (c.slotIn i n) with | some v => satS 18 (rne (v * pow2 (-(c.slotExp i n 1)))) | none => s.ymPrev

/-- A slot seeds itself (R359): with its own output after a release, else with the applied value; schedule law starts at index 0. -/
def seedNow (c : Chip) (i : Fin 2) (n : Fin 32) (s : Slot) : Slot :=
  let target := if s.toOwn then s.om else c.seedTarget i n
  if c.slotNat i n 0 0x11 = 1 then { s with seeded := true, out := true, toOwn := false, k := 0, ymPrev := c.measure i n s, om := target }
  else c.seedSlot i n (c.measure i n s) target s

/-- One sample of a seeded slot (R357, R360). -/
def sampleSlot (c : Chip) (i : Fin 2) (n : Fin 32) (s0 : Slot) : Slot :=
  let sched := c.slotNat i n 0 0x11 = 1
  let ym := c.measure i n s0
  let lo := c.slotObj i n 1 2
  let hi := c.slotObj i n 1 3
  if sched then
    let count := c.slotNat i n 0 0x13
    let xs := fun k => c.slotObj i n 4 (k + 1)
    let k := schedDown ym (c.slotObj i n 0 0x12) xs count (schedUp ym xs count count s0.k)
    let om := c.slotObj i n 5 (k + 1)
    { s0 with k := k, ym := ym, ymPrev := ym, om := max lo (min hi om), inj := 0, late := 0, ranFor := s0.ranFor + divider (c.slotCls i n) }
  else
    let s := s0
    let inj := c.injection i n
    let atSp := c.slotNat i n 7 2 = 0
    let a := c.slotNat i n 3 3
    let df := satS 18 (s.df + rne ((s.ymPrev - ym - s.df : Int) * pow2 (-(a : Int))))
    let (em, um, dm) := c.terms i n ym df (if atSp then inj else 0)
    let ig := satS 32 (s.ig + rne ((c.slotObj i n 3 1 * um : Int) * pow2 (c.slotExp i n 4 + 14)))
    let ff := satS 18 (c.feedForward i n)
    let jm := if atSp then 0 else inj
    let im := rne ((ig : Rat) / ((2 ^ 14 : Nat) : Rat))
    let s1 := clampOut lo hi { s with df := df, em := em, um := um, dm := dm, ig := ig, ffm := ff, jm := jm, inj := inj, im := im, om := um + im + dm + ff + jm }
    let f := c.slotObj i n 0 0xD
    let rm := c.slotObj i n 1 1 + (if atSp then inj else 0)
    let t := c.slotNat i n 0 0xE
    let ran := s.ranFor + divider (c.slotCls i n)
    let fo := if f ≠ 0 ∧ ym - rm > f then (if msecs t ≤ ran then s.foTime + divider (c.slotCls i n) else 0) else 0
    c.testStep i n { s1 with ym := ym, ymPrev := ym, late := 0, ranFor := ran, foTime := fo }

/-- A loop fault (R376): Faulted at once with its code, its output held or at the safe value; an armed test is aborted; EMCY 0x8610 + code. -/
def loopFault (i : Fin 2) (n : Fin 32) (code : Nat) (c : Chip) : Chip :=
  let s := c.mc[i].slots[n]
  if s.st = .running ∨ s.st = .frozen then
    let safe := c.slotNat i n 0 0xA = 1
    let c1 := c.onSlot i n fun x =>
      { x with st := .faulted, code := code, om := if safe then c.slotObj i n 0 0xB else x.om, out := x.out || safe, lateNow := false,
               test := if x.test = 1 ∨ x.test = 2 then 4 else x.test }
    if i = c.act then c1.condRaise (0x8610 + code) n.val code (if code = 3 then c.slotIn i n else 0) else c1
  else c

/-- Whether slots of a class compute in the present state (R354). -/
def computes (st : ModState) (cls : Nat) : Bool :=
  match st with
  | .packageOn | .serving | .draining => true
  | .coolantReady => 2 ≤ cls
  | _ => false

/-- A captured sample: the four chosen values (R383). -/
def captureRec (c : Chip) (i : Fin 2) (n : Fin 32) : List Int :=
  let s := c.mc[i].slots[n]
  let codes := c.valOf i (okey 0x4600 2)
  let field : Int := if c.slotOut i n = 1 then c.mc[i].applied else c.seedTarget i n
  (List.range 4).map fun j =>
    match nfld codes (8 * j) 8 with
    | 1 => s.ym | 2 => c.slotObj i n 1 1 | 3 => s.em | 4 => s.um | 5 => s.im | 6 => s.dm | 7 => s.ffm
    | 8 => s.inj
    | 9 => s.om | 10 => field | _ => 0

/-- The capture takes every n-th sample of its slot until the buffer is full (R383). -/
def captureTake (i : Fin 2) (n : Fin 32) (c : Chip) : Chip :=
  let h := c.valOf i (okey 0x4600 1)
  let cap := c.mc[i].cap
  if cap.status = 2 ∧ h % 2 ^ 18 = n.val ∧ h / 2 ^ 18 = c.mc[i].slots[n].gen.toNat then
    if cap.skip = 0 then
      let recs := cap.recs ++ [c.captureRec i n]
      c.onMc i fun m => { m with cap := { status := if recs.length = 8192 then 3 else 2, skip := c.valOf i (okey 0x4600 3) - 1, recs := recs } }
    else c.onMc i fun m => { m with cap := { m.cap with skip := m.cap.skip - 1 } }
  else c

/-- The frame field a late slot feeds has its LATE_MAP bit set in the next frame that carries it (R363): package ceiling 0, trim channel c, blower b at 8 + b. -/
def lateMark (i : Fin 2) (n : Fin 32) (c : Chip) : Chip :=
  let out := c.slotOut i n
  let mark := fun (k : Nat) => c.onMc i fun m => { m with out := { m.out with lateMap := setBit m.out.lateMap k true } }
  if out = 1 then mark 0
  else if 0x14 ≤ out ∧ out ≤ 0x17 then mark (out - 0x10)
  else if out = 0x20 ∨ out = 0x21 then mark (out - 0x18) else c

/-- A slot's turn in the tick (R349, R359, R361, R363, R374, R375, R379): an input fault; seeding when it computes again, at its next sample after a release, not
while HOLD frames go out; the sample when it is due, none when it missed its deadline or, in PID law, was seeded in this tick. -/
def slotTurn (i : Fin 2) (n : Fin 32) (c : Chip) : Chip :=
  let s := c.mc[i].slots[n]
  let cls := c.slotCls i n
  let due := c.mc[i].seq.toNat % divider cls = c.slotNat i n 0 6
  let sched := c.slotNat i n 0 0x11 = 1
  if (s.st = .running ∨ s.st = .frozen) ∧ computes c.mod.st cls ∧ c.inputFault i (c.slotIn i n) then c.loopFault i n 3
  else if s.st ≠ .running then c
  else if !computes c.mod.st cls || c.inputAbsent i (c.slotIn i n) || decide (0 < c.mc[i].hold) then c.onSlot i n fun x => { x with seeded := false, lateNow := false }
  else
    let fresh := !s.seeded && (!s.toOwn || due)
    let c1 := if fresh then c.onSlot i n fun x => c.seedNow i n x else c
    if !due || !c1.mc[i].slots[n].seeded || (fresh && !sched) then c1
    else if s.lateNow then (c1.lateMark i n).onSlot i n fun x => { x with lateNow := false }
    else
      let stale := b2n (c1.inputStale i (c1.slotIn i n))
      ((c1.onSlot i n fun x => c1.sampleSlot i n x).onPair fun p => { p with stale := satAdd 32 p.stale stale }).captureTake i n

/-- Due slots run class by class, within a class by index (R361 step 2). -/
def runSlots (i : Fin 2) (c : Chip) : Chip :=
  each (List.range 4) (fun cls (d : Chip) =>
    each (fins 32) (fun (n : Fin 32) (e : Chip) => if c.slotCls i n = cls then e.slotTurn i n else e) d) c

/-- Whether a slot drives its output (R354, R364, R376, R377): Running, Frozen or Faulted, with an output since it was started. -/
def drives (s : Slot) : Bool := (s.st = .running || s.st = .frozen || s.st = .faulted) && s.out

/-- Members of the package ceiling group that take part (R364, R376). -/
def groupSlots (c : Chip) (i : Fin 2) : List (Fin 32) :=
  (fins 32).filter fun n => c.slotOut i n = 1 && drives c.mc[i].slots[n]

/-- Arbitration and the clamp of the losers (R364, R365). -/
def arbitrate (i : Fin 2) (c : Chip) : Chip :=
  let floor := c.valOf i (okey 0x4000 6)
  let top := c.ceilTop i
  let track := c.tracking i
  let best := (c.groupSlots i).foldl (fun (a : Option (Fin 32 × Int)) n =>
    let v := c.mc[i].slots[n].om
    match a with | some (_, w) => if v < w then some (n, v) else a | none => some (n, v)) none
  let lim := min top track
  let (sel, v) : Nat × Int := match best with
    | some (n, w) => if w ≤ lim then (n.val, w) else if track < top then (0xFE, lim) else (0xFD, lim)
    | none => if track < top then (0xFE, lim) else (0xFD, lim)
  let applied := max floor v.toNat
  let cap : Int := applied + c.valOf i (okey 0x4000 2)
  let c1 := c.onMc i fun m => { m with applied := applied, selected := sel }
  each (c.groupSlots i) (fun (n : Fin 32) (d : Chip) =>
    d.onSlot i n fun s => if s.om > cap then { s with ig := satS 32 (s.ig - (s.om - cap) * 2 ^ 14), om := cap } else s) c1

/-- A latch receives the posts that came since the one before, with its time and its package power; older posts age: their part in the allowance ends, and they are
forgotten once no feed-forward uses them (R367, R369). -/
def agePosts (i : Fin 2) (c : Chip) : Chip :=
  let p := c.pkgPower i
  c.onMc i fun m =>
    { m with posts := (m.posts.map (fun x =>
        if x.fresh then { x with fresh := false, at' := c.time, power := p } else
        let risen := decide (0 < x.step) && decide (x.power + (8 * x.step.toNat * 8) / 10 < p)
        let overrun := decide ((x.lead + 99) / 100 + msecs 10 ≤ c.time - x.at')
        { x with allow := x.allow && !risen && !overrun })).filter (fun x => x.allow || decide (c.time - x.at' < msecs 65536)) }

/-- The overhead filter (R369): each tick, seeded at the first tick of Package-on. `ovhSeeded` stands from there until the package is off again, through Ochre hold too. -/
def overhead (i : Fin 2) (c : Chip) : Chip :=
  let raw : Rat := (c.telVolts i : Rat) * c.telAmps i / 10000 - (c.pkgPower i : Rat) / 8
  let on := pkgState c.mod.st
  c.onMc i fun m =>
    { m with ovh := if c.seedsPkg i then raw else m.ovh + (raw - m.ovh) / 100, ovhSeeded := c.seedsPkg i || (m.ovhSeeded && (on || c.mod.st == .ochre)), computing := on }

/-! ### The dispatch input (R370 to R373) -/

/-- Duty in 0.01 % and frequency in Hz over the periods of the window (R371). -/
def pulsesOf (l : List (Nat × Nat × Nat)) : Rat × Rat :=
  let high : Nat := l.foldl (fun a p => a + p.2.1) 0
  let whole : Nat := l.foldl (fun a p => a + p.2.2) 0
  ((10000 * high : Nat) / (whole : Rat), (l.length * 10 ^ 9 : Nat) / (whole : Rat))

/-- A period below 80 µs, or a phase below 2 µs that the filter cannot pass, saturates the measurement (R371). -/
def pulsesFast (l : List (Nat × Nat × Nat)) : Bool :=
  l.any (fun p => decide (p.2.2 < 80000) || decide (p.2.1 < 2000) || decide (p.2.2 - p.2.1 < 2000))
def dutyInRange (p : Nat × Nat × Nat) : Bool := decide (5 * p.2.2 ≤ 100 * p.2.1) && decide (100 * p.2.1 ≤ 95 * p.2.2)

/-- The mean of the samples of the 4-20 mA input in µA (R372). -/
def meanUa (l : List Nat) : Rat := (l.foldl (· + ·) 0 : Nat) / (l.length : Rat)

/-- The periods and samples of a tick enter the windows (R371, R372). While no complete period ended in the last 10 ms, which a frequency below 100 Hz allows, the
last measurement stands until the input is stuck (DEDUCED, log 51). -/
def dispSample (i : Fin 2) (x : TickIn) (c : Chip) : Chip :=
  c.onDisp i fun d =>
    let all := d.pulses ++ x.periods.map (fun p => (c.time, p.1, p.2))
    let recent := all.filter (fun p => decide (c.time < p.1 + msecs 10))
    let pulses := if recent = [] then d.pulses else recent
    let ua := ((d.loopUa ++ [x.loopUa]).reverse.take 10).reverse
    { d with pulses := pulses, loopUa := ua, stuck := d.stuck && x.periods.isEmpty, duty := if pulsesFast pulses then d.duty else (rne (pulsesOf pulses).1).toNat,
             freq := if pulsesFast pulses then 12500 else (rne (pulsesOf pulses).2).toNat, ua := (rne (meanUa ua)).toNat }

/-- The raw validity and target of the selected source, and the status bits 3 to 7 of 4010.08 (R370 to R372). -/
def dispRaw (c : Chip) (i : Fin 2) : Bool × Nat × Nat :=
  let lo := c.valOf i (okey 0x4010 2)
  let hi := c.valOf i (okey 0x4010 3)
  let src := c.valOf i (okey 0x4010 1)
  let span : Rat := ((hi : Int) - (lo : Int) : Int)
  if src = 0 then (true, c.valOf i (okey 0x4010 4), 0)
  else if src = 1 then
    let stuck := c.mc[i].disp.stuck
    let l := c.mc[i].disp.pulses
    let fast := pulsesFast l
    let p := pulsesOf l
    let band := 90 ≤ p.2 ∧ p.2 ≤ 11000 ∧ l.all dutyInRange
    let d : Rat := max 1000 (min 9000 p.1)
    (decide band && !fast && !stuck, (rne (lo + (d - 1000) / 8000 * span)).toNat, 16 * b2n stuck + 32 * b2n (!decide band) + 64 * b2n fast)
  else
    let ua := meanUa c.mc[i].disp.loopUa
    let i' : Rat := max 4000 (min 20000 ua)
    let broken := ua < 3600
    let overrun := 21000 < ua
    (!decide broken && !decide overrun, (rne (lo + (i' - 4000) / 16000 * span)).toNat, 8 * b2n broken + 128 * b2n overrun)

/-- Whether an entry of object 1016 names a node and a time (R454). -/
def beatUsed (c : Chip) (i : Fin 2) (k : Fin 4) : Bool :=
  let v := c.valOf i (okey 0x1016 (k.val + 1))
  nfld v 0 16 ≠ 0 && nfld v 16 8 ≠ 0

/-- The target and the applied set-point move by one tick (R373); validity that is lost, with a change of the source or a lost heartbeat too, comes back by rule 3. A lost consumed heartbeat makes the input invalid while 2010.05 is 1 (R454). -/
def dispTick (i : Fin 2) (x : TickIn) (c : Chip) : Chip :=
  let src := c.valOf i (okey 0x4010 1)
  let c0 := c.dispSample i x
  let (ok0, tgt, bits) := c0.dispRaw i
  let hb := c.valOf i (okey 0x2010 5) = 1 && (fins 4).any (fun k => c.comm.hbLost[k] && c.beatUsed i k)
  let ok := ok0 && !hb
  let d := c0.mc[i].disp
  let changed := d.source ≠ src
  let valid := d.valid && ok && !changed
  let holding := !valid && (d.holding || d.valid)
  let recovering := !valid && ok
  let target := if valid then tgt else d.target
  let rho : Rat := (c.valOf i (okey 0x4010 7) : Rat) / 10000
  let goal : Rat := if d.fallback && !valid then c.valOf i (okey 0x4010 6) else target
  let both := d.ramping || (d.fallback && !valid)
  let setp := if d.setp < goal then min goal (d.setp + rho) else if both then max goal (d.setp - rho) else goal
  let status := b2n valid + 2 * b2n (holding && !d.fallback) + 4 * b2n (d.fallback && !valid) + bits
  let c1 := c0.onDisp i fun e =>
    { e with valid := valid, holding := holding, recovering := recovering, target := target, setp := setp, ramping := d.ramping && decide (setp ≠ goal),
             status := BitVec.ofNat 8 status, source := src,
             fallback := d.fallback && !valid }
  if i = c.act then (if changed then c1.condClear 0xFF30 d.source else c1).condSet (!valid && src ≠ 0) 0xFF30 src status 0 else c1

/-- The dispatch slot's set-point mantissa is the applied set-point (R373). -/
def dispSlot (i : Fin 2) (c : Chip) : Chip :=
  match (fins 32).find? (fun (n : Fin 32) => c.mc[i].slots[n].st ≠ .free && c.slotFf i n.val = 1) with
  | some n =>
    let m := satS 18 (rne (c.mc[i].disp.setp * pow2 (-(c.slotExp i n 1))))
    c.onMc i fun k => { k with val := omSet (okey (slotBase n.val + 1) 1) (unsgn 32 m) k.val }
  | none => c

/-- The hold time ends: the set-point ramps to the fallback (R373 rule 2). -/
def dispHoldEnd (c : Chip) : Chip :=
  each (fins 2) (fun (i : Fin 2) (d : Chip) => d.onDisp i fun e => if e.holding then { e with fallback := true } else e) c
/-- The input has been valid for 1 s: the set-point ramps to the new target (R373 rule 3). -/
def dispRecover (c : Chip) : Chip :=
  each (fins 2) (fun (i : Fin 2) (d : Chip) =>
    d.onDisp i fun e => if e.recovering then { e with valid := true, holding := false, fallback := false, recovering := false, ramping := true } else e) c

/-! ### Outputs (R366, R377, R403, R409) -/

/-- The value of an output: its driving slot's, if any. -/
def driver (c : Chip) (i : Fin 2) (out : Nat) : Option (Fin 32) :=
  (fins 32).find? fun n => c.slotOut i n = out && drives c.mc[i].slots[n]

/-- A trim command for a duty in percent (R403): MODE, DUTY, FREQ. A duty that rounds to 0 or 200 without being 0 or 100 % goes out as the nearest DUTY that R399 lets
a pulsed channel carry (DEDUCED, log 51). -/
def trimCmd (c : Chip) (i : Fin 2) (d : Rat) : Nat × Nat × Nat :=
  let f := c.valOf i (okey 0x3020 0xC)
  if d ≤ 0 then (0, 0, f) else if 100 ≤ d then (1, 0, f) else (2, (clampInt 1 199 (rne (2 * d))).toNat, f)

/-- The channel commands of the next actuator frame (R328, R403, R425, R428, R433); in Ochre hold those of the state before it (R37). A channel
that is not pulsed has FREQ 1, which R328's range asks for (DESIGN CHOICE, log 51). -/
def chanCmd (c : Chip) (i : Fin 2) (k : Fin 10) : Nat × Nat × Nat :=
  let st := if c.mod.st = .ochre then c.mod.before else c.mod.st
  let run := match st with | .coolantReady | .packageOn | .serving => true | .draining => c.mod.drain == .commands | _ => false
  let inlet := run || (c.mod.st == .standby && (match c.mod.opening with | .inlet | .filling | .inletAgain | .outlet => true | _ => false))
  let outlet := run || (c.mod.st == .standby && c.mod.opening == .outlet)
  let lock := (match c.mod.st with | .aux | .standby | .tripped => true | _ => false) && c.pins.request && c.pins.pressed && !c.pins.ignored
  if k.val < 2 then (b2n inlet, 0, 1) else if k.val < 4 then (b2n outlet, 0, 1)
  else if k.val < 8 then
    (match c.driver i (0x10 + k.val) with
     | some n => c.trimCmd i ((c.mc[i].slots[n].om : Rat) * pow2 (c.slotExp i n 3))
     | none => (0, 0, 1))
  else if k.val = 8 then (b2n lock, 0, 1) else (0, 0, 1)

/-- A blower's commanded duty (R409). -/
def blowCmd (c : Chip) (i : Fin 2) (b : Fin 2) : Nat :=
  match c.mod.st with
  | .unpowered | .aux | .standby => 0
  | .tripped => 1000
  | _ =>
    if c.blow[other b].stalled then 1000
    else match c.driver i (0x20 + b.val) with
      | some n => (clampInt 0 1000 (rne ((c.mc[i].slots[n].om : Rat) * pow2 (c.slotExp i n 3) * 10))).toNat
      | none => 1000

/-- Distribution of the ceiling and encoding of the next frames' fields (R361 step 4, R366). LATE_MAP bits wait for the frame that carries them (R363). -/
def encodeOut (i : Fin 2) (c : Chip) : Chip :=
  let ready := (List.range 16).filter (fun s => telState (c.supTel i s) = 2)
  let share := if ready = [] then 0 else c.mc[i].applied / ready.length
  let v := clampNat 4400 6300 (c.telVolts i)
  let out : Outputs :=
    { pkgCeil := c.mc[i].applied, skCeil := Vector.ofFn fun s => if ready.contains s.val then share else 0,
      clk := Vector.ofFn fun s => if ready.contains s.val then c.valOf i (okey 0x4000 7) else 8,
      iLim := 4200 * 10 * 100 / v, rails := c.pwr.enabled, ch := Vector.ofFn fun k => c.chanCmd i k,
      blow := Vector.ofFn fun b => c.blowCmd i b, lateMap := c.mc[i].out.lateMap }
  c.onMc i fun m => { m with out := out }

/-- What a controller's engine computes before its slots: announced loads, the overhead, the dispatch input (R361, R367, R369, R373). -/
def beforeSlots (i : Fin 2) (x : TickIn) (c : Chip) : Chip := (((c.agePosts i).overhead i).dispTick i x).dispSlot i

/-- One tick of a controller's engine after its inputs are latched (R361 steps 2 to 4). -/
def engineTick (i : Fin 2) (x : TickIn) (c : Chip) : Chip := (((c.beforeSlots i x).runSlots i).arbitrate i).encodeOut i

/-- A missed deadline (R363): the output is repeated, the count rises, and three in a row fault the slot, whose field still has its LATE_MAP bit. -/
def deadlineMissed (i : Fin 2) (n : Fin 32) (c : Chip) : Chip :=
  let s := c.mc[i].slots[n]
  if s.st = .running ∧ computes c.mod.st (c.slotCls i n) then
    let c1 := (c.onSlot i n fun x => { x with late := min 255 (x.late + 1), lateNow := true }).onMc i fun m =>
      { m with lateCount := satAdd 32 m.lateCount 1, lateAt := some c.time }
    if 3 ≤ s.late + 1 then (c1.lateMark i n).loopFault i n 1 else c1
  else c

/-- The following-error timer reaches T (R374): a Running slot in PID law whose measurement has exceeded the set-point by more than F for that time. -/
def followingError (i : Fin 2) (n : Fin 32) (c : Chip) : Chip :=
  let s := c.mc[i].slots[n]
  let f := c.slotObj i n 0 0xD
  if s.st = .running ∧ c.slotNat i n 0 0x11 = 0 ∧ f ≠ 0 ∧ 0 < s.foTime ∧ msecs (c.slotNat i n 0 0xE) ≤ s.foTime then c.loopFault i n 2 else c

/-! ### Slot commands (R353, R354, R379, R382, R383) -/

/-- Whether a start passes the configuration checks of R354. -/
def startOk (c : Chip) (i : Fin 2) (n : Fin 32) : Bool :=
  let cls := c.slotCls i n
  let out := c.slotOut i n
  let kinds := if out = 1 then cls = 0 || cls = 1 else if 0x14 ≤ out ∧ out ≤ 0x17 then cls = 1 || cls = 2
    else if out = 0x20 ∨ out = 0x21 then cls = 3 else out = 0
  let others := (fins 32).filter (fun m => m ≠ n && (c.mc[i].slots[m].st = .running || c.mc[i].slots[m].st = .frozen))
  let clash := out ≥ 0x14 && others.any (fun m => c.slotOut i m = out)
  let ff := c.slotFf i n = 1 && (fins 32).any (fun m => m ≠ n && c.mc[i].slots[m].st ≠ .free && c.slotFf i m = 1)
  let cnt := c.slotNat i n 0 0x13
  kinds && (out ≠ 1 || c.slotExp i n 3 = -3) && !clash && !ff && decide (c.slotObj i n 1 2 ≤ c.slotObj i n 1 3) && decide (1 ≤ cnt) && decide (cnt ≤ 16)

/-- Both controllers apply a mirrored change, the standby while the pair link is up (R344, R353). -/
def mirrored (f : Fin 2 → Chip → Chip) (c : Chip) : Chip :=
  if c.pair.link then f (other c.act) (f c.act c) else f c.act c

/-- An armed or running test is aborted (R382). -/
def abortTest (s : Slot) : Slot := { s with test := if s.test = 1 ∨ s.test = 2 then 4 else s.test }

/-- Commands of B+0.03 in the slot's state (R353): whether accepted, and the effect. -/
def slotCmdOk (c : Chip) (n : Fin 32) (cmd : Nat) : Bool :=
  let st := c.mc[c.act].slots[n].st
  match cmd, st with
  | 1, .stopped => c.startOk c.act n
  | 2, .running | 2, .frozen | 2, .faulted => true
  | 3, .running | 4, .frozen => true
  | 3, .faulted | 4, .faulted => true
  | _, _ => false
def slotCmd (n : Fin 32) (cmd : Nat) (c : Chip) : Chip :=
  let clear := if cmd = 2 ∧ c.mc[c.act].slots[n].st = .faulted then c.condClear (0x8610 + c.mc[c.act].slots[n].code) n.val else c
  clear.mirrored fun i d =>
    d.onSlot i n fun s =>
      match cmd, s.st with
      | 1, .stopped => { s with st := .running, seeded := false, out := false, toOwn := false, ranFor := 0, foTime := 0, late := 0, lateNow := false }
      | 2, .running | 2, .frozen | 2, .faulted => abortTest { s with st := .stopped, seeded := false, out := false, toOwn := false, code := 0, lateNow := false }
      | 3, .running => abortTest { s with st := .frozen }
      | 4, .frozen => { s with st := .running, seeded := false, toOwn := s.out }
      | _, _ => s

/-- A clear of a fault whose cause is gone: the slot seeds itself and runs (R376). -/
def clearOk (c : Chip) (n : Fin 32) : Bool :=
  let s := c.mc[c.act].slots[n]
  s.st = .faulted &&
    (let f := c.slotObj c.act n 0 0xD
     if s.code = 3 then !c.inputFault c.act (c.slotIn c.act n) && (c.inputOf c.act (c.slotIn c.act n)).isSome
     else if s.code = 2 then f = 0 || decide (c.measure c.act n s - c.slotObj c.act n 1 1 ≤ f) else true)
def clearSlot (n : Fin 32) (c : Chip) : Chip :=
  (c.condClear (0x8610 + c.mc[c.act].slots[n].code) n.val).mirrored fun i d =>
    d.onSlot i n fun s => if s.st = .faulted then { s with st := .running, code := 0, seeded := false, toOwn := false, late := 0, foTime := 0, ranFor := 0 } else s

/-- The handle of a slot (R190, R353); 0 for a Free one is never issued. -/
def slotHandle (n : Fin 32) (s : Slot) : Nat := s.gen.toNat * 2 ^ 18 + n.val


/-- A create takes the lowest Free slot; its objects return to their factory values with the given class (R353, log 17). -/
def createOk (c : Chip) : Bool := (fins 32).any (fun n => c.mc[c.act].slots[n].st = .free)
def createSlot (cls : Nat) (c : Chip) : Chip :=
  c.mirrored fun i d =>
    match (fins 32).find? (fun n => d.mc[i].slots[n].st = .free) with
    | some n =>
      let base := slotBase n.val
      let mine := fun k => decide (base ≤ k / 256) && decide (k / 256 < base + 0x20)
      (d.onSlot i n fun s => { resetSlot with gen := s.gen, st := .stopped }).onMc i fun m =>
        { m with val := omSet (okey base 5) cls (omErase mine m.val), lastHandle := BitVec.ofNat 32 (slotHandle n d.mc[i].slots[n]) }
    | none => d

/-- A destroy names a Stopped slot by its handle (R353). -/
def destroyOk (c : Chip) (h : Nat) : Bool :=
  (fins 32).any fun n => slotHandle n c.mc[c.act].slots[n] = h && c.mc[c.act].slots[n].st = .stopped
def destroySlot (h : Nat) (c : Chip) : Chip :=
  c.mirrored fun i d =>
    match (fins 32).find? (fun n => slotHandle n d.mc[i].slots[n] = h ∧ d.mc[i].slots[n].st = .stopped) with
    | some n => d.onSlot i n fun s => { resetSlot with gen := BitVec.ofNat 14 (nextGen s.gen.toNat) }
    | none => d

/-- A test start is refused while the pair link is down, the slot is not Running, or another test runs (R382). -/
def testOk (c : Chip) (n : Fin 32) : Bool :=
  c.pair.link && c.mc[c.act].slots[n].st = .running && c.slotNat c.act n 0 0x11 = 0 &&
    !(fins 32).any (fun m => c.mc[c.act].slots[m].test = 1 || c.mc[c.act].slots[m].test = 2)
def testArm (n : Fin 32) (c : Chip) : Chip :=
  c.mirrored fun i d => d.onSlot i n fun s => { s with test := 1, testAt := c.time, testK := 0, phase := 0, reg := 0x7FF }
/-- Whether the next tick holds the scheduled sample of a waiting test: a sample of its slot whose SEQ is a multiple of 100, 10 ms or more after the write (R382). -/
def testDue (n : Fin 32) (c : Chip) : Bool :=
  let seq := c.mc[c.act].seq.toNat
  seq % 100 = 0 && seq % divider (c.slotCls c.act n) = c.slotNat c.act n 0 6 && decide (c.mc[c.act].slots[n].testAt + msecs 10 ≤ c.time)
/-- The scheduled sample is reached: the injection begins on both controllers, and an armed capture starts (R382, R383). -/
def testBegin (n : Fin 32) (c : Chip) : Chip :=
  if !c.testDue n then c
  else each (fins 2) (fun (i : Fin 2) (d : Chip) =>
    if d.mc[i].slots[n].test = 1 then
      (d.onSlot i n fun s => { s with test := 2 }).onMc i fun m =>
        { m with cap := if m.cap.status = 1 ∧ d.valOf i (okey 0x4600 1) = slotHandle n d.mc[i].slots[n] then { m.cap with status := 2, skip := 0 } else m.cap }
    else d) c
def testStop (n : Fin 32) (c : Chip) : Chip := c.mirrored fun i d => d.onSlot i n abortTest

/-- Capture commands (R383): 1 arm, 2 start, 3 stop, on the active controller's buffer. -/
def captureCmd (v : Nat) (c : Chip) : Chip :=
  c.onMc c.act fun m =>
    { m with cap := if v = 1 then { status := 1, skip := 0, recs := [] } else if v = 2 then { status := 2, skip := 0, recs := [] }
             else if m.cap.status = 1 ∨ m.cap.status = 2 then { m.cap with status := 4 } else m.cap }

end Chip
end Sys2Proof.Machine
end

