-- ==== Sys2Proof/Machine/Pair.lean ====
section
/-!
DEFINITION. The controller pair: mirroring, takeover, self-test, restart, rejoining, the pair link (R319 to R351), and the ends of roles and
sessions that go with them (R345, R480).
-/
namespace Sys2Proof.Machine

/-- A write enters a controller's journal of 1,024 entries (R344). In a full journal that no snapshot empties the oldest entry gives way (DESIGN CHOICE, log 25). -/
def Ctrl.journalNote (m : Ctrl) (serial k v : Nat) : Ctrl := { m with journal := ((serial, k, v) :: m.journal).take 1024, jserial := serial }

/-- A write of a plain object enters the journal and the controller's values (R344). -/
def Ctrl.journalPut (m : Ctrl) (serial k v : Nat) : Ctrl := { m.journalNote serial k v with val := omSet k v m.val, kept := m.kept.map (omSet k v) }

namespace Chip

/-- A dictionary write enters the journal of the serving controller and, while the pair link is up, the standby's (R344); with the link down it is unknown to the
standby (R346). The entry that fills the journal makes the standby ask for a snapshot. -/
def journalled (put : Ctrl → Nat → Nat → Nat → Ctrl) (k v : Nat) (c : Chip) : Chip :=
  let ser := c.mc[c.act].jserial + 1
  let c1 := c.onMc c.act fun m => put m ser k v
  if c.pair.link then
    let c2 := (c1.onMc (other c.act) fun m => put m ser k v).send (.pair (mcOf c.act) (.journal ser k v))
    if c.mc[c.act].journal.length = 1023 then c2.send (.pair (mcOf (other c.act)) .snapshotRequest) else c2
  else c1.onPair fun p => { p with gapWrites := true }

/-- A value enters the serving controller and the standby's mirror, with its journal entry (R344, R346). -/
def writeVal (k v : Nat) (c : Chip) : Chip := c.journalled Ctrl.journalPut k v
/-- A write whose effect is no stored value, a command, enters the journals (R344). -/
def writeNote (k v : Nat) (c : Chip) : Chip := c.journalled Ctrl.journalNote k v

/-- A controller's copy of calendar time is set (R468). -/
def calendarAt (i : Fin 2) (v : Nat) (c : Chip) : Chip := c.onNv i fun n => { n with calendar := v, calFrac := 0, calValid := true }

/-- An SPDM session ends (record 0x0220). -/
def endSpdm (p : Client → Bool) (c : Chip) : Chip :=
  let gone := c.sec.spdm.filter (fun x => p x.client && x.established)
  each gone (fun (x : SpdmConn) (d : Chip) => d.logAccess 0x0220 (srcOf x.client) (bytesLe 1 2 ++ bytesLe 1 (x.session.getD 0)) 0xF)
    (c.onSec fun s => { s with spdm := s.spdm.filter (fun x => !p x.client) })

/-- Transfers whose last segment has been acknowledged in a tick end their sessions; how many segments a tick carries is free (R445, log 22). -/
def usdoTick (c : Chip) : Chip :=
  if c.comm.sessions = [] then c
  else (c.onComm fun q => { q with sessions := q.sessions.filter (fun x => !bit (Config.freeByte (c.free + x.node.toNat)) 0) }) |> fun d => { d with free := d.free + 256 }

/-- An SPDM session without a heartbeat for twice the heartbeat period of 10 s ends (R477; the factor PRESUMED, DSP0274, log 14). -/
def spdmTick (c : Chip) : Chip :=
  let late := fun (x : SpdmConn) => x.established && decide (x.at' + secs 20 ≤ c.time)
  let gone := c.sec.spdm.filter late
  each gone (fun (x : SpdmConn) (d : Chip) => d.logAccess 0x0220 (srcOf x.client) (bytesLe 1 2 ++ bytesLe 1 (x.session.getD 0)) 0xF)
    (c.onSec fun s => { s with spdm := s.spdm.filter (fun x => !late x) })

/-- An open firmware update is aborted (record step 6 of R488). -/
def abortUpdate (c : Chip) : Chip :=
  match c.sec.update with
  | some u =>
    (c.onSec fun s => { s with update := none }).logConfig 0x0230 (srcOf u.agent) (bytesLe 1 6 ++ bytesLe 1 (u.comp.getD 0) ++ bytesLe 4 u.version) 0xF
  | none => c

/-- What the loss of the serving controller takes with it (R340, R345, R480): transfers, requests, sessions, roles, the open update, tests and captures;
PDO timers start again from zero (R447). -/
def dropSessions (reason : Nat) (c : Chip) : Chip :=
  let c1 := (((c.endRoles (fun _ => true) reason).endSpdm (fun _ => true)).abortUpdate).onComm fun m =>
    { m with sessions := [], tpdo := m.tpdo.map (fun t => { t with at' := c.time }), rpdoAt := m.rpdoAt.map (fun _ => c.time) }
  (c1.onSec fun s => { s with challenges := [] })

def stopTests (c : Chip) : Chip :=
  { c with mc := c.mc.map (fun m => { m with slots := m.slots.map abortTest }) }

/-- Control and the dictionary pass to controller i (R337, R340): with the pair link down it knows the alarm states of its own copy (R318, R344), and with writes of the
gap unknown to it the journal gap is marked (R346). -/
def passTo (i : Fin 2) (c : Chip) : Chip :=
  let gap := c.pair.gapWrites && c.pair.active ≠ i.val
  let c1 := (c.dropSessions 3).stopTests
  let c2 := c1.onPair fun p => { p with active := i.val, handover := none, gap := p.gap || gap, gapWrites := false }
  let c3 := (c2.onMc i fun m => { m with cap := { status := 0, skip := 0, recs := [] } }).onComm fun m =>
    { m with conds := if c.pair.link then m.conds else c.mc[i].alarms }
  if gap then c3.pairEvent 6 i else c3

/-- Dictionary service goes back to MC-A at the first moment with no transfer open, or 10 s after the boundary (R347). -/
def handBack (c : Chip) : Chip :=
  match c.pair.handover with
  | some t =>
    let idle := c.comm.sessions.isEmpty && (match c.sec.update with | some u => u.comp.isNone | none => true)
    if c.mc[(0 : Fin 2)].core = .running ∧ (idle ∨ t + secs 10 ≤ c.time) then c.passTo 0 else c
  | none => c

/-- MC-B has seen its copies applied by every receiver for three ticks and takes the active role (R337, R340). Where MC-A is silent after a
self-test its own event 0x01 stands. -/
def takeover (c : Chip) : Chip :=
  if c.pair.active = 0 ∧ c.mc[(1 : Fin 2)].core = .running ∧ c.mc[(1 : Fin 2)].sending then
    let c1 := (c.passTo 1).onPair fun p => { p with takeovers := satAdd 32 p.takeovers 1 }
    if c.mc[(0 : Fin 2)].core = .silent then c1 else c1.pairEvent 2 0
  else c

/-- A controller goes silent (R342, R343): nothing on its segment or the pair link; the third time within 24 operating hours locks it. -/
def silence (i : Fin 2) (c : Chip) : Chip :=
  let now := c.nv[i].seconds
  let times := now :: (c.mc[i].silentAt.filter (fun t => now - t < 86400))
  c.onMc i fun m => { m with core := .silent, sending := false, round := false, silentAt := times, lock := m.lock || decide (3 ≤ times.length) }

/-- Whether a controller has a persistent disagreement and no round within the last 10 s (R341). -/
def roundOpen (c : Chip) (i : Fin 2) : Bool :=
  let m := c.mc[i]
  m.core = .running && !m.round && (match m.roundEnd with | some t => decide (t + secs 10 ≤ c.time) | none => true)
def startRound (i : Fin 2) (c : Chip) : Chip := c.onMc i fun m => { m with round := true, disagree := false }

/-- A tick boundary after a persistent disagreement (R341): the controllers that have one start a round, with the link up both, which agree it over the link. -/
def selfTestRound (c : Chip) : Chip :=
  let due := (fins 2).filter (fun i => c.roundOpen i && c.mc[i].disagree)
  if due = [] then c
  else
    let who := if c.pair.link then (fins 2).filter (fun i => c.roundOpen i) else due
    let c1 := (each who (fun (i : Fin 2) (d : Chip) => d.startRound i) c).onPair fun p => { p with rounds := satAdd 32 p.rounds 1 }
    if c.pair.link then each due (fun (i : Fin 2) (d : Chip) => d.send (.pair (mcOf i) .round)) c1 else c1

/-- MC-B goes silent (R342): control it holds passes to a sending MC-A; without one no controller is active. -/
def silenceB (c : Chip) : Chip :=
  let c1 := (c.silence 1).pairEvent 1 1
  if c.pair.active = 1 ∨ c.pair.handover.isSome then
    (if c.mc[(0 : Fin 2)].core = .running ∧ c.mc[(0 : Fin 2)].sending then c1.passTo 0
     else c1.onPair fun p => { p with active := 0xFF, handover := none })
  else c1

/-- The outcome of a round (R342). A controller that takes no part in it, since it runs alone with the link down, counts as one that passes (DESIGN CHOICE, log 23). -/
def selfTestEnd (fa fb : BitVec 7) (c : Chip) : Chip :=
  let a := c.mc[(0 : Fin 2)].round
  let b := c.mc[(1 : Fin 2)].round
  if !a && !b then c
  else
    let failA := a && fa != 0
    let failB := b && fb != 0
    let old := c.pair.result.toNat
    let res := (if a then fa.toNat else old % 256) + 256 * (if b then fb.toNat else old / 256)
    let c0 : Chip := { c with mc := c.mc.map fun (m : Ctrl) => if m.round then { m with round := false, roundEnd := some c.time, disagree := false } else m }
    let c1 := c0.onPair fun p => { p with result := BitVec.ofNat 16 res }
    if !failA && !failB then (c1.onPair fun p => { p with alarm := true }).pairEvent 3 c.activeMc
    else if failA && !failB then (c1.silence 0).pairEvent 1 0
    else if !failA then c1.silenceB
    else ((((c1.dropSessions 4).silence 0).silence 1).pairEvent 1 0 |>.pairEvent 1 1).onPair fun p => { p with active := 0xFF, handover := none }

/-- The divergence alarm clears after 60 s without a persistent disagreement (R342). -/
def alarmClear (c : Chip) : Chip :=
  if c.pair.alarm && !c.mc.toList.any (fun m => m.disagree) then c.onPair fun p => { p with alarm := false } else c

/-- A controller that receives no status frame for three ticks stops sending and yields (R337). -/
def segmentFailed (i : Fin 2) (c : Chip) : Chip :=
  if c.mc[i].sending then
    let c1 := (c.onMc i fun m => { m with sending := false, segFail := true })
    let c2 := if c.pair.active = i.val ∧ c.mc[other i].sending then
      (c1.passTo (other i)).onPair fun p => { p with takeovers := if i = 0 then satAdd 32 p.takeovers 1 else p.takeovers } else c1
    c2.pairEvent 7 i
  else c

/-- The pair link goes down (R325): mirroring stops; an update's copy over it fails (R486). -/
def linkDown (c : Chip) : Chip :=
  if c.pair.link then
    let c1 := c.onPair fun p => { p with link := false }
    (({ c1 with mc := c1.mc.map (fun (m : Ctrl) => { m with inStep := false }) }).onSec fun s =>
      { s with update := s.update.map (fun (u : Update) => { u with dropped := u.dropped || decide (u.comp = some 1) }) }).pairEvent 4 c.activeMc
  else c

/-- The mirror a controller receives: values, journal, alarm states, slot states and generations, the stored image's serial, the calendar time (R344, R347, R458, R468).
Writes of a gap are known to it from then on (R346); a full journal starts anew at both (R344). -/
def snapshotTo (i : Fin 2) (c : Chip) : Chip :=
  let src := c.mc[other i]
  let journal := if src.journal.length < 1024 then src.journal else []
  let cal := c.nv[other i]
  ((c.onPair fun p => { p with gapWrites := false }).onMc (other i) fun m => { m with journal := journal }) |>.onNv i
      (fun n => { n with calendar := cal.calendar, calFrac := cal.calFrac, calValid := cal.calValid }) |>.onMc i fun m =>
    { m with val := src.val, kept := src.kept, journal := journal, jserial := src.jserial, alarms := c.comm.conds, inStep := true, lastHandle := src.lastHandle,
             slots := updAll m.slots (fun n s => { s with st := src.slots[n].st, gen := src.slots[n].gen, code := src.slots[n].code }),
             stored := if m.stored.serial < src.stored.serial then src.stored else m.stored,
             disp := { m.disp with setp := src.disp.setp, target := src.disp.target } }

def restartCode : RestartCause → Nat
  | .watchdog => 1
  | .silence => 2
  | .activation => 3
  | .rollback => 4

/-- What the retention RAM of a controller gives back: its values and modes, or where an erasure cleared it, the stored image with the writes made since (R318, R492). -/
def recalled (m : Ctrl) : Ctrl :=
  match m.kept with
  | none => m
  | some v => { m with val := v.foldl (fun a e => omSet e.1 e.2 a) m.stored.val, kept := none, slots := bootSlots m.stored, lastHandle := 0,
                       disp := { resetDispatch with valid := true, source := m.disp.source } }

/-- What a core restart loses (R345, R435): integrators and filters, STALE counts, test and capture, comparisons and a self-test, the digest received over the pair link;
retention RAM keeps values, modes, the journal, alarm states and the frame sequence counter (R318). -/
def coreLoses (m0 : Ctrl) : Ctrl :=
  let m := recalled m0
  { m with peerMeas := List.replicate 48 0, slots := m.slots.map (fun s => { abortTest s with seeded := false, toOwn := false, ig := 0, df := 0, ymPrev := 0, k := 0, lateNow := false }),
           cap := { status := 0, skip := 0, recs := [] }, posts := [], computing := false, ovhSeeded := false, tel := Vector.replicate 19 resetTel,
           cool := { m.cool with stale := Vector.replicate 28 0 }, disp := { m.disp with pulses := [], loopUa := [] }, runs := [], last32 := [], disagree := false,
           round := false, okTicks := 0, boundary := none, retryAt := 0 }

/-- A restarted controller resumes with RESYNC and HOLD frames, until ten ticks after a receiver has answered, from the newer of the two journals (R349). -/
def resume (i : Fin 2) (c : Chip) : Chip :=
  let o := c.mc[other i]
  c.onMc i fun m =>
    let newer := m.jserial < o.jserial ∧ o.core ≠ .off
    { m with core := .running, sending := true, segFail := false, resync := 0xF, hold := 10, okTicks := 0, boundary := none, val := if newer then o.val else m.val,
             journal := if newer then o.journal else m.journal, jserial := max m.jserial o.jserial }

/-- A core has restarted (R349), the other controller being as given: beside a sending one it rejoins, beginning with a snapshot (R347); with none sending it resumes, and so does a rejoiner whose
sending partner has gone. -/
def comeUp (i : Fin 2) (o : Ctrl) (c : Chip) : Chip :=
  if o.core = .running ∧ o.sending ∧ o.hold = 0 then
    let c1 := c.onMc i fun m => { m with core := .rejoining, sending := false, inStep := false, okTicks := 0, boundary := none, retryAt := 0 }
    if c.pair.link then c1.send (.pair (mcOf i) .snapshotRequest) else c1
  else
    let c1 := c.resume i
    let both := o.core = .rejoining
    (if both then c1.resume (other i) else c1).onPair fun p => { p with active := if p.active = 0xFF then (if both then 0 else i.val) else p.active }

/-- What a restart of the controller that serves the dictionary takes with it (R345, R480). -/
def serviceLost (i : Fin 2) (c : Chip) : Chip :=
  if c.pair.active = i.val then c.dropSessions 4
  else if i = 1 ∧ c.pair.handover.isSome then (c.dropSessions 4).onPair fun p => { p with handover := none } else c

/-- A silent controller without a lock restarts its core (R343, R349). -/
def silentRestart (i : Fin 2) (c : Chip) : Chip :=
  if c.mc[i].core = .silent ∧ !c.mc[i].lock then
    ((((c.serviceLost i).onMc i coreLoses).logAt i 1 0x0102 0 (bytesLe 1 2) 0xF)).comeUp i c.mc[other i]
  else c

/-- A core restart (R349): transfers, sessions, integrators and filters of the core are gone. A standby that restarts beside the sending active controller is absent
without a self-test cause (R39, R339). -/
def restartCore (i : Fin 2) (cause : RestartCause) (c : Chip) : Chip :=
  match c.mc[i].core with
  | .running | .stopped =>
    let o := other i
    let c1 := (((c.serviceLost i).onMc i coreLoses).logAt i 1 0x0102 0 (bytesLe 1 (restartCode cause)) 0xF).comeUp i c.mc[o]
    if c.pair.active = o.val ∧ c1.mc[i].core = .rejoining then c1.pairEvent 2 i else c1
  | .silent => if cause = .silence then c.silentRestart i else c
  | _ => c

/-- The boundary a rejoiner agrees: the first SEQ that is a multiple of 1,000 and at least 1,000 ticks after the given one (R347). -/
def boundaryAfter (seq : W32) : W32 :=
  let n := (seq.toNat + 1999) / 1000 * 1000
  -- SEQ wraps at 2 ^ 32, which is no multiple of 1,000: the multiples go on at 0
  if n < 2 ^ 32 then BitVec.ofNat 32 n else if seq.toNat + 1000 ≤ 2 ^ 32 then 0 else 1000

/-- Whether a rejoiner is at its boundary (R347): the pair link up, its mirror in step, the boundary agreed by both controllers and reached by the one that sends. -/
def mayRejoin (c : Chip) (i : Fin 2) : Bool :=
  let m := c.mc[i]
  let o := c.mc[other i]
  m.core = .rejoining && !m.lock && c.pair.link && m.inStep && m.boundary.isSome && m.boundary == o.boundary && m.boundary == some o.seq

/-- A rejoiner reaches the boundary and sends in its slot (R347): event 0x05; with MC-A control returns to it, a switch-back, and the dictionary's service
once no transfer is open. -/
def rejoin (i : Fin 2) (c : Chip) : Chip :=
  if c.mayRejoin i then
    let c1 := (c.onMc i fun m =>
      { m with core := .running, sending := true, segFail := false, resync := 0, hold := 0, seq := c.mc[other i].seq, boundary := none, okTicks := 0 }).onMc (other i) fun m =>
      { m with boundary := none }
    let c3 := if i = 0 ∧ c.pair.active = 1 then
        (c1.onPair fun p => { p with active := 0, handover := some c.time, switchbacks := satAdd 32 p.switchbacks 1 }).handBack
      else if c.pair.active = 0xFF then c1.onPair fun p => { p with active := i.val } else c1
    c3.pairEvent 5 i
  else c

/-- Whether a core may stop (R319): Standby or Tripped, no transfer open, no producer heartbeat within 100 ms. -/
def mayStop (c : Chip) (i : Fin 2) : Bool :=
  let hb := c.val (okey 0x1017 0)
  c.mc[i].core = .running && (c.mod.st = .standby || c.mod.st = .tripped) && c.comm.sessions.isEmpty &&
    c.mod.opening = .idle && (hb = 0 || 100 < hb)
def coreStop (i : Fin 2) (c : Chip) : Chip :=
  if c.mayStop i then c.onMc i fun m => { m with core := .stopped, sending := false } else c

/-- The silence lock released by a write of 4801.03 (R343, R351). -/
def releaseLock (v : Nat) (c : Chip) : Chip :=
  let rel := fun (m : Ctrl) => { m with lock := false }
  let c1 := if v = 1 ∨ v = 3 then c.onMc 0 rel else c
  if v = 2 ∨ v = 3 then c1.onMc 1 rel else c1

/-- The standby's hourly image check (R348): a failure counts as a self-test failure of the standby. -/
def imageCheck (ok : Bool) (c : Chip) : Chip :=
  let i := other c.act
  if !ok && c.served && c.pair.handover.isNone && c.mc[i].core = .running then
    ((c.onPair fun p => { p with result := BitVec.ofNat 16 (p.result.toNat ||| 2 ^ (5 + 8 * i.val)) }).silence i).pairEvent 1 i
  else c

/-! ### Comparison of outputs (R332, R334) -/

/-- Persistence of a disagreement (R334): the same field in 8 consecutive comparisons, or any in 16 of the last 32. `runs` counts per field. -/
def persist (fields : List Nat) (runs : List (Nat × Nat)) (last : List Bool) : List (Nat × Nat) × List Bool × Bool :=
  let runs' := fields.map (fun f => (f, ((runs.lookup f).getD 0) + 1))
  let last' := ((!fields.isEmpty) :: last).take 32
  (runs', last', runs'.any (fun r => 8 ≤ r.2) || decide (16 ≤ (last'.filter id).length))

def noteDisagree (i : Fin 2) (on : Bool) (c : Chip) : Chip :=
  if on then c.onMc i fun m => { m with disagree := true } else c

/-- While the divergence alarm stands, fields that disagree are logged (R342, log 23): `base` names the receiver or the exchange of the controllers. -/
def logDisagree (i : Fin 2) (base : Nat) (fields : List Nat) (c : Chip) : Chip :=
  if c.pair.alarm then each fields (fun (f : Nat) (d : Chip) => d.logUnlisted i 1 (base + f)) c else c

def far (a b tol : Nat) : Bool := decide (tol < max a b - min a b)

/-- The fields of two payloads of a kind that are out of tolerance, lowest first (R332). -/
def mismatches (kind : Nat) (a b : Bytes) (sa sb : Nat) : List Nat :=
  let u8 := fun (p : Bytes) i => fieldLe p i 1
  let u16 := fun (p : Bytes) i => fieldLe p i 2
  let l : List (Nat × Bool) :=
    if kind = 1 then
      (0, far (u16 a 0) (u16 b 0) 80) ::
        (List.range 16).map (fun s => (1 + s, far (u16 a (4 + 4 * s)) (u16 b (4 + 4 * s)) 16 || far (u8 a (6 + 4 * s)) (u8 b (6 + 4 * s)) 1))
    else if kind = 4 then [(0, u8 a 0 != u8 b 0), (1, far (u16 a 2) (u16 b 2) 5), (2, u16 a 4 != u16 b 4)]
    else if kind = 2 then
      (List.range 10).map (fun c => (c, u8 a (4 * c) != u8 b (4 * c) || far (u8 a (4 * c + 1)) (u8 b (4 * c + 1)) 4 || u8 a (4 * c + 2) != u8 b (4 * c + 2))) ++
        [(10, u16 a 40 != u16 b 40)]
    else (List.range 2).map (fun k => (k, far (u16 a (4 * k)) (u16 b (4 * k)) 30 || u8 a (4 * k + 2) != u8 b (4 * k + 2)))
  let fs := (l.filter (fun x => x.2)).map (fun x => x.1)
  if sa ≠ sb ∧ fs = [] then [0] else fs

/-- Payloads of the four control frames (R328). -/
def supPayload (o : Outputs) (ev : W16) : Bytes :=
  bytesLe 2 o.pkgCeil ++ wordBytes ev ++
    (List.range 16).flatMap (fun s => bytesLe 2 (o.skCeil.toList.getD s 0) ++ bytesLe 1 (o.clk.toList.getD s 8) ++ bytesLe 1 0)
def powerPayload (o : Outputs) (ack : W16) : Bytes :=
  bytesLe 1 o.rails.toNat ++ [0] ++ bytesLe 2 o.iLim ++ wordBytes ack ++ List.replicate 10 0
def adPayload (o : Outputs) (ack : W16) : Bytes :=
  (o.ch.toList.flatMap (fun x => bytesLe 1 x.1 ++ bytesLe 1 x.2.1 ++ bytesLe 1 x.2.2 ++ [0])) ++ wordBytes ack ++ [0, 0]
def blowPayload (o : Outputs) (restart : Vector Nat 2) : Bytes :=
  (List.range 2).flatMap (fun b => bytesLe 2 (o.blow.toList.getD b 0) ++ bytesLe 1 (restart.toList.getD b 0) ++ [0])

/-- The frame sequence counter and outputs of a controller as a tick message carries them (R325, R344). -/
def tickMsg (i : Fin 2) (c : Chip) : PairMsg :=
  let o := c.mc[i].out
  .tick c.mc[i].seq (supPayload o c.pair.hostEvent) (powerPayload o c.pair.tripAck) (adPayload o c.pair.tripAck) (blowPayload o c.pair.restart)

/-- The fields of a peer's tick message that disagree with a controller's own outputs, keyed by frame kind and field index (R332, R334). -/
def tickFields (i : Fin 2) (sup power ad blow : Bytes) (c : Chip) : List Nat :=
  match c.tickMsg i with
  | .tick _ s p a b =>
    let key := fun (kind : Nat) (l : List Nat) => l.map (fun (f : Nat) => 64 * kind + f)
    key 1 (mismatches 1 s sup 0 0) ++ key 4 (mismatches 4 p power 0 0) ++ key 2 (mismatches 2 a ad 0 0) ++ key 3 (mismatches 3 b blow 0 0)
  | _ => []

/-- A rejoiner's comparison over the pair link (R347 steps 3 and 4): after 1,000 ticks in a row within tolerance, with the mirror in step, it agrees the boundary. -/
def rejoinTick (i : Fin 2) (ok : Bool) (c : Chip) : Chip :=
  let m := c.mc[i]
  if m.core = .rejoining ∧ m.boundary = none ∧ m.retryAt ≤ c.time then
    let n := if ok && m.inStep then m.okTicks + 1 else 0
    if 1000 ≤ n then
      let b := boundaryAfter c.mc[other i].seq
      (c.onMc i fun x => { x with okTicks := n, boundary := some b }).send (.pair (mcOf i) (.boundary b))
    else c.onMc i fun x => { x with okTicks := n }
  else c

/-- The firmware version a controller runs (R462, R486): the running bank's, or the one it was delivered with. -/
def fwVersion (c : Chip) (i : Fin 2) : Nat :=
  let n := c.nv[i]
  let v := if n.bankB then n.fw[(1 : Fin 2)] else n.fw[(0 : Fin 2)]
  if v = 0 then (Config.firmware i.val).toNat else v
/-- The digest of the firmware in a controller's running bank (R478). -/
def runningDigest (c : Chip) (i : Fin 2) : Bytes := wordBytes (Config.measurement (i.val + 1) (c.fwVersion i))

/-- A tick message reaches controller `i` (R325, R334, R344, R346, R349): the link is up once both have heard each other; a standby that finds it up again asks for a
snapshot; the sender's firmware digest comes with it (R478); MC-B aligns to MC-A while it sends RESYNC frames, and no frame is a RESYNC frame once either controller's frames of its kind have been answered (DEDUCED, log 51). -/
def tickIn (i : Fin 2) (seq : W32) (sup power ad blow : Bytes) (c : Chip) : Chip :=
  let at' := vput c.pair.linkAt i c.time
  let live := fun (k : Fin 2) => c.mc[k].core = .running ∨ c.mc[k].core = .rejoining
  let up := c.pair.link || (decide (live 0) && decide (live 1) && decide (c.time - at'[other i] ≤ 3) && decide (0 < at'[other i]))
  let fs := c.tickFields i sup power ad blow
  let (runs, last, bad) := persist fs c.mc[i].runs c.mc[i].last32
  let peer := c.mc[other i]
  let answered := if peer.core = .running ∧ peer.sending then peer.resync else 0xF
  let c1 := ((c.onPair fun p => { p with linkAt := at', link := up }).onMc i fun m =>
    { m with runs := runs, last32 := last, mirSeq := seq, peerMeas := c.runningDigest (other i), seq := if i = 1 ∧ m.resync ≠ 0 then seq + 1 else m.seq, resync := m.resync &&& answered }).noteDisagree i bad
  let c2 := ((c1.logDisagree i 0 fs).rejoinTick i fs.isEmpty)
  if up && !c.pair.link then c2.send (.pair (mcOf (other c.act)) .snapshotRequest) else c2

/-- A message on the pair link reaches controller `i` (R325, R334, R341, R344, R347, R458). -/
def pairMsg (i : Fin 2) (m : PairMsg) (c : Chip) : Chip :=
  let on := c.mc[i].core = .running ∨ c.mc[i].core = .rejoining
  if ¬ on then c
  else match m with
    | .tick seq sup power ad blow => c.tickIn i seq sup power ad blow
    | .journal ser k v =>
      if i ≠ c.act ∧ c.mc[i].jserial < ser then
        let c1 := c.onMc i fun x => if storesValue (k / 256) (k % 256) then x.journalPut ser k v else x.journalNote ser k v
        let c1 := if k = okey 0x5040 1 then c1.calendarAt i v else c1
        if c.mc[i].journal.length = 1023 then c1.send (.pair (mcOf i) .snapshotRequest) else c1
      else c
    | .snapshotRequest => if i = c.act then c.send (.pair (mcOf i) .snapshot) else c
    | .snapshot => if i ≠ c.act then c.snapshotTo i else c
    | .storeOrder _ => if i ≠ c.act then c.onMc i fun x => { x with stored := c.mc[other i].stored, journal := [] } else c
    | .round => if c.roundOpen i then c.startRound i else c
    | .boundary b => if c.mc[other i].core = .rejoining then c.onMc i fun x => { x with boundary := some b } else c

/-- Object 4800.01 (R351). -/
def pairStatus (c : Chip) : Nat :=
  let p := c.pair
  let a := c.mc[(0 : Fin 2)]
  let b := c.mc[(1 : Fin 2)]
  b2n a.sending + 2 * b2n b.sending + 4 * b2n p.link + 8 * b2n (p.link && c.mc[other c.act].inStep) + 16 * b2n c.mc[c.act].round + 32 * b2n p.alarm +
    64 * b2n p.gap + 128 * b2n a.lock + 256 * b2n b.lock + 512 * b2n a.segFail + 1024 * b2n b.segFail

/-- The dictionary of a controller is ready (R32, R440, R447): the first one takes the module to Standby with the boot-up message; areas loaded from the
factory are reported (R460), and logbook areas that failed their check (R474). -/
def dictReady (i : Fin 2) (c : Chip) : Chip :=
  if c.mc[i].core ≠ .starting then c
  else
    let c1 := c.onMc i fun m => { m with core := .running, sending := true, resync := 0xF, inStep := c.mc[other i].core == .running,
                                         disp := { m.disp with valid := true, source := omGet c.comm.nodeId (okey 0x4010 1) m.val } }
    let c2 := c1.onPair fun p => { p with active := if i = 0 ∨ p.active = 0xFF then i.val else p.active,
                                          link := c.mc[other i].core == .running, linkAt := Vector.replicate 2 c.time }
    let first := decide (c.mc[other i].core = .starting ∨ c.mc[other i].core = .off)
    if !first then c2
    else
      let boot := fun (d : Chip) =>
        (d.send (.can (0x700 + d.comm.nodeId) [0])).onComm fun m => { m with nmt := if d.val (okey 0x2010 6) = 1 then 5 else 127 }
      let areas := (List.range 11).filter (fun a => nbit c.comm.areasFactory a)
      let report := fun (d : Chip) => each ((fins 2).filter (fun k => d.nv[k].log.failed)) (fun (k : Fin 2) (e : Chip) => e.emcyEvent 0xFF60 k.val 4 0)
        (each areas (fun (a : Nat) (e : Chip) => e.emcyEvent 0x6310 a 0 0) (d.reportNodeId d.pins.pos))
      if c.mod.st = .aux then
        report ((boot (c2.readGasp.setState .standby)).onMod fun m => { m with autoDone := false })
      else if c.mod.st = .tripped then report (boot c2)
      else report c2

end Chip
end Sys2Proof.Machine
end

