-- ==== Sys2Proof/Machine/HostOps.lean ====
section
/-!
DEFINITION. The host interface's objects: handles, queues and rings, the checks of a command, DMA to host memory, completions and interrupts,
the ends of queues and regions (R190 to R206, R211, R216).
-/
namespace Sys2Proof.Machine

/-- The FENCE bit. -/
def Cmd.fence (x : Cmd) : Bool := bit x.entry 8

/-- A handle of a slot (R190). -/
def handleOf (slot gen : Nat) : Nat := gen * 2 ^ 18 + slot

/-- The parameter bits an opcode defines, as byte offset and bit count; the others are reserved (R200, R208, R217, R241, R309). `none` for an
opcode that is not defined for the kind of queue. -/
def paramBits (admin : Bool) (op : Nat) : Option (List (Nat × Nat)) :=
  if admin then
    match op with
    | 0x01 => some [(8, 32), (16, 64)]
    | 0x02 => some [(8, 32), (12, 32), (16, 64), (24, 64), (32, 8), (33, 8), (34, 16), (36, 16), (38, 16), (40, 2)]
    | 0x03 => some [(8, 32)]
    | 0x04 => some [(8, 64), (16, 64), (24, 2)]
    | 0x05 => some [(8, 32)]
    | 0x06 => some [(8, 32), (16, 64), (24, 64)]
    | 0x07 => some [(8, 32)]
    | 0x08 => some [(8, 32)]
    | 0x09 => some [(8, 8)]
    | 0x0A => some [(8, 32), (12, 32)]
    | 0x0B => some []
    | _ => none
  else
    match op with
    | 0x20 => some []
    | 0x21 => some [(8, 32), (12, 1), (16, 64), (24, 64), (32, 64)]
    | 0x22 => some [(8, 32), (16, 256), (48, 32)]
    | 0x40 => some [(8, 64), (16, 4)]
    | 0x41 => some [(8, 32)]
    | 0x42 => some [(8, 64)]
    | 0x43 => some [(8, 32)]
    | 0x44 => some [(8, 160)]
    | 0x45 => some [(8, 64), (16, 64), (24, 8)]
    | 0x46 => some [(8, 64), (16, 64)]
    | 0x47 => some [(8, 64)]
    | 0x48 => some [(8, 192)]
    | 0x49 => some [(8, 32), (16, 64), (24, 32), (28, 8), (29, 8), (30, 8)]
    | 0x4A => some [(8, 32), (16, 64), (24, 32), (28, 8), (29, 8), (30, 8)]
    | 0x80 => some [(8, 64), (16, 64), (24, 64), (32, 1), (33, 8)]
    | 0x81 => some [(8, 8), (9, 8), (12, 32)]
    | 0x82 => some [(8, 32), (16, 64)]
    | 0x83 => some [(8, 32)]
    | _ => none

/-- Checks 1 and 2 of R202: the status, 0 where both pass. -/
def firstChecks (admin : Bool) (e : BitVec 512) : Nat :=
  match paramBits admin (fld e 0 8) with
  | none => 1
  | some l =>
    let used := ([(0, 8), (1, 1), (4, 32)] ++ l).foldl (fun (a : Nat) (p : Nat × Nat) => a ||| ((2 ^ p.2 - 1) <<< (8 * p.1))) 0
    if e.toNat ||| used = used then 0 else 2

/-- Whether a region grants a range for reading or writing by the module. -/
def Region.holds (r : Region) (off n : Nat) (write : Bool) : Bool := (if write then r.wr else r.rd) && decide (off + n ≤ r.len)

namespace Chip

/-! ### Handles (R190, R191, R202 checks 3 and 4) -/

def queue? (c : Chip) (slot : Nat) : Option Queue := c.hif.queues.find? (fun q => q.slot == slot)
def onQueue (slot : Nat) (f : Queue → Queue) (c : Chip) : Chip :=
  c.onHif fun h => { h with queues := h.queues.map (fun q => if q.slot == slot then f q else q) }
def region? (c : Chip) (slot : Nat) : Option Region := c.hif.regions.find? (fun r => r.slot == slot)

/-- The object a handle names: the error is the status of checks 3 and 4. -/
def queueOf (c : Chip) (p : Fin 2) (h : Nat) : Except Nat Queue :=
  match c.queue? (h % 2 ^ 18) with
  | some q => if spGet 1 q.slot c.hif.qgen = h / 2 ^ 18 then (if q.port = p then .ok q else .error 4) else .error 3
  | none => .error 3
def regionLive (c : Chip) (h : Nat) : Option Region :=
  match c.region? (h % 2 ^ 18) with
  | some r => if spGet 1 r.slot c.hif.rgen = h / 2 ^ 18 then some r else none
  | none => none
def regionAt (c : Chip) (p : Fin 2) (h : Nat) : Except Nat Region :=
  match c.regionLive h with
  | some r => if r.port = p then .ok r else .error 4
  | none => .error 3
def seqAt (c : Chip) (h : Nat) : Except Nat (Fin 128) :=
  if hs : h % 2 ^ 18 < 128 then
    let q := c.seq[(⟨h % 2 ^ 18, hs⟩ : Fin 128)]
    if q.st ≠ .free ∧ q.gen = h / 2 ^ 18 then .ok ⟨h % 2 ^ 18, hs⟩ else .error 3
  else .error 3

/-- The lowest number not in a list. -/
def lowestFree (l : List Nat) : Nat := ((List.range (l.length + 1)).find? (fun k => !l.contains k)).getD l.length

/-! ### Commands in progress (R200 to R204) -/

/-- Earlier commands of the same queue. -/
def earlier (c : Chip) (x : Cmd) : List Cmd :=
  c.hif.cmds.filter (fun y => decide (y.id < x.id) && decide (y.q = x.q) && y.detached == x.detached)

/-- Whether a RUN_PLAN waits in its plan's queue: it has not started (R211, R214). -/
def inPlanQueue (c : Chip) (id : Nat) : Bool := c.hif.plans.toList.any (fun p => p.queue.contains id)

/-- LOAD_PLAN commands fetched earlier, on either port, that have not started: loads are checked in the order fetched (R230). -/
def loadsBefore (c : Chip) (x : Cmd) : Bool :=
  c.hif.cmds.any (fun y => (match y.q with | .admin _ => true | .io _ => false) && y.op == 6 && decide (y.id < x.id) && !y.started && y.ended.isNone)

/-- Whether a fetched command can start: those before it have, and one with FENCE waits for their completions (R200, R203); LOAD_PLANs keep the order in which
they were fetched (R230). -/
def canStart (c : Chip) (x : Cmd) : Bool :=
  !x.started && x.ended.isNone && (c.earlier x).all (fun y => y.started && !c.inPlanQueue y.id && !x.fence) &&
    !((match x.q with | .admin _ => true | .io _ => false) && x.op == 6 && c.loadsBefore x)

/-- The command of an opcode that can start now under an id (log 12). -/
def take (c : Chip) (op id : Nat) : Option Cmd :=
  match c.cmd? id with
  | some x => if x.op = op ∧ c.canStart x then some x else none
  | none => none

/-- A command's own check of its parameters decides: it fails with a status, or has its effect. -/
def run (x : Cmd) (r : Except Nat (Chip → Chip)) (c : Chip) : Chip :=
  match r with
  | .error st => c.endCmd x.id st 0
  | .ok f => f (c.startCmd x.id)

/-- Commands leave the queues of their plans. -/
def dropPlanQueue (ids : List Nat) (c : Chip) : Chip :=
  c.onHif fun h => { h with plans := h.plans.map (fun p => { p with queue := p.queue.filter (fun i => !ids.contains i) }) }

/-! ### DMA (R216, R218, R233) -/

/-- A write towards host memory; dropped while the port does not carry traffic (R186, R233). -/
def dmaOut (p : Fin 2) (addr : Nat) (data : Bytes) (poisoned : Bool) (c : Chip) : Chip :=
  if c.portUp p then c.send (.dmaWrite p addr data poisoned) else c
/-- A read of host memory. -/
def dmaIn (p : Fin 2) (addr n : Nat) (c : Chip) : Chip := if c.portUp p then c.send (.dmaRead p addr n) else c
/-- A DMA met an error of the host (R234). -/
def dmaError (p : Fin 2) (c : Chip) : Chip := (c.hifErr 4).hifCount (if p = 0 then 4 else 5)

/-! ### Rings, completions, interrupts (R194, R195, R198, R201, R206) -/

/-- The ring pair of a queue. -/
def ringOf (c : Chip) (q : QRef) : Option Ring :=
  match q with
  | .admin p => some c.hif.port[p].aq.ring
  | .io s => (c.queue? s.toNat).map (·.ring)
def onRing (q : QRef) (f : Ring → Ring) (c : Chip) : Chip :=
  match q with
  | .admin p => c.onPort p fun x => { x with aq := { x.aq with ring := f x.aq.ring } }
  | .io s => c.onQueue s.toNat fun x => { x with ring := f x.ring }
/-- The port of a queue. -/
def portOf (c : Chip) (q : QRef) : Option (Fin 2) :=
  match q with
  | .admin p => some p
  | .io s => (c.queue? s.toNat).map (·.port)
/-- Whether a queue is served: fetched from, and its completions written (R199, R211). -/
def servedQ (c : Chip) (q : QRef) : Bool :=
  match q with
  | .admin p => c.hif.port[p].aq.ready && c.hif.port[p].aq.enable
  | .io s => match c.queue? s.toNat with | some x => decide (x.st = .active) | none => false

/-- The MSI-X message of a vector, or its pending bit while the vector or the function is masked (R206). An entry nobody wrote is masked, and MSI-X is disabled
until the host enables it, as PCIe resets them. -/
def msiX (p : Fin 2) (v : Nat) (c : Chip) : Chip :=
  if pciId.vectors ≤ v ∨ !c.hif.port[p].fn.msixOn then c
  else if c.hif.port[p].fn.msixMask || bit (spGet (BitVec.ofNat 128 (2 ^ 96)) v c.hif.port[p].msix) 96 then c.onPort p fun x => { x with pba := insertNat v x.pba }
  else if c.portUp p then c.send (.msix p v) else c

/-- The interrupt of a completion ring: its unsignalled entries are signalled (R206). -/
def signalRing (q : QRef) (c : Chip) : Chip :=
  match c.portOf q, c.ringOf q with
  | some p, some r => (c.onRing q fun x => { x with unsig := 0 }).msiX p r.vector
  | _, _ => c

/-- The completion entry of a command (R201). -/
def cqEntry (x : Cmd) (status result : Nat) (phase : Bool) : Bytes :=
  bytesLe 4 x.tag ++ bytesLe 4 result ++ bytesLe 2 x.sqHead ++ bytesLe 2 0 ++ bytesLe 2 status ++ bytesLe 1 (b2n phase) ++ bytesLe 1 0

/-- The completion of an ended command is written, unless its ring is full, its queue not served, or a write of it to module memory still held (R147, R198, R199,
R201, R203, R206). -/
def complete (id : Nat) (c : Chip) : Chip :=
  match c.cmd? id with
  | none => c
  | some x =>
    match x.ended, c.ringOf x.q with
    | some e, some r =>
      if x.detached ∨ !c.servedQ x.q ∨ !c.portUp x.port ∨ (r.cqTail + 1) % r.m = r.cqHead ∨ c.held.any (fun h => decide (h.who = .copy id)) then c
      else
        let c1 := c.dmaOut x.port (r.cqBase + 16 * r.cqTail) (cqEntry x e.1 e.2 r.phase) false
        let c2 := c1.onHif fun h => { h with cmds := h.cmds.filter (fun y => y.id != id) }
        let last := decide (r.cqTail + 1 = r.m)
        let c3 := c2.onRing x.q fun y => { y with cqTail := (y.cqTail + 1) % y.m, phase := if last then !y.phase else y.phase, unsig := y.unsig + 1 }
        let due := decide (e.1 ≠ 0) || decide (r.cnt = 0) || decide (r.tim = 0) || decide (r.cnt ≤ r.unsig + 1) ||
          (match x.q with | .admin _ => true | .io _ => false)
        if due then c3.signalRing x.q else c3
    | _, _ => c

/-- A submission tail or completion head (R196, R197, R234): ignored and counted unless the queue is served, the port its own, the index below
the depth. -/
def doorbell (hp : Fin 2) (q : QRef) (sq : Bool) (v : W32) (c : Chip) : Chip :=
  let ignored := (c.hifErr 2).hifCount 2
  let idx := fld v 0 16
  let genOk := match q with
    | .admin _ => true
    | .io s => decide (fld v 18 14 = spGet 1 s.toNat c.hif.qgen)
  if !c.portUp hp then c
  else match q, c.portOf q, c.ringOf q with
    | .admin p, _, some r =>
      if p ≠ hp then c.hifRefused
      else if c.servedQ q && decide (idx < (if sq then r.n else r.m)) then c.onRing q fun x => if sq then { x with sqTail := idx } else { x with cqHead := idx }
      else ignored
    | .io _, some p, some r =>
      if c.servedQ q && genOk && decide (p = hp) && decide (idx < (if sq then r.n else r.m)) then
        c.onRing q fun x => if sq then { x with sqTail := idx } else { x with cqHead := idx }
      else ignored
    | _, _, _ => ignored

/-! ### The ends of queues (R199, R211, R269) -/

/-- A sequence that lost its queue or port: its GENERATE writes no completion, and it is Idle at its next step boundary (R269). -/
def loosen (s : Fin 128) (c : Chip) : Chip := (c.onSeq s fun q => { q with loose := true }).boundary s

/-- The commands of a queue are cut loose from it (R211): ended ones go, started COPYs stop at their next 4 KiB boundary, COPYs that have moved nothing because
they have not started and RUN_PLANs that have not started are removed, GENERATEs end at a step boundary, the rest go on without a completion. -/
def cutQueue (q : QRef) (c : Chip) : Chip :=
  let mine := c.hif.cmds.filter (fun x => decide (x.q = q) && !x.detached)
  let gone := mine.filter (fun x => x.ended.isSome || (x.op == 0x21 && !x.started) || (x.op == 0x22 && (!x.started || c.inPlanQueue x.id)) || x.op == 0x0B)
  let ids := gone.map (fun (x : Cmd) => x.id)
  let c1 := (c.onHif fun h =>
    { h with cmds := (h.cmds.filter (fun x => !ids.contains x.id)).map (fun x => if decide (x.q = q) then { x with detached := true } else x) }).dropPlanQueue ids
  let left := mine.map (fun (x : Cmd) => x.id)
  let c2 := each (mine.filter (fun (x : Cmd) => x.op == 0x21 && x.started)) (fun (x : Cmd) (d : Chip) => d.stopCopy x.id) c1
  each (fins 128) (fun (s : Fin 128) (d : Chip) =>
    match d.seq[s].cmd with
    | some id => if d.seq[s].st = .generating ∧ left.contains id then d.loosen s else d
    | none => d) c2

/-- The sequences of a queue that are still in a step when its 100 ms end are Idle as of their last commit (R211, R269). -/
def dropLoose (p : Seq → Bool) (c : Chip) : Chip :=
  each (fins 128) (fun (s : Fin 128) (d : Chip) => if d.seq[s].loose && p d.seq[s] then d.dropGen s else d) c

/-- An I/O queue's slot is Free and its generation advances (R199). -/
def freeQueue (slot : Nat) (c : Chip) : Chip :=
  c.onHif fun h => { h with queues := h.queues.filter (fun q => q.slot != slot), qgen := spSet 1 slot (nextGen (spGet 1 slot h.qgen)) h.qgen }

/-- DESTROY_QUEUE is accepted (R211). -/
def destroyQueue (id slot : Nat) (c : Chip) : Chip :=
  (c.onQueue slot fun q => { q with st := .destroying, destroyer := some id }).cutQueue (.io (BitVec.ofNat 18 slot))

/-- A destroyed queue is Free: its admin completion can be written; a disabled admin queue falls out of READY (R199, R211, R234). -/
def queueFreed (q : QRef) (c : Chip) : Chip :=
  match q with
  | .admin p =>
    if c.hif.port[p].aq.closing then
      let ids := (c.hif.cmds.filter (fun x => decide (x.q = q))).map (fun (x : Cmd) => x.id)
      (c.onPort p fun x => { x with aq := { x.aq with closing := false, ready := false } }).dropLoose
        (fun s => match s.cmd with | some i => ids.contains i | none => false)
    else c
  | .io s =>
    match c.queue? s.toNat with
    | some x =>
      match x.st with
      | .destroying =>
        let ids := (c.hif.cmds.filter (fun y => decide (y.q = q) && y.detached)).map (fun (y : Cmd) => y.id)
        let c1 := (c.dropLoose (fun s => match s.cmd with | some i => ids.contains i | none => false)).freeQueue s.toNat
        match x.destroyer with
        | some id => c1.endCmd id 0 0
        | none => c1
      | _ => c
    | none => c

/-- A ring access returned an error of the host: the queue stops (R199, R215). The spec names no port for the class 4 event: it goes to the queue's own port, not to
one that log 21 leaves free (DESIGN CHOICE, log 53). -/
def queueStop (q : QRef) (c : Chip) : Chip :=
  if !c.servedQ q then c
  else match q with
    | .admin p =>
      ((c.onPort p fun x => { x with aq := { x.aq with ready := false } }).dmaError p).postEvent p (eventWord 4 0x40 p.val 9)
    | .io s =>
      match c.queue? s.toNat with
      | some x => ((c.onQueue x.slot fun y => { y with st := .stopped }).dmaError x.port).postEvent x.port (eventWord 4 (x.slot / 4096) (x.slot % 4096) 9)
      | none => c

/-! ### The admin queue's registers (R234) -/

/-- A write of HIF_AQ_CFG. The spec does not say whether a write that sets ENABLE again waits for the end of R211 that clearing it began: the new queue is enabled at
once and that end is dropped (DESIGN CHOICE, log 53). -/
def aqCfg (p : Fin 2) (v : W32) (c : Chip) : Chip :=
  let a := c.hif.port[p].aq
  if a.enable then
    if bit v 31 then c
    else
      let c1 := (c.onPort p fun x => { x with aq := { x.aq with enable := false, closing := true }, evReq := [] }).cutQueue (.admin p)
      if a.ready then c1 else c1.onPort p fun x => { x with aq := { x.aq with closing := false } }
  else
    let b := { a with cqLog := fld v 20 4, sqLog := fld v 16 4, vector := fld v 0 11 }
    let ok := 4 ≤ b.sqLog && b.sqLog ≤ 12 && 4 ≤ b.cqLog && b.cqLog ≤ 12
    if bit v 31 && ok then
      c.onPort p fun x => { x with aq := { b with
        enable := true, ready := true, closing := false,
        ring := { sqBase := a.asq.toNat, cqBase := a.acq.toNat, n := 2 ^ b.sqLog, m := 2 ^ b.cqLog, sqHead := 0, sqTail := 0, cqHead := 0, cqTail := 0,
                  phase := true, vector := b.vector, cnt := 0, tim := 0, unsig := 0 } } }
    else c.onPort p fun x => { x with aq := b }

end Chip
end Sys2Proof.Machine
end

