-- ==== Sys2Proof/Machine/Flags.lean ====
section
/-!
DEFINITION. The numeric conditions of R73, exact values, the one rounding of R62 and the FP32 operations of the vector and special-function
units (R57, R62, R128, R131).
-/
namespace Sys2Proof.Machine

/-- Numeric conditions in the bit positions of SKR_T_FLAGS (R73, R103). -/
abbrev Cond6 := BitVec 6
def cIV : Cond6 := 1
def cNI : Cond6 := 2
def cOF : Cond6 := 4
def cUF : Cond6 := 8
def cNX : Cond6 := 16
def cSAT : Cond6 := 32

/-- A condition under a test. -/
def when (b : Bool) (c : Cond6) : Cond6 := if b then c else 0

/-- An exact value: not-a-number, an infinity, or ± m × 2^e; the sign of zero counts (R57). -/
inductive Num where
  | nan
  | inf (neg : Bool)
  | fin (neg : Bool) (m : Nat) (e : Int)
deriving DecidableEq, Repr

def Num.isNan : Num → Bool
  | .nan => true
  | _ => false
def Num.isFin : Num → Bool
  | .fin .. => true
  | _ => false

/-- The code of a positive magnitude num/den × 2^e in a format of `mb` fraction bits and a bias, rounded to nearest even with the exponent
range unbounded above, and whether the rounding is inexact (R62, R70, R72). Code bits: exponent field above fraction. -/
def fpRound (mb bias num den : Nat) (e : Int) : Nat × Bool :=
  if num = 0 then (0, false)
  else
    let l0 : Int := (num.log2 : Int) - (den.log2 : Int)
    let small : Bool := if 0 ≤ l0 then num < den * 2 ^ l0.toNat else num * 2 ^ (-l0).toNat < den
    let top : Int := (if small then l0 - 1 else l0) + e
    let qmin : Int := 1 - (bias : Int) - (mb : Int)
    let q : Int := max (top - (mb : Int)) qmin
    let sh : Int := e - q
    let a := if 0 ≤ sh then num * 2 ^ sh.toNat else num
    let b := if 0 ≤ sh then den else den * 2 ^ (-sh).toNat
    let n := a / b
    let r := a % b
    let up : Bool := b < 2 * r || (2 * r == b && n % 2 == 1)
    ((q - qmin).toNat * 2 ^ mb + (if up then n + 1 else n), r != 0)

/-- The value of a finite code of a format. -/
def fpDec (mb bias : Nat) (neg : Bool) (code : Nat) : Num :=
  let x := code / 2 ^ mb
  let f := code % 2 ^ mb
  if x = 0 then .fin neg f (1 - (bias : Int) - (mb : Int)) else .fin neg (f + 2 ^ mb) ((x : Int) - (bias : Int) - (mb : Int))

/-- Canonical NaN, infinity and sign bit of FP32 (R57). -/
def nan32 : W32 := 0x7FC00000
def inf32 (neg : Bool) : W32 := if neg then 0xFF800000 else 0x7F800000
def pack32 (neg : Bool) (code : Nat) : W32 := BitVec.ofNat 32 (code + if neg then 2 ^ 31 else 0)

/-- The value of an FP32 word; every NaN is a quiet NaN (R57). -/
def dec32 (w : W32) : Num :=
  let x := fld w 23 8
  let f := fld w 0 23
  if x = 255 then (if f = 0 then .inf (bit w 31) else .nan) else fpDec 23 127 (bit w 31) (fld w 0 31)

/-- One rounding to FP32 of ± num/den × 2^e, with OF, UF and NX (R60, R62, R72). -/
def rnd32 (neg : Bool) (num den : Nat) (e : Int) : W32 × Cond6 :=
  let r := fpRound 23 127 num den e
  if 0x7F800000 ≤ r.1 then (inf32 neg, cOF ||| cNX)
  else (pack32 neg r.1, when (r.2 && decide (r.1 < 2 ^ 23)) cUF ||| when r.2 cNX)

/-- A value rounded to FP32. -/
def enc32 : Num → W32 × Cond6
  | .nan => (nan32, 0)
  | .inf s => (inf32 s, 0)
  | .fin s m e => rnd32 s m 1 e

/-- An exact sum; the zero sum of opposite signs is +0 (R62). IV for infinities of opposite sign. -/
def addNum : Num → Num → Num × Cond6
  | .nan, _ => (.nan, 0)
  | _, .nan => (.nan, 0)
  | .inf s, .inf t => if s = t then (.inf s, 0) else (.nan, cIV)
  | .inf s, _ => (.inf s, 0)
  | _, .inf t => (.inf t, 0)
  | .fin s m e, .fin t n f =>
    let q := min e f
    let x : Int := (if s then -1 else 1) * (m * 2 ^ (e - q).toNat : Nat)
    let y : Int := (if t then -1 else 1) * (n * 2 ^ (f - q).toNat : Nat)
    let z := x + y
    (.fin (if z = 0 then s && t else decide (z < 0)) z.natAbs q, 0)

/-- An exact product. IV for infinity times zero. -/
def mulNum : Num → Num → Num × Cond6
  | .nan, _ => (.nan, 0)
  | _, .nan => (.nan, 0)
  | .inf s, .inf t => (.inf (s != t), 0)
  | .inf s, .fin t n _ => if n = 0 then (.nan, cIV) else (.inf (s != t), 0)
  | .fin s m _, .inf t => if m = 0 then (.nan, cIV) else (.inf (s != t), 0)
  | .fin s m e, .fin t n f => (.fin (s != t) (m * n) (e + f), 0)

def negNum : Num → Num
  | .nan => .nan
  | .inf s => .inf (!s)
  | .fin s m e => .fin (!s) m e

/-- An operation whose NaN operands give the canonical NaN and NI (R57, R73). -/
def withNan (ops : List W32) (f : W32 × Cond6) : W32 × Cond6 :=
  if ops.any (fun w => (dec32 w).isNan) then (nan32, cNI) else f

/-- Rounds the outcome of an exact operation. -/
def finish (r : Num × Cond6) : W32 × Cond6 :=
  let w := enc32 r.1
  (w.1, r.2 ||| w.2)

/-- VADD, VSUB, VMUL, VFMA (R128). -/
def fadd (a b : W32) : W32 × Cond6 := withNan [a, b] (finish (addNum (dec32 a) (dec32 b)))
def fsub (a b : W32) : W32 × Cond6 := withNan [a, b] (finish (addNum (dec32 a) (negNum (dec32 b))))
def fmul (a b : W32) : W32 × Cond6 := withNan [a, b] (finish (mulNum (dec32 a) (dec32 b)))
def ffma (a b c : W32) : W32 × Cond6 :=
  withNan [a, b, c] (
    let p := mulNum (dec32 a) (dec32 b)
    let s := addNum p.1 (dec32 c)
    finish (s.1, p.2 ||| s.2))

/-- VDIV (R128): correctly rounded; x/0 is an infinity for x finite and not zero; 0/0 and ∞/∞ are NaN with IV. -/
def fdiv (a b : W32) : W32 × Cond6 :=
  withNan [a, b] (
    match dec32 a, dec32 b with
    | .fin s m e, .fin t n f =>
      if n = 0 then (if m = 0 then (nan32, cIV) else (inf32 (s != t), 0)) else rnd32 (s != t) m n (e - f)
    | .fin s _ _, .inf t => (pack32 (s != t) 0, 0)
    | .inf s, .fin t _ _ => (inf32 (s != t), 0)
    | _, _ => (nan32, cIV))

/-- The order of FP32 words that are no NaN, with −0 below +0 (R128). -/
def key32 (w : W32) : Int := if bit w 31 then -(fld w 0 31 : Int) - 1 else (fld w 0 31 : Int)

/-- VMAX, VMIN, VABS (R128). -/
def fmax (a b : W32) : W32 × Cond6 := withNan [a, b] (if key32 a < key32 b then b else a, 0)
def fmin (a b : W32) : W32 × Cond6 := withNan [a, b] (if key32 b < key32 a then b else a, 0)
def fabs (a : W32) : W32 × Cond6 := withNan [a] (setBit a 31 false, 0)

/-! ### Special functions (R131)

The spec bounds the error and leaves the bits open. The candidates are the FP32 magnitudes within the bound of a fixed-point value with
`fxBits` fraction bits; which candidate results is free (Config.sfuPick; log 10). -/

/-- Fraction bits of the fixed-point evaluation. -/
def fxBits : Nat := 400
def fxOne : Int := ((2 ^ fxBits : Nat) : Int)

/-- The sum of t^(2k+1)/(2k+1), the inverse hyperbolic tangent of t, by `n` terms. -/
def atanhFx (t : Int) : Nat → Nat → Int → Int
  | 0, _, _ => 0
  | n + 1, k, p => p / (k : Int) + atanhFx t n (k + 2) (p * t / fxOne * t / fxOne)

/-- ln 2 in fixed point. -/
def ln2Fx : Int := let t := fxOne / 3; 2 * atanhFx t 130 1 t

/-- e^r for a small fixed-point r, by `n` terms of the series. -/
def expSeries (r : Int) : Nat → Nat → Int → Int
  | 0, _, _ => 0
  | n + 1, k, p => p + expSeries r n (k + 1) (p * r / fxOne / ((k : Int) + 1))

/-- A finite value in fixed point. -/
def toFx (neg : Bool) (m : Nat) (e : Int) : Int :=
  let x : Int := if 0 ≤ e then (m * 2 ^ e.toNat : Nat) * fxOne else (m : Int) * fxOne / (2 ^ (-e).toNat : Nat)
  if neg then -x else x

/-- e^x as a fixed-point number in [1/2, 2) and a power of two, for |x| at most 1024. -/
def expFx (x : Int) : Int × Int :=
  let k := x / ln2Fx
  (expSeries (x - k * ln2Fx) 110 0 fxOne, k)

/-- The magnitude that approximates a function at a finite argument: numerator, denominator, power of two; `none` where the argument is so large
that the function is at a limit: `big` gives the code of the limit. -/
def sfuApprox (fn : Nat) (neg : Bool) (m : Nat) (e : Int) : Bool × Nat × Nat × Int :=
  let lim := decide ((m : Int).toNat.log2 + e > 9)
  let x := toFx neg m e
  let unit := (2 ^ fxBits : Nat)
  match fn with
  | 0 =>
    if lim then (false, 1, 1, if neg then -1000 else 1000)
    else let r := expFx x; (false, r.1.toNat, unit, r.2)
  | 1 =>
    let b := (m.log2 : Int)
    let u := toFx false m (-b)
    let t := (u - fxOne) * fxOne / (u + fxOne)
    let v := 2 * atanhFx t 130 1 t + (b + e) * ln2Fx
    (decide (v < 0), v.natAbs, unit, 0)
  | 3 =>
    if lim then (neg, 2 ^ 60 - 1, 2 ^ 60, 0)
    else
      let r := expFx (-2 * Int.natAbs x)
      let y := if r.2 ≤ 0 then r.1 / ((2 ^ (-r.2).toNat : Nat) : Int) else r.1 * (2 ^ r.2.toNat : Nat)
      -- below 2^-40 tanh x = x (1 - x²/3), to within 2^-160 of x
      let w := 3 * 2 ^ (-2 * e).toNat
      if (m.log2 : Int) + e < -40 then (neg, m * (w - m * m), w, e) else (neg, (fxOne - y).toNat, (fxOne + y).toNat, 0)
  | _ =>
    if lim then (false, 1, 1, if neg then -1000 else 0)
    else
      let r := expFx (-Int.natAbs x)
      let y := if r.2 ≤ 0 then r.1 / ((2 ^ (-r.2).toNat : Nat) : Int) else r.1 * (2 ^ r.2.toNat : Nat)
      (false, if neg then y.toNat else unit, (fxOne + y).toNat, 0)

/-- The FP32 magnitude codes within `ulps` of a value num/den × 2^e, the ulp that of its rounding (R131; DESIGN CHOICE, log 52: no file of the
spec defines ulp). -/
def sfuWithin (num den : Nat) (e : Int) (ulps : Nat) : List Nat :=
  let c := (fpRound 23 127 num den e).1
  let q : Int := max ((c / 2 ^ 23 : Nat) : Int) 1 - 150
  -- twice the distance in units of den × 2^min
  let near := fun (k : Nat) =>
    match fpDec 23 127 false k with
    | .fin _ m f =>
      let z := min (min e f) q
      let a : Int := (num * 2 ^ (e - z).toNat : Nat)
      let b : Int := (m * den * 2 ^ (f - z).toNat : Nat)
      (a - b).natAbs ≤ ulps * den * 2 ^ (q - z).toNat
    | _ => false
  (((List.range (2 * ulps + 1)).map (fun d => c + d)).filter (fun k => ulps ≤ k)).map (fun k => k - ulps) |>.filter near

/-- The magnitudes within 1 ulp of 1/√(m × 2^e): (k − u)² a ≤ 1 ≤ (k + u)² a, exactly; the ulp is the candidate's own, which next to a power of two is not that of
`sfuWithin` (DESIGN CHOICE, log 52: no file of the spec defines ulp). -/
def rsqWithin (m : Nat) (e : Int) : List Nat :=
  let e2 := if e % 2 = 0 then e else e - 1
  let m2 := if e % 2 = 0 then m else 2 * m
  -- 1/√(m2 × 2^e2) = 2^(-e2/2) / √m2
  let s := isqrt (m2 * 2 ^ 200)
  let c := (fpRound 23 127 (2 ^ 100) s (-(e2 / 2))).1
  let ok := fun (k : Nat) =>
    match fpDec 23 127 false k with
    | .fin _ n f =>
      let up := (n + 1) * (n + 1) * m2
      let dn := (n - 1) * (n - 1) * m2
      let z := 2 * f + e2
      if 0 ≤ z then decide (1 ≤ up * 2 ^ z.toNat) && decide (dn * 2 ^ z.toNat ≤ 1)
      else decide (2 ^ (-z).toNat ≤ up) && decide (dn ≤ 2 ^ (-z).toNat)
    | _ => false
  [c - 1, c, c + 1].filter ok

/-- Whether a function has an exact FP32 value at a finite argument, and which (R131): e^0, ln 1, 1/√4^k, tanh 0, 1/(1 + e^0). -/
def sfuExact (fn : Nat) (neg : Bool) (m : Nat) (e : Int) : Option W32 :=
  match fn with
  | 0 => if m = 0 then some 0x3F800000 else none
  | 1 => if m * 2 ^ e.toNat = 2 ^ (-e).toNat then some 0 else none
  | 2 =>
    let k := (m.log2 : Int) + e
    if m = 2 ^ m.log2 ∧ k % 2 = 0 then some (rnd32 false 1 1 (-(k / 2))).1 else none
  | 3 => if m = 0 then some (pack32 neg 0) else none
  | _ => if m = 0 then some 0x3F000000 else none

/-- A special function (R131): 0 SEXP, 1 SLOG, 2 SRSQ, 3 STANH, 4 SSIG. -/
def sfu (fn : Nat) (a : W32) : W32 × Cond6 :=
  match dec32 a with
  | .nan => (nan32, cNI)
  | .inf s =>
    match fn with
    | 0 => (if s then 0 else inf32 false, 0)
    | 1 => if s then (nan32, cIV) else (inf32 false, 0)
    | 2 => if s then (nan32, cIV) else (0, 0)
    | 3 => (if s then 0xBF800000 else 0x3F800000, 0)
    | _ => (if s then 0 else 0x3F800000, 0)
  | .fin s m e =>
    if m = 0 ∧ (fn = 1 ∨ fn = 2) then (inf32 (if fn = 1 then true else s), 0)
    else if s = true ∧ (fn = 1 ∨ fn = 2) then (nan32, cIV)
    else
      let ap := sfuApprox fn s m e
      let cs : List Nat := if fn = 2 then rsqWithin m e else sfuWithin ap.2.1 ap.2.2.1 ap.2.2.2 2
      let neg := if fn = 2 then false else ap.1
      let pick := cs.getD (Config.sfuPick fn a % max 1 cs.length) 0
      let w := if 0x7F800000 ≤ pick then inf32 neg else pack32 neg pick
      match sfuExact fn s m e with
      | some v => (w, when (w != v) (cNX ||| when (decide (pick < 2 ^ 23)) cUF))
      | none =>
        (w, cNX ||| when (decide (0x7F800000 ≤ pick)) cOF ||| when (decide (pick < 2 ^ 23)) cUF)

end Sys2Proof.Machine
end

