-- ==== Sys2Proof/Machine/Formats.lean ====
section
/-!
DEFINITION. The formats of R44 to R56, block partial sums (R58 to R61), and the conversions of R63 to R72 and R133.
-/
namespace Sys2Proof.Machine

/-- Bits of an element (R44); 0 for a reserved code. -/
def fmtBits (f : Nat) : Nat :=
  match f with
  | 0 => 32
  | 1 => 16
  | 2 => 16
  | 3 => 8
  | 4 => 8
  | 5 => 6
  | 6 => 6
  | 7 => 4
  | 8 => 8
  | 9 => 4
  | _ => 0
/-- Whether a format has blocks and scales (R44). -/
def fmtBlock (f : Nat) : Bool := 3 ≤ f && f ≤ 9
/-- Bytes of 32 elements (R45, R46, R122). -/
def fmtBytes (f : Nat) : Nat := 4 * fmtBits f
/-- Columns in one read of weights (R122). -/
def fmtCols (f : Nat) : Nat :=
  match fmtBytes f with
  | 16 => 16
  | 24 => 10
  | 32 => 8
  | 64 => 4
  | _ => 0

/-- Fraction bits and bias of a floating element format (R44, R53 to R55). -/
def fmtFrac (f : Nat) : Nat × Nat :=
  match f with
  | 1 => (7, 127)
  | 2 => (10, 15)
  | 3 => (3, 7)
  | 4 => (2, 15)
  | 5 => (2, 3)
  | 6 => (3, 1)
  | 7 => (1, 1)
  | _ => (23, 127)
/-- The code of the largest finite magnitude (R53 to R55, R70). -/
def fmtMax (f : Nat) : Nat :=
  match f with
  | 1 => 0x7F7F
  | 2 => 0x7BFF
  | 3 => 0x7E
  | 4 => 0x7B
  | 5 => 0x1F
  | 6 => 0x1F
  | 7 => 7
  | 8 => 127
  | 9 => 7
  | _ => 0x7F7FFFFF
/-- The exponent emax of R64 and the 2 of R65. -/
def fmtEmax (f : Nat) : Int :=
  match f with
  | 3 => 8
  | 4 => 15
  | 5 => 4
  | 8 => 0
  | _ => 2

/-- The operand pairings of R58. -/
def pairOk (a b : Nat) : Bool :=
  (a == 9 && b == 9) || (a == 8 && b == 8) || (a == 1 && b == 1) || (a == 2 && b == 2) || (3 ≤ a && a ≤ 7 && 3 ≤ b && b ≤ 7)

/-- Element `i` of the bytes of a block (R46). -/
def elemAt (f : Nat) (bs : Bytes) (i : Nat) : Nat :=
  let n := fmtBits f
  let lo := n * i
  (fieldLe bs (lo / 8) 4 >>> (lo % 8)) % 2 ^ n

/-- Elements packed into bytes (R46). -/
def packElems (f : Nat) (xs : List Nat) : Bytes :=
  let n := fmtBits f
  bytesLe (n * xs.length / 8) (xs.foldr (fun x a => a * 2 ^ n + x % 2 ^ n) 0)

/-- The significand of √2 in units of 2^−23 (R51, R59). -/
def rootTwo : Nat := 0xB504F3

/-- The value of an element before its scale (R48 to R57); KL4 with the √2 of R51. -/
def elemVal (f code : Nat) : Num :=
  if f = 9 then
    let c := code % 8
    if c = 0 then .fin false 0 0
    else if c % 2 = 1 then .fin (nbit code 3) (2 ^ ((c - 1) / 2)) 0
    else .fin (nbit code 3) (rootTwo * 2 ^ ((c - 2) / 2)) (-23)
  else if f = 8 then
    let n := sgn 8 code
    .fin (decide (n < 0)) n.natAbs (-6)
  else
    let b := fmtBits f
    let neg := nbit code (b - 1)
    let mag := code % 2 ^ (b - 1)
    let mb := fmtFrac f
    if f = 3 then (if mag = 0x7F then .nan else fpDec 3 7 neg mag)
    else if 5 ≤ f then fpDec mb.1 mb.2 neg mag
    else
      let top := 2 ^ (b - 1 - mb.1) - 1
      if mag / 2 ^ mb.1 = top then (if mag % 2 ^ mb.1 = 0 then .inf neg else .nan) else fpDec mb.1 mb.2 neg mag

/-- The KL4 partial sum in units of 2^−23 (R59). -/
def klPartial (a b : Bytes) : Int :=
  ((List.range 32).map (fun i =>
    let x := elemAt 9 a i
    let y := elemAt 9 b i
    let ca := x % 8
    let cb := y % 8
    if ca = 0 ∨ cb = 0 then (0 : Int)
    else
      let n := ca + cb - 2
      let h : Nat := if n % 2 = 0 then 0x800000 else rootTwo
      let t : Int := (h * 2 ^ (n / 2) : Nat)
      if nbit (x ^^^ y) 3 then -t else t)).foldl (· + ·) 0

/-- What the 32 products of a block partial hold (R60, R61): the exact sum of the finite ones, their conditions, the infinities of each sign,
and whether every product is −0. -/
structure PSum where
  sum : Num
  nan : Cond6
  pos : Bool
  neg : Bool
  allNegZero : Bool
deriving DecidableEq, Repr

def PSum.add (p : PSum) (x y : Num) : PSum :=
  if x.isNan || y.isNan then { p with nan := p.nan ||| cNI, allNegZero := false }
  else match mulNum x y with
    | (.nan, c) => { p with nan := p.nan ||| c, allNegZero := false }
    | (.inf s, _) => { p with pos := p.pos || !s, neg := p.neg || s, allNegZero := false }
    | (.fin s m e, _) =>
      { p with sum := (addNum p.sum (.fin s m e)).1, allNegZero := p.allNegZero && s && m == 0 }

/-- The rounded partial sum of a pair of blocks (R59, R60, R61): formats, element bytes, scale bytes (ignored for BF16 and FP16). -/
def blockPartial (fa fb : Nat) (a b : Bytes) (sa sb : Nat) : W32 × Cond6 :=
  let scaled := fmtBlock fa
  if scaled && (sa == 0xFF || sb == 0xFF) then (nan32, cNI)
  else if fa = 9 then
    let p := klPartial a b
    rnd32 (decide (p < 0)) p.natAbs 1 ((sa : Int) + (sb : Int) - 277)
  else
    let ps := (List.range 32).foldl (fun (q : PSum) i => q.add (elemVal fa (elemAt fa a i)) (elemVal fb (elemAt fb b i)))
      ⟨.fin false 0 0, 0, false, false, true⟩
    if ps.nan ≠ 0 then (nan32, ps.nan)
    else if ps.pos && ps.neg then (nan32, cIV)
    else if ps.pos || ps.neg then (inf32 ps.neg, 0)
    else if ps.allNegZero then (pack32 true 0, 0)
    else match ps.sum with
      | .fin s m e => rnd32 (s && m != 0) m 1 (e + if scaled then (sa : Int) + (sb : Int) - 254 else 0)
      | _ => (nan32, 0)

/-- One IEEE addition of a partial to an accumulator (R60, R61): a NaN that is no element raises nothing. -/
def accAdd (acc part : W32) : W32 × Cond6 :=
  if (dec32 acc).isNan || (dec32 part).isNan then (nan32, 0) else fadd acc part

/-! ### Conversion from FP32 (R63 to R72) -/

/-- The stochastic value of a seed and counter (R69). -/
def srDraw (seed ctr : W64) : Nat :=
  let z0 := seed + (ctr + 1) * 0x9E3779B97F4A7C15
  let z1 := (z0 ^^^ (z0 >>> 30)) * 0xBF58476D1CE4E5B9
  let z2 := (z1 ^^^ (z1 >>> 27)) * 0x94D049BB133111EB
  fld (z2 ^^^ (z2 >>> 31)) 48 16

/-- 0 ≤ a + b √2. -/
def surdNonneg (a b : Int) : Bool :=
  if 0 ≤ a ∧ 0 ≤ b then true
  else if a < 0 ∧ b < 0 then false
  else if 0 ≤ a then decide (2 * b * b ≤ a * a)
  else decide (a * a ≤ 2 * b * b)

/-- The magnitude of a KL4 code as a + b √2 (R48). -/
def klMag (c : Nat) : Int × Int :=
  if c = 0 then (0, 0) else if c % 2 = 1 then ((2 ^ ((c - 1) / 2) : Nat), 0) else (0, (2 ^ ((c - 2) / 2) : Nat))

/-- A magnitude y = m × 2^e rounded to a KL4 code (R67, R68), with whether it is inexact; `sr` the value of r. -/
def klRound (sr : Option Nat) (m : Nat) (e : Int) : Nat × Bool :=
  let k := (-(min e 0)).toNat
  let y : Int := (m * 2 ^ (e + (k : Int)).toNat : Nat)
  let u : Int := (2 ^ k : Nat)
  -- largest code whose magnitude is at most y
  let lo := ((List.range 8).filter (fun c => surdNonneg (y - (klMag c).1 * u) (-(klMag c).2 * u))).getLastD 0
  let a := klMag lo
  if lo = 7 then (7, decide (y ≠ 8 * u))
  else if a.2 = 0 ∧ y = a.1 * u then (lo, false)
  else
    let b := klMag (lo + 1)
    let hi := match sr with
      | none => !surdNonneg ((a.1 + b.1) * u - 2 * y) ((a.2 + b.2) * u)
      | some r =>
        let w : Int := 65536 - (r : Int)
        surdNonneg (65536 * (y - a.1 * u) - w * (b.1 - a.1) * u) (-65536 * a.2 * u - w * (b.2 - a.2) * u)
    (if hi then lo + 1 else lo, true)

/-- A magnitude rounded to a code under RNE or SR (R67, R68), unbounded above; `mb`, `bias` of the element format. -/
def fpConv (mb bias : Nat) (sr : Option Nat) (m : Nat) (e : Int) : Nat × Bool :=
  match sr with
  | none => fpRound mb bias m 1 e
  | some r =>
    let n := fpRound mb bias m 1 e
    if !n.2 then n
    else
      -- the code below the exact magnitude: the nearest or the one before it
      let above := fun (c : Nat) => match fpDec mb bias false c with
        | .fin _ k f => let z := min e f; decide (m * 2 ^ (e - z).toNat < k * 2 ^ (f - z).toNat)
        | _ => true
      let lo := if above n.1 then n.1 - 1 else n.1
      match fpDec mb bias false lo, fpDec mb bias false (lo + 1) with
      | .fin _ a f, .fin _ b g =>
        let z := min e (min f g)
        let ym := m * 2 ^ (e - z).toNat
        let l := a * 2 ^ (f - z).toNat
        let h := b * 2 ^ (g - z).toNat
        let q := (ym - l) * 65536 / (h - l)
        (if 65536 ≤ q + r then lo + 1 else lo, true)
      | _, _ => n

/-- The MXINT8 integer of a magnitude: units of 2^−6 (R56, R67, R68). -/
def intConv (sr : Option Nat) (m : Nat) (e : Int) : Nat × Bool :=
  let s := e + 6
  let num := m * 2 ^ s.toNat
  let den := 2 ^ (-s).toNat
  let n := num / den
  let r := num % den
  match sr with
  | none => (if den < 2 * r || (2 * r == den && n % 2 == 1) then n + 1 else n, r != 0)
  | some v => (if 65536 ≤ r * 65536 / den + v then n + 1 else n, r != 0)

/-- Whether a magnitude lies above the largest finite value of a format (R70). -/
def aboveMax (f m : Nat) (e : Int) : Bool :=
  let cmp := fun (k : Nat) (g : Int) => let z := min e g; decide (k * 2 ^ (g - z).toNat < m * 2 ^ (e - z).toNat)
  if f = 9 then cmp 8 0
  else if f = 8 then cmp 127 (-6)
  else match fpDec (fmtFrac f).1 (fmtFrac f).2 false (fmtMax f) with
    | .fin _ k g => cmp k g
    | _ => false

/-- The sign placed on an element code; KL4 and MXINT8 have no negative zero (R50, R72). -/
def signElem (f : Nat) (neg : Bool) (code : Nat) : Nat :=
  if f = 8 then unsgn 8 (if neg then -(code : Int) else (code : Int))
  else if f = 9 ∧ code = 0 then 0
  else code + if neg then 2 ^ (fmtBits f - 1) else 0

/-- One element converted with its block's scale (R67 to R72); 127 for BF16 and FP16. -/
def convElem (f : Nat) (x : W32) (scale : Nat) (sr : Option Nat) (satOff : Bool) : Nat × Cond6 :=
  let off := satOff && (f == 1 || f == 2 || f == 3 || f == 4)
  match dec32 x with
  | .nan => (if f = 1 then 0x7FC0 else if f = 2 then 0x7E00 else signElem f (bit x 31) 0x7F, cNI)
  | .inf s =>
    if off then (signElem f s (if f = 3 then 0x7F else fmtMax f + 1), 0) else (signElem f s (fmtMax f), cSAT)
  | .fin s m e0 =>
    let e := e0 + 127 - (scale : Int)
    if aboveMax f m e then
      if off then
        let overrun := fmtMax f < (fpRound (fmtFrac f).1 (fmtFrac f).2 m 1 e).1
        if overrun then (if f = 3 then (signElem 3 s 0x7F, cOF ||| cIV ||| cNX) else (signElem f s (fmtMax f + 1), cOF ||| cNX))
        else (signElem f s (fmtMax f), cNX)
      else (signElem f s (fmtMax f), cSAT ||| cNX)
    else
      let r := if f = 9 then klRound sr m e else if f = 8 then intConv sr m e else fpConv (fmtFrac f).1 (fmtFrac f).2 sr m e
      let small := if f = 8 ∨ f = 9 then r.1 == 0 else decide (r.1 < 2 ^ (fmtFrac f).1)
      (signElem f s r.1, when r.2 cNX ||| when (r.2 && small) cUF)

/-- The scale of a block (R64 to R66). -/
def blockScale (f : Nat) (xs : List W32) : Nat :=
  let mags := xs.filterMap (fun x => if fld x 23 8 = 255 then none else some (fld x 0 31))
  let amax := mags.foldl max 0
  if amax = 0 then 0x7F
  else match fpDec 23 127 false amax with
    | .fin _ m e => clampInt 0 254 ((m.log2 : Int) + e - fmtEmax f + 127) |>.toNat
    | _ => 0x7F

/-- The values of r for `n` elements from a counter on (R69); none under RNE. -/
def srFor (sr : Bool) (seed ctr : W64) (i : Nat) : Option Nat := if sr then some (srDraw seed (ctr + BitVec.ofNat 64 i)) else none

/-- Element codes, scale bytes and conditions of `xs` converted to a format (R64 to R72, R132); element `i0` of the array is the first. -/
def convBlock (f : Nat) (sr satOff : Bool) (seed ctr : W64) (i0 : Nat) (xs : List W32) : List Nat × Nat × Cond6 :=
  let hasNan := xs.any (fun x => (dec32 x).isNan)
  if hasNan && fmtBlock f && f != 3 && f != 4 then (List.replicate 32 0, 0xFF, cNI)
  else
    let scale := if fmtBlock f then blockScale f xs else 127
    let r := (xs.zipIdx).map (fun p => convElem f p.1 scale (srFor sr seed ctr (i0 + p.2)) satOff)
    ((r.map (·.1)) ++ List.replicate (32 - xs.length) 0, scale, r.foldl (fun a p => a ||| p.2) 0)

/-- A whole array converted: element bytes, scale bytes, conditions. -/
def convArray (f : Nat) (sr satOff : Bool) (seed ctr : W64) (xs : List W32) : Bytes × Bytes × Cond6 :=
  if fmtBlock f then
    let nb := (xs.length + 31) / 32
    let bl := (List.range nb).map (fun b => convBlock f sr satOff seed ctr (32 * b) ((xs.drop (32 * b)).take 32))
    (bl.flatMap (fun b => packElems f b.1), bl.map (fun b => BitVec.ofNat 8 b.2.1), bl.foldl (fun a b => a ||| b.2.2) 0)
  else
    let r := (xs.zipIdx).map (fun p => convElem f p.1 127 (srFor sr seed ctr p.2) satOff)
    (packElems f (r.map (·.1)), [], r.foldl (fun a p => a ||| p.2) 0)

/-- An element converted to FP32 (R51, R52, R133): scale byte 0xFF gives NaN with NI. -/
def toFp32 (f code scale : Nat) : W32 × Cond6 :=
  if fmtBlock f && scale == 0xFF then (nan32, cNI)
  else match elemVal f code with
    | .nan => (nan32, cNI)
    | .inf s => (inf32 s, 0)
    | .fin s m e => rnd32 s m 1 (e + if fmtBlock f then (scale : Int) - 127 else 0)

end Sys2Proof.Machine
end

