-- ==== Sys2Proof/Machine/Operands.lean ====
section
/-!
DEFINITION. The operand forms of tile instructions (R110, R111, R123, R126, R127, R132, R133): fields, the ranges an instruction reads and
writes on the scoreboard (R113), and the checks that raise an exception at issue (R122, R124, R126, R127, R132, R133, R139).
-/
namespace Sys2Proof.Machine

/-- Class and operation of a word (R110). -/
def iCls (w : W64) : Nat := fld w 60 4
def iOp (w : W64) : Nat := fld w 56 4
/-- Register fields at their places (R111): XD or XW, XA, XB or XN or XG, XC or XT. -/
def iXd (w : W64) : Nat := fld w 52 4
def iXa (w : W64) : Nat := fld w 48 4
def iXb (w : W64) : Nat := fld w 44 4
def iXc (w : W64) : Nat := fld w 40 4
/-- The N of forms H and I, and the P of forms F and G. -/
def iN (w : W64) : Nat := fld w 0 16 + 1
def iP (w : W64) : Nat := fld w 28 4 + 1
/-- Format fields: FA (and FMT) and FB. -/
def iFa (w : W64) : Nat := fld w 36 4
def iFb (w : W64) : Nat := fld w 32 4

/-- The operations of each class (R110); 0 for a reserved class. -/
def classOps (cls : Nat) : Nat := [7, 3, 4, 11, 5, 2, 2].getD cls 0
/-- Whether a word's class or operation is reserved (R110). -/
def isReserved (w : W64) : Bool := classOps (iCls w) ≤ iOp w

/-- A scalar register's value (R105). -/
def xget (x : Vector W64 16) (i : Nat) : W64 := if i = 0 then 0 else x.toList.getD i 0
/-- A scalar register written; X0 discards it (R105). -/
def xset (x : Vector W64 16) (i : Nat) (v : W64) : Vector W64 16 := if i = 0 then x else updAll x (fun k o => if k.val = i then v else o)

/-- A scoreboard entry (R113): an X register, a staging-file byte range, an accumulator column range. -/
inductive Rng where
  | x (i : Nat)
  | st (lo hi : Nat)
  | ac (lo hi : Nat)
deriving DecidableEq, Repr

/-- Whether two entries have something in common. -/
def Rng.meets : Rng → Rng → Bool
  | .x i, .x j => i == j && i != 0
  | .st a b, .st c d => decide (a < d) && decide (c < b) && decide (a < b) && decide (c < d)
  | .ac a b, .ac c d => decide (a < d) && decide (c < b) && decide (a < b) && decide (c < d)
  | _, _ => false

/-- What an instruction reads and writes. -/
structure Use where
  rd : List Rng
  wr : List Rng
deriving DecidableEq, Repr

def noUse : Use := ⟨[], []⟩

/-! ### Matrix operands (R123, R126) -/

/-- The operands of MMA. -/
structure MmaArgs where
  wel : Nat
  wsc : Nat
  ael : Nat
  asc : Nat
  acol : Nat
  n : Nat
  kb : Nat
  tel : Nat
  tsc : Nat
deriving DecidableEq, Repr

def mmaArgs (w : W64) (x : Vector W64 16) : MmaArgs :=
  let xw := xget x (iXd w)
  let xa := xget x (iXa w)
  let xg := xget x (iXb w)
  let xt := xget x (iXc w)
  { wel := fld xw 0 24, wsc := fld xw 32 24, ael := fld xa 0 18, asc := fld xa 32 18, acol := fld xg 32 10, n := fld xg 16 16,
    kb := fld xg 0 16, tel := fld xt 0 18, tsc := fld xt 32 18 }

/-- The mask of a register that holds two 18-bit staging addresses. -/
def stage2 : W64 := 0x0003FFFF0003FFFF
def stageBytes : Nat := 0x40000
def sliceBytes : Nat := 0xC00000
/-- The low 32 bits of a register, as `DETAIL` shows them (R139). -/
def low32 (v : W64) : Nat := fld v 0 32
/-- Bits 63:32 of a word (R139). -/
def high32 (w : W64) : Nat := fld w 32 32

/-- The exception MMA raises at issue (R122, R124), tested in the order of the rules (log 34). -/
def mmaCheck (w : W64) (x : Vector W64 16) : Option (Nat × Nat) :=
  let fa := iFa w
  let fb := iFb w
  let a := mmaArgs w x
  let xw := xget x (iXd w)
  let xa := xget x (iXa w)
  let xg := xget x (iXb w)
  let xt := xget x (iXc w)
  let g := fmtCols fb
  let reads := a.n / g * a.kb
  let scaled := fmtBlock fa
  let actBad := (List.range (iP w)).any fun q =>
    (a.ael + q * a.tel) % 256 != 0 || (decide (0 < reads) && (decide (stageBytes < a.ael + q * a.tel + a.kb * fmtBytes fa) ||
      (scaled && decide (stageBytes < a.asc + q * a.tsc + a.kb))))
  if !pairOk fa fb then some (1, high32 w)
  else if xw &&& ~~~0x00FFFFFF00FFFFFF ≠ 0 then some (3, low32 xw)
  else if xa &&& ~~~stage2 ≠ 0 then some (3, low32 xa)
  else if xg &&& ~~~0x000003FFFFFFFFFF ≠ 0 then some (3, low32 xg)
  else if xt &&& ~~~stage2 ≠ 0 then some (3, low32 xt)
  else if a.wel % 256 ≠ 0 then some (4, a.wel)
  else if 0 < reads ∧ sliceBytes < a.wel + reads * 256 then some (4, max a.wel sliceBytes)
  else if scaled ∧ a.wsc % 16 ≠ 0 then some (4, a.wsc)
  else if scaled ∧ 0 < reads ∧ sliceBytes < a.wsc + reads * 16 then some (4, max a.wsc sliceBytes)
  else if actBad then some (3, low32 xa)
  else if a.kb = 0 ∨ a.n = 0 ∨ a.n % g ≠ 0 ∨ 1024 < a.acol + a.n then some (5, low32 xg)
  else none

/-- Address, stride, first column and columns of MST, MLD and MZ (R126). -/
structure MstArgs where
  base : Nat
  stride : Nat
  acol : Nat
  n : Nat
deriving DecidableEq, Repr

def mstArgs (w : W64) (x : Vector W64 16) : MstArgs :=
  let xd := xget x (iXd w)
  let xg := xget x (iXa w)
  { base := fld xd 0 18, stride := fld xd 32 18, acol := fld xg 32 10, n := fld xg 16 16 }

/-- The exceptions of MST, MLD and MZ (R126). -/
def mstCheck (w : W64) (x : Vector W64 16) : Option (Nat × Nat) :=
  let a := mstArgs w x
  let xd := xget x (iXd w)
  let p := iP w
  if iOp w ≠ 3 ∧ (xd &&& ~~~stage2 ≠ 0 ∨ a.base % 4 ≠ 0 ∨ (1 < p ∧ a.stride % 4 ≠ 0) ∨
      (a.n ≠ 0 ∧ stageBytes < a.base + (p - 1) * a.stride + 4 * a.n)) then some (3, low32 xd)
  else if 1024 < a.acol + a.n then some (5, low32 (xget x (iXa w)))
  else none

/-! ### Vector, special-function and conversion operands (R127 to R133) -/

/-- Whether a vector operation reads b and c. -/
def usesB (cls op : Nat) : Bool := cls == 3 && op ≤ 6
def usesC (cls op : Nat) : Bool := cls == 3 && op == 3
/-- Whether a vector operation reduces to one value (R130). -/
def reduces (cls op : Nat) : Bool := cls == 3 && (op == 8 || op == 9)

/-- The arrays of a vector or special-function instruction: register and length, the destination last. -/
def vecArrays (w : W64) : List (Nat × Nat) :=
  let n := iN w
  let cls := iCls w
  let op := iOp w
  [(iXa w, n)] ++ (if usesB cls op then [(iXb w, if bit w 39 then 1 else n)] else []) ++
    (if usesC cls op then [(iXc w, if bit w 38 then 1 else n)] else []) ++ [(iXd w, if reduces cls op then 1 else n)]

/-- A register that names an FP32 array breaks R127. -/
def badArray (v : W64) (n : Nat) : Bool := fld v 18 46 != 0 || fld v 0 18 % 4 != 0 || decide (stageBytes < fld v 0 18 + 4 * n)

def vecCheck (w : W64) (x : Vector W64 16) : Option (Nat × Nat) :=
  match (vecArrays w).find? (fun a => badArray (xget x a.1) a.2) with
  | some a => some (3, low32 (xget x a.1))
  | none => none

/-- Bytes of elements of a packed array of `n` elements. -/
def packedBytes (f n : Nat) : Nat := if fmtBlock f then (n + 31) / 32 * fmtBytes f else 2 * n

/-- A register that names a packed array breaks R132. -/
def badPacked (f : Nat) (v : W64) (n : Nat) : Bool :=
  if fmtBlock f then
    v &&& ~~~stage2 != 0 || fld v 0 18 % 8 != 0 || decide (stageBytes < fld v 0 18 + packedBytes f n) ||
      decide (stageBytes < fld v 32 18 + (n + 31) / 32)
  else fld v 18 46 != 0 || fld v 0 18 % 2 != 0 || decide (stageBytes < fld v 0 18 + packedBytes f n)

/-- The exceptions of CVTO and CVFR (R132, R133). -/
def cvtCheck (w : W64) (x : Vector W64 16) : Option (Nat × Nat) :=
  let f := iFa w
  let n := iN w
  let xd := xget x (iXd w)
  let xa := xget x (iXa w)
  if f = 0 ∨ 9 < f then some (1, high32 w)
  else if (if iOp w = 0 then badArray xa n else badPacked f xa n) then some (3, low32 xa)
  else if (if iOp w = 0 then badPacked f xd n else badArray xd n) then some (3, low32 xd)
  else none

/-! ### All unit instructions -/

/-- The exception a unit instruction raises at issue: code and detail. -/
def unitCheck (w : W64) (x : Vector W64 16) : Option (Nat × Nat) :=
  match iCls w with
  | 2 => if iOp w = 0 then mmaCheck w x else mstCheck w x
  | 5 => cvtCheck w x
  | _ => vecCheck w x

/-- The ranges of a packed array. -/
def packedRngs (f : Nat) (v : W64) (n : Nat) : List Rng :=
  .st (fld v 0 18) (fld v 0 18 + packedBytes f n) ::
    (if fmtBlock f then [.st (fld v 32 18) (fld v 32 18 + (n + 31) / 32)] else [])

def flatRng (v : W64) (n : Nat) : Rng := .st (fld v 0 18) (fld v 0 18 + 4 * n)

/-- What a unit instruction reads and writes; one range for each array (log 35). -/
def unitUse (w : W64) (x : Vector W64 16) : Use :=
  match iCls w with
  | 2 =>
    if iOp w = 0 then
      let a := mmaArgs w x
      let p := iP w
      let ac := Rng.ac a.acol (a.acol + a.n)
      let sc := if fmtBlock (iFa w) then [Rng.st a.asc (a.asc + (p - 1) * a.tsc + a.kb)] else []
      ⟨[.x (iXd w), .x (iXa w), .x (iXb w), .x (iXc w), .st a.ael (a.ael + (p - 1) * a.tel + a.kb * fmtBytes (iFa w)), ac] ++ sc, [ac]⟩
    else
      let a := mstArgs w x
      let st := Rng.st a.base (if a.n = 0 then a.base else a.base + (iP w - 1) * a.stride + 4 * a.n)
      let ac := Rng.ac a.acol (a.acol + a.n)
      let xs := [Rng.x (iXa w)] ++ if iOp w = 3 then [] else [.x (iXd w)]
      if iOp w = 1 then ⟨xs ++ [ac], [st]⟩ else if iOp w = 2 then ⟨xs ++ [st], [ac]⟩ else ⟨xs, [ac]⟩
  | 5 =>
    let xd := xget x (iXd w)
    let xa := xget x (iXa w)
    let xs := [Rng.x (iXd w), .x (iXa w)]
    if iOp w = 0 then ⟨xs ++ [flatRng xa (iN w)], packedRngs (iFa w) xd (iN w)⟩
    else ⟨xs ++ packedRngs (iFa w) xa (iN w), [flatRng xd (iN w)]⟩
  | _ =>
    let l := vecArrays w
    ⟨l.map (fun a => Rng.x a.1) ++ l.dropLast.map (fun a => flatRng (xget x a.1) a.2),
     (l.getLast?.map (fun a => flatRng (xget x a.1) a.2)).toList⟩

end Sys2Proof.Machine
end

