-- ==== Sys2Proof/Machine/PlanLoad.lean ====
section
/-!
DEFINITION. Plan images and their load (R154, R224 to R230, R247, R482, R483).
-/
namespace Sys2Proof.Machine

/-- A section table entry (R225). -/
structure Sect where
  typ : Nat
  rsv : Nat
  target : Nat
  off : Nat
  len : Nat
  dest : Nat
deriving DecidableEq, Repr

/-- The sections that a header and its table name. -/
def sectsOf (head table : Bytes) : List Sect :=
  (List.range (fieldLe head 24 4)).map fun i =>
    let e := slice table (32 * i) 32
    ⟨fieldLe e 0 2, fieldLe e 2 2, fieldLe e 4 4, fieldLe e 8 8, fieldLe e 16 8, fieldLe e 24 8⟩

/-- Ranges do not overlap one another; empty ones overlap nothing. -/
def disjoint (l : List (Nat × Nat)) : Bool :=
  let s := sortBy (fun a b => decide (a.1 ≤ b.1)) (l.filter (fun (r : Nat × Nat) => decide (r.1 < r.2)))
  (s.zip (s.drop 1)).all (fun (p : (Nat × Nat) × (Nat × Nat)) => decide (p.1.2 ≤ p.2.1))

/-- The tiles that have sections of a type. -/
def tilesWith (t : Nat) (l : List Sect) : List Nat := (l.filter (fun s => s.typ == t)).map (fun (s : Sect) => s.target)

/-- Bits 55:0 that a word's form names (R111). -/
def formMask (cls op : Nat) : Nat :=
  let bits := fun (hi lo : Nat) => 2 ^ (hi + 1) - 2 ^ lo
  match cls with
  | 0 => [0, 0, bits 55 40 + bits 31 0, bits 55 52 + bits 31 0, bits 55 44 + bits 12 0, bits 55 48 + bits 7 0, bits 55 48 + bits 7 0].getD op 0
  | 1 => [bits 55 44, bits 55 44, 0].getD op 0
  | 2 => if op = 0 then bits 55 27 else bits 55 48 + bits 31 28
  | 3 | 4 => bits 55 38 + bits 15 0
  | 5 => bits 55 48 + bits 39 34 + bits 15 0
  | 6 => if op = 0 then bits 55 40 + bits 31 0 else bits 43 40 + bits 31 0
  | _ => 0

/-- Whether the loader takes an instruction word: no reserved bit set; a word of a reserved class or operation always loads (R110). -/
def wordLoads (w : W64) : Bool := isReserved w || fld w 0 56 ||| formMask (iCls w) (iOp w) == formMask (iCls w) (iOp w)

/-! ### The parameters of kinds 0 and 1 (R247) -/

/-- Reserved bits of the header's kind parameters. -/
def paramsReserved (kind : Nat) (p : Bytes) : Bool :=
  if kind = 2 then fieldLe p 0 64 != 0
  else if kind ≤ 1 then fieldLe p 6 1 / 2 != 0 || fieldLe p 58 6 != 0
  else false

/-- Whether the parameters of a kind lie in their ranges; a draft plan holds zero in what it does not use. -/
def paramsOk (kind : Nat) (p : Bytes) (tiles : List Nat) : Bool :=
  let f := fun (o n : Nat) => fieldLe p o n
  let common := decide (1 ≤ f 0 4) && decide (f 0 4 ≤ 262144) && decide (12 ≤ f 4 1) && decide (f 4 1 ≤ 23) && decide (1 ≤ f 5 1) && decide (f 5 1 ≤ 64) &&
    decide (f 16 8 % 4096 = 0) && decide (f 16 8 + 32768 ≤ sramSize)
  if kind = 0 then
    common && decide (f 7 1 ≤ 3) && decide (f 8 8 + 4 * f 5 1 * f 0 4 * 4 ≤ sramSize) && decide (f 32 2 ≤ 4096) && (f 32 2 != 0 || f 24 8 == 0) &&
      decide (f 34 2 ≤ 256) && decide (f 36 4 % 0x10000 = 0) && decide (f 40 4 + f 34 2 * f 36 4 ≤ sliceSize) && decide (1 ≤ f 56 2) && decide (f 56 2 ≤ 1024) &&
      (List.range (f 46 2)).all (fun i => tiles.contains (f 44 2 + i))
  else if kind = 1 then common && f 6 2 == 0 && f 8 8 == 0 && f 24 24 == 0 && f 56 2 == 0
  else true

/-! ### Step 1 of R230 -/

/-- Reserved bits of the header and the table (R230 check 4). -/
def imageReserved (head : Bytes) (l : List Sect) : Bool :=
  fieldLe head 17 1 / 2 != 0 || fieldLe head 19 1 != 0 || fieldLe head 22 2 != 0 || fieldLe head 28 4 != 0 || fieldLe head 40 8 != 0 ||
    paramsReserved (fieldLe head 16 1) (slice head 64 64) || l.any (fun s => s.rsv != 0)

/-- The length and destination rules of a section's type (R225, R226). -/
def sectOk (s : Sect) : Bool :=
  s.off % 16 == 0 && decide (s.target ≤ 1023) &&
  (match s.typ with
   | 1 => decide (8 ≤ s.len) && decide (s.len ≤ 65536) && s.len % 8 == 0 && s.dest == 0
   | 2 => s.len == 32 && s.dest == 0
   | 3 => s.dest % 16 == 0 && decide (s.dest + s.len ≤ 0x40000)
   | 4 => s.dest % 16 == 0 && decide (s.dest + s.len ≤ sliceSize)
   | 5 => s.target == 0 && s.dest == 0
   | 6 => true
   | _ => false)

/-- The rules of R227 that header and table decide (R230 check 5). -/
def imageFormed (head : Bytes) (l : List Sect) : Bool :=
  let h := fun (o n : Nat) => fieldLe head o n
  let len := h 8 8
  let n := h 24 4
  let at' := h 32 8
  let sig := if h 17 1 = 1 then [(len - 112, len)] else []
  let ranges := [(0, 128), (at', at' + 32 * n)] ++ l.map (fun (s : Sect) => (s.off, s.off + s.len)) ++ sig
  let progs := tilesWith 1 l
  let inits := tilesWith 2 l
  let same := fun (t : Nat) => (progs.all fun g =>
    disjoint ((l.filter (fun s => s.typ == t && s.target == g)).map (fun (s : Sect) => (s.dest, s.dest + s.len))))
  decide (h 16 1 ≤ 2) && decide (1 ≤ n) && decide (n ≤ 8192) && at' % 16 == 0 && decide (h 18 1 ≤ 0xB0) && (h 17 1 != 1 || decide (112 ≤ len)) &&
    ranges.all (fun (r : Nat × Nat) => decide (r.2 ≤ len)) && disjoint ranges && l.all sectOk &&
    (l.filter (fun s => s.typ == 5)).all (fun s => s.len == 2 * progs.length) && (l.filter (fun s => s.typ == 5)).length == 1 &&
    progs.eraseDups.length == progs.length && inits.eraseDups.length == inits.length && inits.length == progs.length && inits.all progs.contains &&
    (tilesWith 3 l).all progs.contains && (tilesWith 4 l).all progs.contains && same 3 && same 4 &&
    progs.all (fun g => nbit (h 20 2) (g / 64)) && (List.range 16).all (fun s => !nbit (h 20 2) s || progs.any (fun g => g / 64 == s)) &&
    paramsOk (h 16 1) (slice head 64 64) progs

/-- The bytes of a plan copy: everything but the weights (R229). -/
def copyLength (head : Bytes) (l : List Sect) : Nat :=
  128 + 32 * fieldLe head 24 4 + ((l.filter (fun s => s.typ != 4)).map (fun (s : Sect) => s.len)).foldl (· + ·) 0

namespace Chip

/-- Checks 2 to 9 of R230; 0 where all pass. `open'`: the command was fetched, or is checked, in Serving, and not fetched in Draining (R222). -/
def loadCheck (c : Chip) (open' : Bool) (len : Nat) (head : Bytes) (l : List Sect) : Nat :=
  let progs := tilesWith 1 l
  let busy := fun (p : Plan) => decide (p.st = .loading ∨ p.st = .ready ∨ p.st = .stopped) && p.imgs.any (fun i => progs.contains i.tile)
  if !open' then 6
  else if fieldLe head 0 4 ≠ 0x4E414C50 ∨ fieldLe head 4 2 ≠ 1 ∨ fieldLe head 6 2 ≠ 128 ∨ fieldLe head 8 8 ≠ len then 0x0B
  else if imageReserved head l then 2
  else if !imageFormed head l then 0x0B
  else if c.hif.plans.toList.any busy then 0x14
  else if (fins 16).any (fun s => nbit (fieldLe head 20 2) s.val && decide (c.sk[s].st = .failed)) then 0x15
  else if (Mach.copyPair c (copyLength head l)).isNone then 0x13
  else if c.hif.plans.toList.all (fun p => decide (p.st ≠ .free)) then 5
  else 0

/-- A load passes step 1: it takes the lowest free slot (R230, R231). -/
def loadBegin (cid : Nat) (head table : Bytes) (c : Chip) : Chip :=
  let l := sectsOf head table
  match (fins 16).find? (fun k => decide (c.hif.plans[k].st = .free)), Mach.copyPair c (copyLength head l) with
  | some k, some pr =>
    let stub := fun (g : Nat) => ({ tile := g, prog := [], entry := 0, trap := 0, seed := 0, ctr := 0, staging := [], granules := [] } : TileImg)
    (c.onPlan k fun p =>
      { resetPlan with gen := p.gen, st := .loading, kind := fieldLe head 16 1, mask := BitVec.ofNat 16 (fieldLe head 20 2), planId := slice head 48 16,
                       params := slice head 64 64, imgs := (tilesWith 1 l).map stub, copies := [pr.1, pr.2], copyLen := copyLength head l }).onHif fun h =>
      { h with loads := h.loads ++ [{ cmd := cid, slot := k.val, head := head, table := table, policy := h.policy, keys := h.keys, stage := 1 }] }
  | _, _ => c

/-- Whether an image passes the signing policy (R228, R482, R483). -/
def signatureOk (ld : Load) (image : Bytes) : Bool :=
  if fieldLe ld.head 17 1 % 2 = 0 then decide (ld.policy = 0)
  else
    let n := fieldLe ld.head 8 8
    let sig := slice image (n - 112) 112
    ld.keys.any (fun k => k.any (· != 0) && decide (k.take 16 = sig.take 16) && ecdsaOk k (image.take (n - 112)) sig)

/-- An image of a tile changed. -/
def onImg (k : Fin 16) (g : Nat) (f : TileImg → TileImg) (c : Chip) : Chip :=
  c.onPlan k fun p => { p with imgs := p.imgs.map (fun i => if i.tile == g then f i else i) }

end Chip

/-- The granules a slice range touches. -/
def granulesOf (off n : Nat) : List Nat := if n = 0 then [] else (List.range ((off + n - 1) / 0x10000 - off / 0x10000 + 1)).map (· + off / 0x10000)

namespace Mach

/-- A section's contents are checked and loaded; the error is the load's status (R226, R230 step 2). -/
def loadSection (k : Fin 16) (die : Option Nat) (l : List Sect) (image : Bytes) (s : Sect) (m : Mach) : Except Nat Mach :=
  let b := slice image s.off s.len
  let g : Fin 1024 := Fin.ofNat 1024 s.target
  let f := fun (o n : Nat) => fieldLe b o n
  match s.typ with
  | 1 =>
    let words := (chunks 8 b).map (fun x => BitVec.ofNat 64 (numLe x))
    if words.all wordLoads then .ok (m.on (Chip.onImg k s.target fun i => { i with prog := words })) else .error 2
  | 2 =>
    let count := ((l.find? (fun t => t.typ == 1 && t.target == s.target)).map (·.len)).getD 0 / 8
    if f 2 1 / 64 ≠ 0 ∨ f 3 5 ≠ 0 ∨ f 24 8 ≠ 0 then .error 2
    else if count ≤ f 0 2 then .error 0x0B
    else .ok (m.on (Chip.onImg k s.target fun i =>
      { i with entry := f 0 2, trap := BitVec.ofNat 6 (f 2 1), seed := BitVec.ofNat 64 (f 8 8), ctr := BitVec.ofNat 64 (f 16 8) }))
  | 3 => .ok (m.on (Chip.onImg k s.target fun i => { i with staging := i.staging ++ [(s.dest, b)] }))
  | 4 =>
    .ok ((m.writeOrHold .bar die (sliceAddr g + s.dest) b).on (Chip.onImg k s.target fun i => { i with granules := i.granules ++ granulesOf s.dest s.len }))
  | 5 =>
    let tiles := (chunks 2 b).map numLe
    if tiles = sortBy (fun a b => decide (a ≤ b)) (tilesWith 1 l) then .ok (m.on fun c => c.onPlan k fun p => { p with schedule := tiles })
    else .error 0x0B
  | _ => .ok m

/-- Steps 2 and 3 of R230: the image is read in offset order, its contents loaded and its signature checked. -/
def loadImage (image : Bytes) (m : Mach) : Mach :=
  match m.chip.hif.loads.find? (fun x => x.stage == 1) with
  | none => m
  | some ld =>
    let k : Fin 16 := Fin.ofNat 16 ld.slot
    let l := sectsOf ld.head ld.table
    let die := (m.chip.cmd? ld.cmd).map fun x => (portSkerry x.port).val
    let img := slice image 0 (fieldLe ld.head 8 8)
    let order := sortBy (fun a b => decide (a.off ≤ b.off)) l
    let r := order.foldl (fun (r : Mach × Option Nat) s =>
      match r.2 with
      | some _ => r
      | none => match loadSection k die l img s r.1 with
        | .ok x => (x, none)
        | .error e => (r.1, some e)) (m, none)
    match r.2 with
    | some e => r.1.on (Chip.loadFail k e)
    | none =>
      if !Chip.signatureOk ld img then r.1.on (Chip.loadFail k 0x0C)
      else r.1.on fun c => c.onHif fun h => { h with loads := h.loads.map (fun x => if x.slot == ld.slot then { x with stage := 2 } else x) }

/-- The granules that hold weights are mirrored whole, so that slot and slice are the same there byte for byte (R161, R162). -/
def mirrorImage (g : Fin 1024) (granules : List Nat) (m : Mach) : Mach :=
  match m.chip.tile[g].mirrorSlot with
  | some sl => each granules (fun (k : Nat) (x : Mach) => x.copyRaw (sliceAddr g + k * 0x10000) (mirrorAddr sl + k * 0x10000) 0x10000) m
  | none => m

/-- Step 4 of R230: programs, special registers and mirror maps are in place, R108 applied, the plan Ready. It waits for weights that are held with their
slice (R163). -/
def loadEnd (m : Mach) : Mach :=
  match m.chip.hif.loads.find? (fun x => x.stage == 2) with
  | none => m
  | some ld =>
    let k : Fin 16 := Fin.ofNat 16 ld.slot
    let imgs := m.chip.hif.plans[k].imgs
    if m.chip.held.any (fun h => regionOf h.addr == .sram && imgs.any (fun i => i.tile == (tileOfSram h.addr).val)) then m else
    let m := each imgs (fun (i : TileImg) (x : Mach) => x.mirrorImage (Fin.ofNat 1024 i.tile) i.granules) m
    let m1 := each imgs (fun (i : TileImg) (x : Mach) => x.on fun c => c.onTile (Fin.ofNat 1024 i.tile) fun t =>
      { t with plan := some k, mirror := i.granules.foldl (fun w b => setBit w b true) t.mirror }) m
    let m2 := each imgs (fun (i : TileImg) (x : Mach) => x.applyR108 (Fin.ofNat 1024 i.tile)) m1
    m2.on fun c =>
      ((c.onPlan k fun p => { p with st := .ready }).onHif fun h => { h with loads := h.loads.filter (fun x => x.slot != ld.slot) }).endCmd ld.cmd 0
        (handleOf k.val c.hif.plans[k].gen)

/-- Unloading ends: the tiles have no program and no mirrored granule, the copies are gone, the slot is Free (R231). -/
def unloadEnd (k : Fin 16) (m : Mach) : Mach :=
  let p := m.chip.hif.plans[k]
  if p.st ≠ .unloading then m
  else m.on fun c =>
    let c1 := each (Chip.planTiles p) (fun (g : Fin 1024) (d : Chip) => d.onTile g fun t =>
      { t with plan := none, mirror := 0, exec := .idle }) c
    let gone := fun (l : List (Nat × Nat × Nat)) => l.filter (fun (e : Nat × Nat × Nat) => e.1 != k.val)
    let c2 := ({ c1 with dsq := c1.dsq.map (fun (d : Dsq) => { d with pageIns := gone d.pageIns, waiters := gone d.waiters, used := gone d.used }) }).freePlan k
    let c3 := match p.unloader with | some id => c2.endCmd id 0 0 | none => c2
    copyGap c3

end Mach
end Sys2Proof.Machine
end

