-- ==== Sys2Proof/Machine/HostCmds.lean ====
section
/-!
DEFINITION. Host commands: fetch, the admin commands, NOP, COPY, RUN_PLAN, the plan runner, and links and hosts that fail (R183 to R234).
-/
namespace Sys2Proof.Machine
namespace Chip

/-! ### Fetch (R200 to R204, R222) -/

/-- The queue a port fetches from next (R204): its admin queue, else the highest class, within a class in turn. -/
def nextQueue (c : Chip) (p : Fin 2) : Option QRef :=
  let ready := fun (r : Ring) => r.sqHead != r.sqTail
  if c.servedQ (.admin p) && ready c.hif.port[p].aq.ring then some (.admin p)
  else
    let l := c.hif.queues.filter (fun (q : Queue) => q.port == p && decide (q.st = .active) && ready q.ring)
    let top := l.foldl (fun (a : Nat) (q : Queue) => max a q.cls) 0
    let slots := sortBy (fun a b => decide (a ≤ b)) ((l.filter (fun (q : Queue) => q.cls == top)).map (fun (q : Queue) => q.slot))
    let turn := c.hif.port[p].rr.toList.getD top 0
    ((slots.find? (fun s => decide (turn ≤ s))).or slots.head?).map (fun s => .io (BitVec.ofNat 18 s))

/-- The turn of a class moves past the queue served (R204). -/
def passTurn (p : Fin 2) (q : QRef) (c : Chip) : Chip :=
  match q with
  | .admin _ => c
  | .io s => match c.queue? s.toNat with
    | some x => c.onPort p fun y => { y with rr := updAll y.rr (fun i v => if i.val = x.cls then s.toNat + 1 else v) }
    | none => c

/-- The status that the state of its plan gives a RUN_PLAN when it is fetched (R212, R220): INVALID_HANDLE for a slot that is Free, BAD_STATE for a plan of the runner that
is Unloading, PLAN_STOPPED for one that is Stopped. -/
def runBar (c : Chip) (io : Bool) (entry : BitVec 512) : Nat :=
  if io && fld entry 0 8 == 0x22 then
    match c.planOf (fld entry 64 32) with
    | .error e => e
    | .ok k =>
      let p := c.hif.plans[k]
      if p.kind ≠ 2 then 0 else if p.st = .unloading then 6 else if p.st = .stopped then 0x0E else 0
  else 0

/-- An entry is fetched and meets checks 1 and 2 of R202. -/
def fetch (p : Fin 2) (entry : BitVec 512) (c : Chip) : Chip :=
  if !c.portUp p ∨ 4096 ≤ (c.hif.cmds.filter (fun (x : Cmd) => x.port == p)).length then c
  else match c.nextQueue p with
    | none => c
    | some q =>
      match c.ringOf q with
      | none => c
      | some r =>
        let c1 := ((c.passTurn p q).dmaIn p (r.sqBase + 64 * r.sqHead) 64).onRing q fun x => { x with sqHead := (x.sqHead + 1) % x.n }
        let x : Cmd := { id := c.hif.nextId, port := p, q := q, tag := fld entry 32 32, sqHead := (r.sqHead + 1) % r.n, entry := entry,
                         started := false, ended := none, detached := false,
                         late := decide (c.mod.st = .draining) || (decide (c.mod.st = .ochre) && decide (c.mod.before = .draining)),
                         serving := decide (c.mod.st = .serving), moved := 0, stopAt := none, part := [],
                         bar := c.runBar (match q with | .admin _ => false | .io _ => true) entry }
        let c2 := c1.onHif fun h => { h with cmds := h.cmds ++ [x], nextId := h.nextId + 1 }
        let st := firstChecks (match q with | .admin _ => true | .io _ => false) entry
        if st = 0 then c2 else c2.endCmd x.id st 0

/-! ### Admin commands (R208 to R216) -/

/-- The page of IDENTIFY (R210). -/
def identifyPage (c : Chip) (p : Fin 2) : Bytes :=
  let mask := fun (n : Nat) (f : Nat → Bool) => (List.range n).foldl (fun a k => if f k then a + 2 ^ k else a) 0
  let sk := mask 16 fun s => c.sk[(Fin.ofNat 16 s)].st ≠ .failed
  let dev := fun (d : Nat) => c.gmc.dev[(Fin.ofNat 24 d)].st == 2
  let plans := mask 16 fun k => c.hif.plans[(Fin.ofNat 16 k)].st ≠ .free
  let gddr := if c.packageMapped then ((List.range 24).filter dev).length * generalSize else 0
  let cxl := (c.cxl.win.toList.map (fun (w : CxlWin) => if w.enable && w.wstate == 1 then w.size * gib else 0)).foldl (· + ·) 0
  slice (bytesLe 2 pciId.device ++ bytesLe 1 pciId.revision ++ bytesLe 1 1 ++ wordBytes Config.serial ++ bytesLe 2 c.str.modId ++ bytesLe 1 p.val ++ bytesLe 1 0 ++
    bytesLe 4 (262144 - c.hif.queues.length) ++ bytesLe 2 sk ++ bytesLe 2 0 ++ bytesLe 4 (mask 24 dev) ++ bytesLe 2 plans ++ bytesLe 2 0 ++
    bytesLe 8 gddr ++ bytesLe 8 cxl) 0 4096

/-- IDENTIFY (R210). A misaligned offset breaks the field's encoding. -/
def identify (c : Chip) (x : Cmd) : Except Nat (Chip → Chip) :=
  match c.regionAt x.port (x.f 8 4) with
  | .error e => .error e
  | .ok r =>
    if x.f 16 8 % 4096 ≠ 0 then .error 2
    else if !r.holds (x.f 16 8) 4096 true then .error 8
    else .ok fun c => (c.dmaOut x.port (r.base + x.f 16 8) (c.identifyPage x.port) false).endCmd x.id 0 0

/-- Checks 3 and 4 over two handles: every handle is checked before any owner. -/
def twoRegions (c : Chip) (p : Fin 2) (a b : Nat) : Except Nat (Region × Region) :=
  match c.regionAt p a, c.regionAt p b with
  | .ok x, .ok y => .ok (x, y)
  | .error 3, _ | _, .error 3 => .error 3
  | _, _ => .error 4

/-- CREATE_QUEUE (R192, R194, R209). -/
def createQueue (c : Chip) (x : Cmd) : Except Nat (Chip → Chip) :=
  match c.twoRegions x.port (x.f 8 4) (x.f 12 4) with
  | .error e => .error e
  | .ok (a, b) =>
    let so := x.f 16 8
    let co := x.f 24 8
    let n := x.f 32 1
    let m := x.f 33 1
    let v := x.f 34 2
    if n < 4 ∨ 16 < n ∨ m < 4 ∨ 16 < m ∨ (2047 < v ∧ v ≠ 0xFFFF) ∨ so % 4096 ≠ 0 ∨ co % 4096 ≠ 0 then .error 2
    else if !a.holds so (64 * 2 ^ n) false ∨ !b.holds co (16 * 2 ^ m) true then .error 8
    else if 262144 ≤ c.hif.queues.length then .error 5
    else .ok fun c =>
      let slot := lowestFree (c.hif.queues.map (fun (q : Queue) => q.slot))
      let ring := { resetRing with sqBase := a.base + so, cqBase := b.base + co, n := 2 ^ n, m := 2 ^ m, vector := v, cnt := x.f 36 2, tim := x.f 38 2 }
      let q : Queue := { slot := slot, st := .active, port := x.port, cls := x.f 40 1, sqReg := x.f 8 4, cqReg := x.f 12 4, ring := ring, destroyer := none }
      (c.onHif fun h => { h with queues := h.queues ++ [q] }).endCmd x.id 0 (handleOf slot (spGet 1 slot c.hif.qgen))

/-- DESTROY_QUEUE (R199, R211). -/
def destroyCmd (c : Chip) (x : Cmd) : Except Nat (Chip → Chip) :=
  match c.queueOf x.port (x.f 8 4) with
  | .error e => .error e
  | .ok q =>
    match q.st with
    | .destroying => .error 6
    | _ => .ok fun c => c.destroyQueue x.id q.slot

/-- REGISTER_REGION (R216). -/
def registerRegion (c : Chip) (x : Cmd) : Except Nat (Chip → Chip) :=
  let base := x.f 8 8
  let len := x.f 16 8
  if base % 4096 ≠ 0 ∨ len % 4096 ≠ 0 ∨ len < 4096 ∨ 2 ^ 40 < len ∨ x.f 24 1 = 0 then .error 2
  else if 65536 ≤ c.hif.regions.length then .error 5
  else .ok fun c =>
    let slot := lowestFree (c.hif.regions.map (fun (r : Region) => r.slot))
    let r : Region := { slot := slot, port := x.port, base := base, len := len, rd := nbit (x.f 24 1) 0, wr := nbit (x.f 24 1) 1 }
    (c.onHif fun h => { h with regions := h.regions ++ [r] }).endCmd x.id 0 (handleOf slot (spGet 1 slot c.hif.rgen))

/-- The regions a command names. -/
def namesRegion (y : Cmd) (h : Nat) : Bool :=
  match y.q with
  | .admin _ => ((y.op == 1 || y.op == 2 || y.op == 5 || y.op == 6) && y.f 8 4 == h) || (y.op == 2 && y.f 12 4 == h)
  | .io _ => ((y.op == 0x21 || y.op == 0x49 || y.op == 0x4A) && y.f 8 4 == h) || (y.op == 0x45 && y.f 12 4 == h) || (y.op == 0x48 && y.f 20 4 == h)

/-- RELEASE_REGION frees the slot (R212); `rings` are the handles of the regions that hold token rings of Generating sequences (R245). -/
def releaseRegion (rings : List Nat) (c : Chip) (x : Cmd) : Except Nat (Chip → Chip) :=
  let h := x.f 8 4
  match c.regionAt x.port h with
  | .error e => .error e
  | .ok r =>
    if c.hif.queues.any (fun (q : Queue) => q.sqReg == h || q.cqReg == h) ∨ c.hif.cmds.any (fun (y : Cmd) => y.id != x.id && namesRegion y h) ∨
       rings.contains h then .error 0x0D
    else .ok fun c =>
      (c.onHif fun i => { i with regions := i.regions.filter (fun (y : Region) => y.slot != r.slot),
                                 rgen := spSet 1 r.slot (nextGen (spGet 1 r.slot i.rgen)) i.rgen }).endCmd x.id 0 0

/-- LOAD_PLAN, step 1 (R230): the header and the section table have been read. -/
def loadPlan (head table : Bytes) (c : Chip) (x : Cmd) : Except Nat (Chip → Chip) :=
  match c.regionAt x.port (x.f 8 4) with
  | .error e => .error e
  | .ok r =>
    let len := x.f 24 8
    if !r.holds (x.f 16 8) len false then .error 8
    else
      let st := c.loadCheck (!x.late && (x.serving || decide (c.mod.st = .serving))) len head (sectsOf head table)
      if st ≠ 0 then .error st
      else .ok fun c => (c.dmaIn x.port (r.base + x.f 16 8) len).loadBegin x.id head table

/-- UNLOAD_PLAN (R212, R231). -/
def unloadPlan (c : Chip) (x : Cmd) : Except Nat (Chip → Chip) :=
  match c.planOf (x.f 8 4) with
  | .error e => .error e
  | .ok k =>
    let p := c.hif.plans[k]
    let bound := c.seq.toList.any (fun (s : Seq) => decide (s.st ≠ .free) && (s.plan == k.val || s.draft == some k.val))
    if p.st = .loading ∨ p.st = .unloading then .error 6
    else if p.run.isSome ∨ bound ∨ c.dsq.toList.any (fun (d : Dsq) => d.runs k) then .error 0x0D
    else .ok fun c =>
      each (c.waitingRuns k) (fun (i : Nat) (d : Chip) => d.endCmd i 0x11 0) (c.onPlan k fun q => { q with st := .unloading, unloader := some x.id, queue := [] })

/-- SET_PERMISSION (R213). -/
def setPermission (c : Chip) (x : Cmd) : Except Nat (Chip → Chip) :=
  let v := x.f 8 1
  if 2 < v then .error 2
  else if c.mod.st = .ochre then .error 0x12
  else if v = 0 then .ok fun c => (c.endCmd x.id 0 0).withdraw 2
  else if c.grantOk v then .ok fun c => (c.grant v).endCmd x.id 0 0
  else .error 0x12

/-- ABORT (R214). -/
def abort (c : Chip) (x : Cmd) : Except Nat (Chip → Chip) :=
  match c.queueOf x.port (x.f 8 4) with
  | .error e => .error e
  | .ok q =>
    let mine := sortBy (fun (a b : Cmd) => decide (a.id ≤ b.id))
      (c.hif.cmds.filter (fun (y : Cmd) => decide (y.q = .io (BitVec.ofNat 18 q.slot)) && !y.detached && y.tag == x.f 12 4 && y.ended.isNone))
    let hit := (mine.find? (fun (y : Cmd) => !y.started || c.inPlanQueue y.id)).or (mine.find? (fun (y : Cmd) => y.op == 0x21 && y.stopAt.isNone))
    .ok fun c => match hit with
      | some y => (if y.op = 0x21 ∧ y.started then c.stopCopy y.id else (c.dropPlanQueue [y.id]).endCmd y.id 0x11 0).endCmd x.id 0 1
      | none => c.endCmd x.id 0 0

/-- EVENT_REQUEST (R215). -/
def eventRequest (c : Chip) (x : Cmd) : Except Nat (Chip → Chip) :=
  let p := x.port
  if 8 ≤ c.hif.port[p].evReq.length then .error 5
  else .ok fun c => match c.hif.port[p].evQ with
    | w :: rest => (c.onPort p fun y => { y with evQ := rest }).deliverEvent p x.id w
    | [] => c.onPort p fun y => { y with evReq := y.evReq ++ [x.id] }

/-! ### RUN_PLAN and the plan runner (R219, R220, R222) -/

/-- RUN_PLAN takes its place in its plan's queue, unless its plan's state when it was fetched has decided it. -/
def runPlan (c : Chip) (x : Cmd) : Except Nat (Chip → Chip) :=
  if x.bar ≠ 0 then .error x.bar else
  match c.planOf (x.f 8 4) with
  | .error e => .error e
  | .ok k =>
    let p := c.hif.plans[k]
    if p.kind ≠ 2 then .error 2
    else if x.late ∨ p.st = .loading ∨ p.st = .unloading then .error 6
    else if p.st = .stopped then .error 0x0E
    else .ok fun c => c.onPlan k fun q => { q with queue := insertNat x.id q.queue }

/-- A step of a runner plan ends (R219). -/
def stepDone (k : Fin 16) (c : Chip) : Chip :=
  match c.hif.plans[k].run with
  | some r =>
    if c.hif.plans[k].st = .ready ∧ r.waiting = [] ∧ !r.aborted then (c.onPlan k fun p => { p with run := none }).endCmd r.cmd 0 0 else c
  | none => c

/-- Pending vectors that are no longer masked are sent (R206). -/
def sendPending (p : Fin 2) (c : Chip) : Chip :=
  each c.hif.port[p].pba (fun (v : Nat) (d : Chip) => d.msiX p v) (if c.hif.port[p].fn.msixOn then c.onPort p fun x => { x with pba := [] } else c)

/-- The link of a host port trains, and its host sets the function's configuration (R184, R186, R234, log 33); or the link is lost. -/
def portTrained (p : Fin 2) (width : Nat) (fn : PciFn) (c : Chip) : Chip :=
  if c.railsOn && c.lit (6 + p.val) && (width == 4 || width == 8 || width == 16) && (fn.payload == 128 || fn.payload == 256 || fn.payload == 512) &&
      decide (fn.readReq ≤ 4096) then
    (c.onPort p fun x => { x with st := if x.st = 2 then 2 else 1, width := width, speed := if fn.fast then 6 else 5, fn := fn }).sendPending p
  else c
def portLost (p : Fin 2) (c : Chip) : Chip := c.onPort p fun x => { x with st := if x.st = 2 then 2 else 0, width := 0, speed := 0 }

end Chip

namespace Mach

/-- The handle of the region that holds a sequence's token ring (R237). -/
def ringRegion (m : Mach) (s : Fin 128) : Nat := m.ctx s 8 4

/-- A fetched command takes effect on module memory, or fails. -/
def runCmd (x : Cmd) (r : Except Nat (Mach → Mach)) (m : Mach) : Mach :=
  match r with
  | .error st => m.on fun c => c.endCmd x.id st 0
  | .ok f => f (m.on (Chip.startCmd x.id))

/-- RELEASE_REGION with the token rings of Generating sequences (R212, R245). -/
def release (id : Nat) (m : Mach) : Mach :=
  match m.chip.take 5 id with
  | some x =>
    let rings := ((fins 128).filter (fun s => m.chip.seq[s].st = .generating)).map m.ringRegion
    m.on (Chip.run x (Chip.releaseRegion rings m.chip x))
  | none => m

/-- RESTART_PLAN (R221). -/
def restartPlan (m : Mach) (x : Cmd) : Except Nat (Mach → Mach) :=
  match m.chip.planOf (x.f 8 4) with
  | .error e => .error e
  | .ok k =>
    let p := m.chip.hif.plans[k]
    if p.st ≠ .stopped then .error 6
    else if (fins 16).any (fun s => bit p.mask s.val && decide (m.chip.sk[s].st = .failed)) then .error 0x15
    else if p.copies = [] then .error 0x0A
    else .ok fun m =>
      let m1 := m.on fun c => (c.dropSteps k).onPlan k fun q => { q with st := .ready, run := none }
      (each (Chip.planTiles p) (fun (g : Fin 1024) (y : Mach) => y.applyR108 g) m1).on fun c => c.endCmd x.id 0 0

/-! ### COPY (R218) -/

/-- The checks of COPY. -/
def copyCheck (m : Mach) (x : Cmd) : Except Nat (Region × Nat) :=
  let len := x.f 32 8
  match m.chip.regionAt x.port (x.f 8 4) with
  | .error e => .error e
  | .ok r =>
    if len = 0 ∨ 2 ^ 40 < len then .error 2
    else match m.chip.localOf (x.f 24 8) with
      | none => .error 7
      | some a =>
        if !m.chip.rangeMapped a len then .error 7
        else if !r.holds (x.f 16 8) len (x.f 12 1 == 1) then .error 8
        else if x.late then .error 6
        else .ok (r, a)

/-- The pieces of a range that its uncorrectable units cut it into: offset, length, poisoned. -/
def poisonPieces (m : Mach) (a n : Nat) : List (Nat × Nat × Bool) :=
  let bad := m.badUnits a n
  if bad.isEmpty then [(a, n, false)]
  else (List.range ((a + n - 1) / 64 - a / 64 + 1)).map fun k =>
    let u := (a / 64 + k) * 64
    (max a u, min (a + n) (u + 64) - max a u, bad.contains u)

/-- Module to host: every unit goes out, the uncorrectable ones with the poisoned bit and bytes the spec does not give (R218). -/
def copyOut (x : Cmd) (r : Region) (a : Nat) (m : Mach) : Mach :=
  let n := x.f 32 8
  let bad := (m.badUnits a n).length
  let dst := r.base + x.f 16 8
  (each (m.poisonPieces a n) (fun (p : Nat × Nat × Bool) (y : Mach) =>
    let data := if p.2.2 then (List.range p.2.1).map (fun i => Config.freeByte (y.chip.free + i)) else y.read p.1 p.2.1
    y.on fun c => ({ c with free := if p.2.2 then c.free + p.2.1 else c.free }).dmaOut x.port (dst + (p.1 - a)) data p.2.2) m).on fun c =>
      c.endCmd x.id (if bad = 0 then 0 else 0x0A) (min bad 0xFFFFFFFF)

/-- COPY starts: towards the host it runs, unless a slice is held (R163); from the host it reads host memory first. -/
def copy (id : Nat) (m : Mach) : Mach :=
  match m.chip.take 0x21 id with
  | none => m
  | some x =>
    match m.copyCheck x with
    | .error e => m.on fun c => (if e = 7 ∧ x.f 12 1 = 0 then match c.localOf (x.f 24 8) with | some a => c.refusedWrite a (x.f 32 8) | none => c else c).endCmd id e 0
    | .ok (r, a) =>
      if !m.chip.portUp x.port then m
      else if x.f 12 1 = 0 then m.on fun c => (c.startCmd id).dmaIn x.port (r.base + x.f 16 8) (x.f 32 8)
      else if m.chip.holds (some (portSkerry x.port).val) a (x.f 32 8) then m
      else copyOut x r a ((m.met a (x.f 32 8)).on (Chip.startCmd id))

/-- How much of the bytes that a COPY has at hand can be written at an address: all that its transfer still needs, or up to the last whole 16-byte unit, so that an
error later leaves every unit old or new (R218). -/
def copyStep (dst have' rest : Nat) : Nat := if rest ≤ have' then rest else (dst + have') / 16 * 16 - dst

/-- The next host data of a COPY arrives: it is written, or held with its slice, in whole 16-byte units up to the end of the transfer (R163, R214, R218). -/
def copyIn (x : Cmd) (data : Bytes) (m : Mach) : Mach :=
  match m.chip.localOf (x.f 24 8) with
  | none => m.on fun c => c.endCmd x.id 7 0
  | some a =>
    let n := x.f 32 8
    if !m.chip.rangeMapped a n then m.on fun c => (c.lostWrite a).endCmd x.id 7 0
    else
      let have' := x.part ++ data
      let k := copyStep (a + x.moved) have'.length (Chip.copyGoal x - x.moved)
      ((m.store (.copy x.id) (some (portSkerry x.port).val) (a + x.moved) (slice have' 0 k)).on (Chip.onCmd x.id fun y => { y with moved := y.moved + k, part := have'.drop k })).on
        (Chip.copyDone x.id)

/-- The host answers a DMA read of a command, or a ring or write access of it fails (R218, R230, R231). -/
def dmaDone (cid : Nat) (d : DmaResult) (m : Mach) : Mach :=
  match m.chip.cmd? cid with
  | none => m
  | some x =>
    let fail := fun (y : Mach) => (y.on (Chip.dmaError x.port)).on fun c =>
      match c.hif.loads.find? (fun l => l.cmd == cid) with
      | some l => c.loadFail (Fin.ofNat 16 l.slot) 9
      | none => c.endCmd cid 9 0
    if !m.chip.portUp x.port ∨ x.ended.isSome then m
    else match d with
      | .data b => if x.op = 0x21 ∧ x.started ∧ x.f 12 1 = 0 then m.copyIn x b else m
      | .error | .poisoned =>
        if (x.op = 0x21 ∧ x.started) ∨ (m.chip.hif.loads.any (fun l => l.cmd == cid && l.stage == 1)) ∨ (x.op = 6 ∧ m.chip.canStart x) ∨ (x.op = 1 ∧ m.chip.canStart x)
        then fail m else m

/-! ### The plan runner (R219, R220) -/

/-- The runner starts the oldest RUN_PLAN of a plan, unless one fetched earlier still waits in its queue. A plan with a faulted tile starts it aborted (R84); one with a tile in exception stops. -/
def runnerStart (k : Fin 16) (m : Mach) : Mach :=
  let p := m.chip.hif.plans[k]
  match p.queue with
  | [] => m
  | id :: rest =>
    match m.chip.cmd? id with
    | none => m
    | some x =>
      if p.st ≠ .ready ∨ p.run.isSome ∨ m.chip.hif.cmds.any (fun y => decide (y.id < id) && !y.started && m.chip.runsPlan k y) then m
      else
        let words := Vector.ofFn (fun (i : Fin 4) => BitVec.ofNat 64 (x.f (16 + 8 * i.val) 8))
        let whole := m.planWhole k
        let r : RunStep := { cmd := id, words := words, timeout := x.f 48 4, waiting := p.schedule, aborted := !whole }
        let m1 := m.on fun c =>
          let c1 := c.onPlan k fun q => { q with queue := rest, run := some r, serial := q.serial + 1 }
          if whole then c1.sendStarts .runner k words else c1
        match p.schedule.find? (fun g => decide (m.chip.tile[(Fin.ofNat 1024 g)].exec = .exception)) with
        | some g => m1.planStop k 0x0F g
        | none => m1

/-- The timeout of a running step elapses (R220). -/
def runnerTimeout (k : Fin 16) (m : Mach) : Mach :=
  match m.chip.hif.plans[k].run with
  | some r => if r.timeout ≠ 0 ∧ !r.aborted then m.planStop k 0x10 0 else m
  | none => m

/-! ### A host fails (R232, R233, R269) -/

/-- Whether a sequence depends on a port: its GENERATE came from a queue of it, or its token ring lies in a region of it (R236). -/
def dependsOn (m : Mach) (p : Fin 2) (s : Fin 128) : Bool :=
  (match m.chip.seq[s].cmd with | some id => (m.chip.cmd? id).any (fun x => x.port == p) | none => false) ||
    (match m.chip.regionLive (m.ringRegion s) with | some r => r.port == p | none => false)

/-- Steps 1 to 4 of R233; the port's own registers and its configuration space are reset (R435). -/
def hostFail (p : Fin 2) (m : Mach) : Mach :=
  if !m.chip.railsOn ∨ m.chip.hif.port[p].st = 2 then m
  else
    let deps := (fins 128).filter (fun s => decide (m.chip.seq[s].st = .generating) && m.dependsOn p s)
    m.on fun c =>
      let c1 := (c.onPort p fun x => { x with st := 2 }).faultSummary (portSkerry p) 8 p.val 1
      let slots := (c1.hif.queues.filter (fun (q : Queue) => q.port == p)).map (fun (q : Queue) => q.slot)
      let c2 := each slots (fun (s : Nat) (d : Chip) => (d.cutQueue (.io (BitVec.ofNat 18 s))).freeQueue s) (c1.cutQueue (.admin p))
      let c3 := c2.onHif fun h =>
        { h with cmds := (h.cmds.filter (fun (x : Cmd) => x.port != p || (x.started && !(x.op == 0x21 && x.stopAt.isSome)))).map (fun (x : Cmd) => { x with detached := x.detached || x.port == p }),
                 rgen := (h.regions.filter (fun (r : Region) => r.port == p)).foldl (fun g (r : Region) => spSet 1 r.slot (nextGen (spGet 1 r.slot g)) g) h.rgen,
                 regions := h.regions.filter (fun (r : Region) => r.port != p) }
      let mine := fun (l : Load) => l.stage == 1 && (c3.cmd? l.cmd).any (fun x => x.port == p)
      let c4 := each (c3.hif.loads.filter mine) (fun (l : Load) (d : Chip) => d.loadFail (Fin.ofNat 16 l.slot) 9) c3
      let c5 := each deps (fun (s : Fin 128) (d : Chip) =>
        let d1 := match d.seq[s].cmd with | some id => d.onCmd id (fun y => { y with detached := true }) | none => d
        d1.loosen s) c4
      let c6 := c5.onPort p fun x => { x with fn := resetPciFn, aq := resetAdminQ, msix := [], pba := [], evReq := [], evQ := [], evLost := false }
      let q := other p
      let c7 := if c6.portUp q then c6.postEvent q (Chip.eventWord 3 0 p.val 0) else c6
      (c7.hifErr (5 + p.val)).endRoles (fun cl => decide (cl.path = if p = 0 then .pcie0 else .pcie1)) 5

/-- Step 5 of R233: what still ran for the failed host is cut off. -/
def hostCleaned (p : Fin 2) (m : Mach) : Mach :=
  if m.chip.hif.port[p].st ≠ 2 then m
  else
    let due := (fins 128).filter (fun s => m.chip.seq[s].loose &&
      ((match m.chip.seq[s].cmd with | some id => (m.chip.cmd? id).any (fun x => x.port == p) | none => false) || (m.chip.regionLive (m.ringRegion s)).isNone))
    m.on fun c => (each due (fun (s : Fin 128) (d : Chip) => d.dropGen s) c).onPort p fun x => { x with st := if x.width = 0 then 0 else 1 }

end Mach

/-- A command fetched under an id has its effect when it can start. -/
def onTaken (op id : Nat) (f : Chip → Cmd → Except Nat (Chip → Chip)) (s : State) : Host.Outcome State Fault Refusal :=
  onChip (fun c => match c.take op id with | some x => c.run x (f c x) | none => c) s

def execCommandFetch (p : Fin 2) (entry : BitVec 512) (s : State) : Host.Outcome State Fault Refusal := onChip (Chip.fetch p entry) s
def execCompletionWrite (cid : Nat) (s : State) : Host.Outcome State Fault Refusal := onChip (Chip.complete cid) s
def execInterruptTimerExpiry (q : QRef) (s : State) : Host.Outcome State Fault Refusal :=
  onChip (fun c => if (c.ringOf q).any (fun r => decide (0 < r.unsig)) then c.signalRing q else c) s
def execSubmissionTailDoorbell (hp : Fin 2) (q : QRef) (value : W32) (s : State) : Host.Outcome State Fault Refusal :=
  onChip (Chip.doorbell hp q true value) s
def execCompletionHeadDoorbell (hp : Fin 2) (q : QRef) (value : W32) (s : State) : Host.Outcome State Fault Refusal :=
  onChip (Chip.doorbell hp q false value) s

namespace Chip
/-- A write of a per-port register comes through its own port (R234). -/
def perPort (hp p : Fin 2) (f : Chip → Chip) (c : Chip) : Chip := if !c.portUp hp then c else if hp = p then f c else c.hifRefused
end Chip

def execAqEnable (hp : Fin 2) (p : Fin 2) (value : W32) (s : State) : Host.Outcome State Fault Refusal :=
  onChip (Chip.perPort hp p (Chip.aqCfg p value)) s
def execAqDisable (hp : Fin 2) (p : Fin 2) (value : W32) (s : State) : Host.Outcome State Fault Refusal :=
  onChip (Chip.perPort hp p (Chip.aqCfg p value)) s
def execQueueStop (q : QRef) (s : State) : Host.Outcome State Fault Refusal := onChip (Chip.queueStop q) s
def execQueueFreed (q : QRef) (s : State) : Host.Outcome State Fault Refusal := onChip (Chip.queueFreed q) s
def execIdentify (cid : Nat) (s : State) : Host.Outcome State Fault Refusal := onTaken 1 cid Chip.identify s
def execCreateQueue (cid : Nat) (s : State) : Host.Outcome State Fault Refusal := onTaken 2 cid Chip.createQueue s
def execDestroyQueue (cid : Nat) (s : State) : Host.Outcome State Fault Refusal := onTaken 3 cid Chip.destroyCmd s
def execRegisterRegion (cid : Nat) (s : State) : Host.Outcome State Fault Refusal := onTaken 4 cid Chip.registerRegion s
def execReleaseRegion (cid : Nat) (s : State) : Host.Outcome State Fault Refusal := onMach (Mach.release cid) s
def execLoadPlan (cid : Nat) (head : Bytes) (table : Bytes) (s : State) : Host.Outcome State Fault Refusal :=
  onTaken 6 cid (Chip.loadPlan head table) s
def execPlanImageReadDone (image : Bytes) (s : State) : Host.Outcome State Fault Refusal := onMach (Mach.loadImage image) s
def execPlanLoadComplete (s : State) : Host.Outcome State Fault Refusal := onMach Mach.loadEnd s
def execUnloadPlan (cid : Nat) (s : State) : Host.Outcome State Fault Refusal := onTaken 7 cid Chip.unloadPlan s
def execUnloadComplete (plan : Fin 16) (s : State) : Host.Outcome State Fault Refusal := onMach (Mach.unloadEnd plan) s
def execRestartPlan (cid : Nat) (s : State) : Host.Outcome State Fault Refusal :=
  onMach (fun m => match m.chip.take 8 cid with | some x => m.runCmd x (m.restartPlan x) | none => m) s
def execSetPermission (cid : Nat) (s : State) : Host.Outcome State Fault Refusal := onTaken 9 cid Chip.setPermission s
def execAbort (cid : Nat) (s : State) : Host.Outcome State Fault Refusal := onTaken 0x0A cid Chip.abort s
def execEventRequest (cid : Nat) (s : State) : Host.Outcome State Fault Refusal := onTaken 0x0B cid Chip.eventRequest s
def execIoNop (cid : Nat) (s : State) : Host.Outcome State Fault Refusal := onTaken 0x20 cid (fun _ x => .ok fun c => c.endCmd x.id 0 0) s
def execCopy (cid : Nat) (s : State) : Host.Outcome State Fault Refusal := onMach (Mach.copy cid) s
def execRunPlan (cid : Nat) (s : State) : Host.Outcome State Fault Refusal := onTaken 0x22 cid Chip.runPlan s
def execRunnerStepStart (plan : Fin 16) (s : State) : Host.Outcome State Fault Refusal := onMach (Mach.runnerStart plan) s
def execRunnerStepComplete (plan : Fin 16) (s : State) : Host.Outcome State Fault Refusal := onChip (Chip.stepDone plan) s
def execRunPlanTimeout (plan : Fin 16) (s : State) : Host.Outcome State Fault Refusal := onMach (Mach.runnerTimeout plan) s
def execHostDmaCompletion (cid : Nat) (data : DmaResult) (s : State) : Host.Outcome State Fault Refusal := onMach (Mach.dmaDone cid data) s
def execHostCleanupDone (p : Fin 2) (s : State) : Host.Outcome State Fault Refusal := onMach (Mach.hostCleaned p) s
def execHostLinkUp (p : Fin 2) (width : Nat) (fn : PciFn) (s : State) : Host.Outcome State Fault Refusal := onChip (Chip.portTrained p width fn) s
def execHostLinkDown (p : Fin 2) (s : State) : Host.Outcome State Fault Refusal := onChip (Chip.portLost p) s

end Sys2Proof.Machine
end

