-- ==== Sys2Proof/Machine/Sampler.lean ====
section
/-!
DEFINITION. The sampler of a decode sequencer, its generator and the grammar automata (R256 to R260).
-/
namespace Sys2Proof.Machine

/-- The 24-bit draw of a position (R256): z of R69 after its fourth line. -/
def drawU (seed p : W64) : Nat :=
  let z := seed + (p + 1) * 0x9E3779B97F4A7C15
  let z := (z ^^^ (z >>> 30)) * 0xBF58476D1CE4E5B9
  let z := (z ^^^ (z >>> 27)) * 0x94D049BB133111EB
  let z := z ^^^ (z >>> 31)
  (z >>> 40).toNat

/-- The value order of FP32 words that are no NaN; the two zeros are equal. -/
def rank32 (w : W32) : Int := if bit w 31 then -(fld w 0 31 : Int) else (fld w 0 31 : Int)
def ninf32 : W32 := inf32 true
def isNan32 (w : W32) : Bool := (dec32 w).isNan
/-- Whether a word is greater than or equal to 1, and whether it is finite. -/
def geOne (w : W32) : Bool := !isNan32 w && decide (rank32 0x3F800000 ≤ rank32 w)
def finite32 (w : W32) : Bool := fld w 23 8 != 255

/-- The context fields a sampler uses (R237). -/
structure SampCtx where
  seed : W64
  temp : W32
  topP : W32
  penalty : W32
  topK : Nat
  window : Nat
deriving DecidableEq, Repr

/-- A state of an automaton: ACCEPT and its edges FIRST, LAST, NEXT (R258). -/
structure GState where
  accept : Bool
  edges : List (Nat × Nat × Nat)
deriving DecidableEq, Repr

/-- The index of the first entry with the largest value. -/
def argMax (xs : List W32) : Nat :=
  (xs.zipIdx.foldl (fun (b : Option (W32 × Nat)) (e : W32 × Nat) =>
    match b with
    | none => some e
    | some v => if rank32 v.1 < rank32 e.1 then some e else b) none).elim 0 (·.2)

/-- Whether an automaton state allows a token (R259). -/
def GState.allows (g : GState) (stops : List Nat) (t : Nat) : Bool :=
  if stops.contains t then g.accept else g.edges.any (fun e => decide (e.1 ≤ t) && decide (t ≤ e.2.1))
/-- The state a committed token leads to (R259). -/
def GState.next (g : GState) (stops : List Nat) (cur t : Nat) : Nat :=
  if stops.contains t then cur else ((g.edges.find? (fun e => decide (e.1 ≤ t) && decide (t ≤ e.2.1))).map (fun e => e.2.2)).getD cur

/-- The draw over the kept candidates, in order, with their weights (R257). -/
def pickToken (u : Nat) (k : List Nat) (e : List W32) (s : W32) : Nat :=
  let target := (fmul (rnd32 false u 1 (-24)).1 s).1
  let r := (k.zip e).foldl (fun (r : W32 × Option Nat) (x : Nat × W32) =>
    match r.2 with
    | some _ => r
    | none =>
      let c := (fadd r.1 x.2).1
      if rank32 target < rank32 c then (c, some x.1) else (c, none)) ((0 : W32), none)
  r.2.getD (k.getLastD 0)

/-- How many candidates top-p keeps (R257). -/
def topPCount (lim : W32) (e : List W32) : Nat :=
  (e.foldl (fun (r : W32 × Nat × Bool) x =>
    if r.2.2 then r else
      let c := (fadd r.1 x).1
      (c, r.2.1 + 1, decide (rank32 lim ≤ rank32 c))) ((0 : W32), 0, false)).2.1

/-- The token drawn from logits for a position; `none` for no_token (R257). -/
def drawToken (x : SampCtx) (p : Nat) (logits : List W32) (allowed : Nat → Bool) (recent : List Nat) : Option Nat :=
  let a := logits.zipIdx.map (fun (e : W32 × Nat) => if isNan32 e.1 || !allowed e.2 then ninf32 else e.1)
  let b := a.zipIdx.map (fun (e : W32 × Nat) =>
    if recent.contains e.2 then (if 0 < rank32 e.1 then (fdiv e.1 x.penalty).1 else (fmul e.1 x.penalty).1) else e.1)
  if b.all (fun v => v == ninf32) then none
  else if rank32 x.temp = 0 then some (argMax b)
  else
    let z := b.map (fun v => (fdiv v x.temp).1)
    if z.all (fun v => v == ninf32) || z.any (fun v => v == inf32 false) then some (argMax b)
    else
      let live := z.zipIdx.filter (fun (e : W32 × Nat) => e.1 != ninf32)
      let plain := decide (x.topK = 0) && geOne x.topP
      let kk := if 0 < x.topK then x.topK else 1024
      let kept := if plain then live else (sortBy (fun a b => decide (rank32 b.1 ≤ rank32 a.1)) live).take kk
      let m := (kept.map (fun (e : W32 × Nat) => e.1)).getD (argMax (kept.map (fun (e : W32 × Nat) => e.1))) 0
      let e := kept.map (fun (v : W32 × Nat) => (sfu 0 (fsub v.1 m).1).1)
      let sum := fun (l : List W32) => l.foldl (fun s v => (fadd s v).1) (0 : W32)
      let n := if geOne x.topP then e.length else topPCount (fmul x.topP (sum e)).1 e
      some (pickToken (drawU x.seed (BitVec.ofNat 64 p)) ((kept.map (fun (v : W32 × Nat) => v.2)).take n) (e.take n) (sum (e.take n)))

namespace Mach

/-- The sampler settings of a sequence's context. -/
def sampCtx (m : Mach) (s : Fin 128) : SampCtx :=
  { seed := BitVec.ofNat 64 (m.ctx s 56 8), temp := BitVec.ofNat 32 (m.ctx s 64 4), topP := BitVec.ofNat 32 (m.ctx s 68 4),
    penalty := BitVec.ofNat 32 (m.ctx s 72 4), topK := m.ctx s 76 2, window := m.ctx s 78 2 }
/-- The stop tokens of a sequence. -/
def stopTokens (m : Mach) (s : Fin 128) : List Nat := ((List.range 8).map (fun i => m.ctx s (96 + 4 * i) 4)).filter (· != 0xFFFFFFFF)

/-- The header of an automaton keeps R258. -/
def grammarHead (m : Mach) (a : Nat) : Bool :=
  let f := fun (o n : Nat) => m.readNat (a + o) n
  f 0 4 == 0x4D415247 && f 4 2 == 1 && f 6 2 == 0 && decide (1 ≤ f 8 4) && decide (f 8 4 ≤ 65536) && decide (f 12 4 ≤ 16777216) && f 16 8 % 8 == 0 &&
    f 24 8 % 8 == 0 && inTableArea (a + f 16 8) (8 * f 8 4) && inTableArea (a + f 24 8) (8 * f 12 4)

/-- A state of an automaton as the sequencer reads it; `none` where it breaks R258. -/
def gState (m : Mach) (a st vocab : Nat) : Option GState :=
  let states := m.readNat (a + 8) 4
  let edges := m.readNat (a + 12) 4
  let w := m.word (a + m.readNat (a + 16) 8 + 8 * st)
  let n := fld w 32 19
  let first := fld w 0 32
  let es := (List.range n).map (fun i => m.word (a + m.readNat (a + 24) 8 + 8 * (first + i)))
  let ok := m.grammarHead a && decide (st < states) && fld w 51 12 == 0 && decide (n ≤ 262144) && decide (first + n ≤ edges) &&
    es.all (fun (e : W64) => fld e 52 12 == 0 && decide (fld e 0 18 ≤ fld e 18 18) && decide (fld e 18 18 < vocab) && decide (fld e 36 16 < states)) &&
    (es.zip (es.drop 1)).all (fun (p : W64 × W64) => decide (fld p.1 18 18 < fld p.2 0 18))
  if ok then some { accept := bit w 63, edges := es.map (fun (e : W64) => (fld e 0 18, fld e 18 18, fld e 36 16)) } else none

/-- The automaton state a sequence is in after a path of tokens; the error is GRAMMAR_INVALID. -/
def gWalk (m : Mach) (s : Fin 128) (vocab : Nat) (path : List Nat) : Except Nat Nat :=
  path.foldl (fun (r : Except Nat Nat) t =>
    match r with
    | .error e => .error e
    | .ok st => match m.gState (m.ctx s 48 8) st vocab with
      | some g => .ok (g.next (m.stopTokens s) st t)
      | none => .error 0x0104) (.ok (m.ctx s 92 4))

/-- A row sampled (R257): position, place of its logits, the tokens already accepted in this step. The error is the status that ends the
sequence. -/
def sample (m : Mach) (s : Fin 128) (at' vocab p : Nat) (path : List Nat) : Except Nat Nat :=
  let x := m.sampCtx s
  let logits := (List.range vocab).map (fun t => BitVec.ofNat 32 (m.readNat (at' + 4 * t) 4))
  let base := p - path.length
  let recent := ((List.range (min p x.window)).map (fun i =>
    let q := p - min p x.window + i
    if q < base then m.readNat (m.ctx s 40 8 + 4 * q) 4 else path.getD (q - base) 0))
  let out := fun (f : Nat → Bool) => match drawToken x p logits f recent with | some t => Except.ok t | none => Except.error 0x0105
  if nbit (m.ctx s 13 1) 0 then
    match m.gWalk s vocab path with
    | .error e => .error e
    | .ok st => match m.gState (m.ctx s 48 8) st vocab with
      | none => .error 0x0104
      | some g => out (g.allows (m.stopTokens s))
  else out (fun _ => true)

/-- The stop reason that a token meets, 0 for none (R260): the automaton state it leads to, tokens made by the GENERATE with it, TOKENS with it. -/
def stopReason (m : Mach) (s : Fin 128) (vocab t st made tokens : Nat) : Nat :=
  let last := nbit (m.ctx s 13 1) 0 && (match m.gState (m.ctx s 48 8) st vocab with | some g => g.accept && g.edges.isEmpty | none => false)
  if (m.stopTokens s).contains t then 1
  else if last then 2
  else if m.chip.seq[s].limit ≤ made then 3
  else if m.ctx s 80 4 ≤ tokens then 4
  else 0

end Mach
end Sys2Proof.Machine
end

