-- ==== Sys2Proof/Machine/SeqCmds.lean ====
section
/-!
DEFINITION. Sequences: contexts, the sequence commands, frame pools, and the shadow on the partner (R235 to R247, R261, R264, R265, R302 to R305).
-/
namespace Sys2Proof.Machine

namespace Chip

/-- A frame entry that ADD_FRAMES takes (R173, R264): 0, or the status that refuses it. -/
def frameOk (c : Chip) (shift : Nat) (w0 w1 : W64) : Nat :=
  let frame := fld w0 0 48
  let tier := fld w0 56 2
  let size := 2 ^ shift
  if !bit w0 63 ∨ bit w0 62 ∨ w0 &&& 0x3CFF000000000000 ≠ 0 ∨ tier = 3 ∨ frame % size ≠ 0 then 2
  else if tier = 0 then
    if w1 &&& 0x7FFF000000000000 ≠ 0 ∨ fld w1 0 48 % size ≠ 0 then 2
    else if regionOf frame ≠ .sram ∨ frame / sliceSize ≠ (frame + size - 1) / sliceSize ∨ !bit w1 63 ∨ !inGeneral (fld w1 0 48) size ∨
      !c.rangeMapped frame size ∨ !c.rangeMapped (fld w1 0 48) size then 7
    else 0
  else if tier = 1 then (if inGeneral frame size ∧ c.rangeMapped frame size then 0 else 7)
  else 7
/-- A leaf entry that ADD_FRAMES takes (R264). -/
def leafOk (c : Chip) (w0 w1 : W64) : Nat :=
  let leaf := fld w0 0 48
  if w1 ≠ 0 ∨ w0 &&& 0x7CFF000000000000 ≠ 0 ∨ fld w0 56 2 = 3 ∨ leaf % 4096 ≠ 0 then 2
  else if 1 < fld w0 56 2 ∨ tierOf leaf ≠ some (fld w0 56 2) ∨ !inTableArea leaf 4096 ∨ !c.rangeMapped leaf 4096 then 7
  else 0

/-- Stepping of a plan begins (R268): announced with its lead, for which the plan's first step is held, in whole base ticks (log 48). -/
def startOf (n : Fin 4) (k : Fin 16) (c : Chip) : Chip :=
  let c1 := c.announceDsq n (c.powerStep k.val) c.dsq[n].lead
  if c.dsq[n].loadEn then c1.onPlan k fun p => { p with holdTo := c.time + (c.dsq[n].lead + 99) / 100 } else c1

/-- A tree keeps R261 but for node 0, which is checked when the step is built (R262). -/
def treeOk (vocab : Nat) (t : List (Nat × Nat)) : Bool :=
  decide (1 ≤ t.length) && decide (t.length ≤ 64) && (t.drop 1).all (fun e => decide (e.1 < vocab)) &&
    (t.zipIdx.drop 1).all (fun (e : (Nat × Nat) × Nat) => decide (e.1.2 < e.2)) &&
    (t.drop 1).all (fun a => ((t.drop 1).filter (fun b => b == a)).length == 1)

/-- A tree's nodes from its bytes: token and parent; `none` where a reserved byte is set. -/
def treeNodes (n : Nat) (b : Bytes) : Option (List (Nat × Nat)) :=
  if (List.range n).any (fun i => fieldLe b (8 * i + 5) 3 != 0) then none
  else some ((List.range n).map (fun i => (fieldLe b (8 * i) 4, fieldLe b (8 * i + 4) 1)))

/-- The lowest free slot among the sequencers allowed. -/
def freeSeq (c : Chip) (allow : Nat) : Option (Fin 128) :=
  (fins 128).find? (fun s => decide (c.seq[s].st = .free) && (allow == 0 || nbit allow (s.val / 32)) && !c.dsq[dsqOf s].failed)

end Chip

namespace Mach

/-- What a context names once it passes its checks: plan, draft plan. -/
structure CtxNames where
  plan : Fin 16
  draft : Option (Fin 16)
deriving DecidableEq, Repr

/-- An area a context names: alignment, place, mapping. -/
def areaOk (m : Mach) (a n al : Nat) : Bool := a % al == 0 && inTableArea a n && m.chip.rangeMapped a n

/-- Reserved bits of a context (R237). -/
def ctxReserved (m : Mach) (x : Nat) : Bool :=
  decide (8 ≤ m.readNat (x + 13) 1) || decide (2 ≤ m.readNat (x + 15) 1) || (m.read (x + 152) 104).any (· != 0)

/-- The values of a context (R237, R238); the module's own fields count unless a fork sets them. HISTORY, an array of words, lies on a multiple of 4 (DESIGN CHOICE, log 53:
R237 names no alignment for it). -/
def ctxValues (m : Mach) (x : Nat) (own : Bool) (names : CtxNames) : Bool :=
  let f := fun (o n : Nat) => m.readNat (x + o) n
  let w := fun (o : Nat) => BitVec.ofNat 32 (f o 4)
  let p := m.chip.hif.plans[names.plan]
  let max' := f 80 4
  decide (4 ≤ f 12 1) && decide (f 12 1 ≤ 16) && decide (1 ≤ f 14 1) && decide (f 14 1 ≤ 64) && f 16 8 % 4096 == 0 &&
    finite32 (w 64) && decide (0 ≤ rank32 (w 64)) && !isNan32 (w 68) && decide (0 < rank32 (w 68)) && finite32 (w 72) && decide (0 < rank32 (w 72)) &&
    decide (f 76 2 ≤ 1024) && decide (f 78 2 ≤ 4096) && decide (2 ≤ max') && decide (max' ≤ 1048576) && decide (f 128 4 < 2 ^ f 12 1) && decide (f 132 4 < 2 ^ f 12 1) &&
    (!own || (decide (f 84 4 < f 88 4) && decide (f 88 4 ≤ max'))) &&
    (match names.draft with | some d => m.chip.hif.plans[d].prm 4 1 == p.prm 4 1 | none => !nbit (f 13 1) 1 || nbit (p.prm 6 1) 0) &&
    m.areaOk (f 24 8) 512 512 && m.areaOk (f 32 8) 0x40000 4096 && m.areaOk (f 40 8) (4 * max') 4 && (!nbit (f 13 1) 0 || m.areaOk (f 48 8) 32 256)

/-- The checks of a context (R202, R238, R242): what it names, or the status. -/
def ctxCheck (m : Mach) (x : Nat) (own : Bool) : Except Nat CtxNames :=
  if !m.areaOk x 256 256 then .error 0x0103
  else if m.ctxReserved x then .error 2
  else
    let f := fun (o n : Nat) => m.readNat (x + o) n
    match m.chip.planOf (f 0 4), (if f 4 4 = 0 then Except.ok none else (m.chip.planOf (f 4 4)).map some), m.chip.regionLive (f 8 4) with
    | .ok p, .ok d, some r =>
      let names : CtxNames := ⟨p, d⟩
      if !m.ctxValues x own names then .error 0x0103
      else if !r.holds (f 16 8) (16 * 2 ^ f 12 1) true then .error 8
      else if m.chip.hif.plans[p].kind != 0 || (match d with | some k => m.chip.hif.plans[k].kind != 1 | none => false) then .error 0x0108
      else .ok names
    | _, _, _ => .error 3

/-! ### The shadow (R303 to R305) -/

/-- Whether a sequence with a record is shadowed now (R302). -/
def shadowed (m : Mach) (s : Fin 128) : Bool := m.chip.seq[s].shadow.isSome && m.chip.str.partnerEn && nbit (m.ctx s 13 1) 2

/-- A commit of a shadowed sequence goes to the partner (R304): the frame-list entries of pages now filled are asked for, history of new tokens is
written, and a commit word is due. -/
def shadowCommit (s : Fin 128) (m : Mach) : Mach :=
  match m.chip.seq[s].shadow with
  | none => m
  | some h =>
    if !m.chip.str.partnerEn then m
    else
      let tokens := m.ctx s 88 4
      let pages := m.ctx s 84 4 / 64
      let hist := m.read (m.ctx s 40 8 + 4 * h.sentTokens) (4 * (tokens - h.sentTokens))
      let gst := m.ctx s 92 4
      m.on fun c =>
        let c1 := c.onSeq s fun q => { q with shadow := some { h with asked := max h.asked pages, tokens := tokens, gstate := gst,
                                                                      sentTokens := tokens, due := true } }
        let c2 := each (List.range (pages - h.asked)) (fun (i : Nat) (d : Chip) =>
          d.submit { pkt := Chip.mkPkt 2 c.str.partner (h.frameList + 16 * (h.asked + i)) 16 0 [], mode := c.str.mShadow, last := none, tries := 0,
                     owner := .shadowEntry s (h.asked + i) }) c1
        if hist.isEmpty then c2 else c2.sendWrites c.str.partner (h.history + 4 * h.sentTokens) c.str.mShadow hist (.shadowData s)

/-- Whether pages or history of a shadow are still on their way. -/
def shadowBusy (m : Mach) (s : Fin 128) : Bool :=
  m.chip.pendingFor fun o => match o with
    | .shadowEntry t _ => t == s
    | .shadowData t => t == s
    | _ => false

/-- The commit word is written once everything before it is acknowledged and no other word is on its way (R304). -/
def shadowWord (s : Fin 128) (m : Mach) : Mach :=
  match m.chip.seq[s].shadow with
  | none => m
  | some h =>
    let busy := m.shadowBusy s || m.chip.pendingFor (fun o => match o with | .shadowWord t _ => t == s | _ => false)
    if !h.due || busy || !m.chip.str.partnerEn then m
    else m.on fun c =>
      let serial := (h.serial + 1) % 2 ^ 32
      let data := bytesLe 4 serial ++ bytesLe 4 (64 * h.asked) ++ bytesLe 4 h.tokens ++ bytesLe 4 h.gstate
      (c.onSeq s fun q => { q with shadow := some { h with serial := serial, pages := h.asked, due := false } }).submit
        { pkt := Chip.mkPkt 1 c.str.partner h.record 16 0 data, mode := c.str.mShadow, last := none, tries := 0, owner := .shadowWord s serial }

/-! ### Sequence commands (R241 to R245) -/

/-- The handle and state every command on a sequence checks: the sequence, or the status. -/
def onSeqOf (m : Mach) (x : Cmd) (f : Fin 128 → Except Nat (Mach → Mach)) : Except Nat (Mach → Mach) :=
  match m.chip.seqAt (x.f 8 4) with
  | .error e => .error e
  | .ok s => f s

def done (x : Cmd) (result : Nat) (m : Mach) : Mach := m.on fun c => c.endCmd x.id 0 result

/-- CREATE_SEQUENCE (R242). -/
def createSeq (m : Mach) (x : Cmd) : Except Nat (Mach → Mach) :=
  match m.ctxCheck (x.f 8 8) true with
  | .error e => .error e
  | .ok names =>
    if m.chip.hif.plans[names.plan].st ≠ .ready then .error 0x0108
    else match m.chip.freeSeq (x.f 16 1 % 16) with
      | none => .error 5
      | some s => .ok fun m =>
        done x (handleOf s.val m.chip.seq[s].gen) (m.on fun c => c.onSeq s fun q =>
          { resetSeq with st := .idle, gen := q.gen, ctx := x.f 8 8, plan := names.plan.val, draft := names.draft.map (·.val), length := m.readNat (x.f 8 8 + 84) 4 })

/-- A sequence whose history is full and whose prefill is done ends with reason 4 (R260). -/
def settle (s : Fin 128) (m : Mach) : Mach :=
  let q := m.chip.seq[s]
  if q.st = .generating ∧ q.endWith.isNone ∧ m.ctx s 80 4 ≤ m.ctx s 88 4 ∧ m.ctx s 88 4 ≤ m.ctx s 84 4 + 1 then m.endGen s 0 4 else m

/-- GENERATE is accepted (R243, R259, R260, R268, R302). A plan that is neither Ready nor Stopped answers PLAN_KIND, as at CREATE_SEQUENCE (DESIGN CHOICE, log 53: R243 names no
status for it). -/
def generate (m : Mach) (x : Cmd) : Except Nat (Mach → Mach) :=
  m.onSeqOf x fun s =>
    let q := m.chip.seq[s]
    let limit := x.f 12 4
    if limit = 0 ∨ 1048576 < limit then .error 2
    else match m.ctxCheck q.ctx true with
      | .error e => .error e
      | .ok names =>
        let p := m.chip.hif.plans[names.plan]
        let flags := m.ctx s 13 1
        if q.st = .generating then .error 0x0100
        else if m.chip.mod.st = .draining ∨ q.st = .broken then .error 6
        else if p.st = .stopped then .error 0x0E
        else if p.st ≠ .ready then .error 0x0108
        else if m.chip.dsq[dsqOf s].failed then .error 0x15
        else if nbit flags 0 ∧ !(m.grammarHead (m.ctx s 48 8) && decide (m.ctx s 92 4 < m.readNat (m.ctx s 48 8 + 8) 4)) then .error 0x0104
        else if nbit flags 2 ∧ q.shadow.isNone then .error 0x0203
        else .ok fun m =>
          let first := m.chip.stepping names.plan.val = 0
          let m1 := m.on fun c =>
            let c1 := c.onSeq s fun q => { q with st := .generating, plan := names.plan.val, draft := names.draft.map (·.val), cmd := some x.id, limit := limit, made := 0,
                                                  stopReq := false, loose := false, length := m.ctx s 84 4, drafted := false, draftTree := [], endWith := none, ring := [] }
            if first then c1.startOf (dsqOf s) names.plan else c1
          m1.settle s

/-- STOP_SEQUENCE (R244). On a Broken sequence it succeeds without effect, as on an Idle one (DESIGN CHOICE, log 53: R244 does not say). -/
def stopSeq (m : Mach) (x : Cmd) : Except Nat (Mach → Mach) :=
  m.onSeqOf x fun s => .ok fun m =>
    done x 0 (if m.chip.seq[s].st = .generating then m.on fun c => (c.onSeq s fun q => { q with stopReq := true }).boundary s else m)

/-- SET_SAMPLER (R244, R303). -/
def setSampler (m : Mach) (x : Cmd) : Except Nat (Mach → Mach) :=
  m.onSeqOf x fun s =>
    let w := fun (o : Nat) => BitVec.ofNat 32 (x.f o 4)
    if !(finite32 (w 12) && decide (0 ≤ rank32 (w 12)) && !isNan32 (w 16) && decide (0 < rank32 (w 16)) && finite32 (w 20) && decide (0 < rank32 (w 20)) &&
         decide (x.f 24 2 ≤ 1024) && decide (x.f 26 2 ≤ 4096)) then .error 2
    else .ok fun m =>
      let m1 := m.own (m.chip.seq[s].ctx + 64) (bytesLe 16 (x.f 12 16))
      done x 0 (match m1.chip.seq[s].shadow with
        | some h => if m1.shadowed s then
            let data := m1.read m1.chip.seq[s].ctx 256
            m1.on fun c => c.sendWrites c.str.partner (h.record + 64) c.str.mShadow data (.shadowData s)
          else m1
        | none => m1)

/-- SUBMIT_TREE (R261, R262): the nodes come from host memory. -/
def submitTree (data : DmaResult) (m : Mach) (x : Cmd) : Except Nat (Mach → Mach) :=
  match m.chip.seqAt (x.f 8 4), m.chip.regionAt x.port (x.f 12 4) with
  | .error e, _ => .error e
  | _, .error e => .error e
  | .ok s, .ok r =>
    let n := x.f 24 1
    if n = 0 ∨ 64 < n then .error 0x0107
    else if !r.holds (x.f 16 8) (8 * n) false then .error 8
    else match data with
      | .data b =>
        match Chip.treeNodes n b with
        | none => .error 2
        | some t =>
          if !Chip.treeOk ((m.chip.planAt m.chip.seq[s].plan).prm 0 4) t then .error 0x0107
          else .ok fun m => done x 0 (m.on fun c => (c.dmaIn x.port (r.base + x.f 16 8) (8 * n)).onSeq s fun q => { q with tree := t, submitted := true })
      | _ => .error 9

/-- The directory entry of a page, and whether it leads to a leaf. -/
def dirAt (m : Mach) (s : Fin 128) (page : Nat) : Nat := m.ctx s 24 8 + page / 256 * 8
def leafAt (m : Mach) (s : Fin 128) (page : Nat) : Option Nat :=
  let de := m.word (m.dirAt s page)
  if bit de 63 then some ((de &&& 0x0000FFFFFFFFF000).toNat) else none

/-- A sequence's leaves go back to the pool. -/
def returnLeaves (s : Fin 128) (l : List Nat) (m : Mach) : Mach :=
  m.on fun c => (c.onDsq (dsqOf s) fun d => { d with leaves := d.leaves ++ l }).onSeq s fun q => { q with poolLeaves := q.poolLeaves.filter (fun x => !l.contains x) }

/-- The pages that are being rebuilt for a sequence: requests to the partner are forgotten, so that a late answer finds no sequence, and the new frames are released
(R264, R307). -/
def dropRebuilds (s : Fin 128) (m : Mach) : Mach :=
  let of := fun (r : Req) => match r.owner with
    | .rebuildEntry t _ f | .rebuild t _ f _ => if t = s then some f else none
    | _ => none
  let frames := ((m.chip.str.outst ++ m.chip.str.waiting).filterMap of).eraseDups
  let m1 := m.on fun c => c.onStr fun x => { x with outst := x.outst.filter fun r => (of r).isNone, waiting := x.waiting.filter fun r => (of r).isNone }
  each frames (fun (f : Nat) (y : Mach) => y.releaseFrame (dsqOf s) f) m1

/-- DESTROY_SEQUENCE (R244, R264): every page is released, those of lost tables too. -/
def destroySeq (m : Mach) (x : Cmd) : Except Nat (Mach → Mach) :=
  m.onSeqOf x fun s =>
    if m.chip.seq[s].st = .generating then .error 0x0100
    else .ok fun m =>
      let m1 := each (m.pagesAll s) (fun (e : Nat × Nat × W64 × W64) (y : Mach) => y.releaseFrame (dsqOf s) (fld e.2.2.1 0 48)) (m.dropRebuilds s)
      let m2 := m1.returnLeaves s m1.chip.seq[s].poolLeaves
      let syncs := match m2.chip.seq[s].shadow with | some h => h.syncs | none => []
      done x 0 (m2.on fun c =>
        each syncs (fun (e : Nat × Nat × Nat) (d : Chip) => d.endCmd e.1 e.2.2 (if e.2.2 = 0 then e.2.1 else 0))
          (c.onSeq s fun q => { resetSeq with gen := nextGen q.gen }))

/-- FORK_SEQUENCE: the leaves that its kept pages need (R265). -/
def forkLeaves (m : Mach) (s : Fin 128) (len : Nat) : List Nat := (List.range ((len + 16383) / 16384)).filter (fun k => (m.leafAt s (256 * k)).isSome)

/-- FORK_SEQUENCE (R265). A child whose region differs or whose MAX_LENGTH is below K is CONTEXT_INVALID, a K out of range INVALID_FIELD (DESIGN CHOICE, log 53: R265 names no
status for them). -/
def forkSeq (m : Mach) (x : Cmd) : Except Nat (Mach → Mach) :=
  m.onSeqOf x fun s =>
    let n := dsqOf s
    let k := x.f 12 4
    let child := x.f 16 8
    let q := m.chip.seq[s]
    match m.ctxCheck child false with
    | .error e => .error e
    | .ok _ =>
      let len := min (m.ctx s 84 4) (k - 1)
      let need := m.forkLeaves s len
      if m.readNat child 8 ≠ m.readNat q.ctx 8 ∨ m.readNat (child + 80) 4 < k then .error 0x0103
      else if k = 0 ∨ m.ctx s 88 4 < k then .error 2
      else if q.st ≠ .idle then .error 0x0100
      else match m.chip.freeSeq (2 ^ n.val) with
        | none => .error 5
        | some t =>
          if m.chip.dsq[n].leaves.length < need.length then .error 0x0101
          else .ok fun m =>
            let m1 := m.on fun c => c.onSeq t fun y => { resetSeq with st := .idle, gen := y.gen, ctx := child, plan := q.plan, draft := q.draft, length := len }
            let m2 := (((m1.copyRange (m.ctx s 40 8) (m1.ctx t 40 8) (4 * k)).setCtx t 84 4 len).setCtx t 88 4 k).setCtx t 92 4 (m.ctx s 92 4)
            let m3 := each need (fun (d : Nat) (y : Mach) => (y.takeLeaf t (y.dirAt t (256 * d))).getD y) m2
            let m4 := each ((m3.pagesOf s).filter (fun (e : Nat × Nat × W64 × W64) => decide (64 * e.1 < len))) (fun (e : Nat × Nat × W64 × W64) (y : Mach) =>
              match y.leafAt t e.1 with
              | some leaf =>
                let w0 := e.2.2.1 ||| 0x4000000000000000
                ((y.setEntry e.2.1 (y.listAt s e.1) w0 e.2.2.2).setEntry (leaf + e.1 % 256 * 16) (y.listAt t e.1) w0 e.2.2.2).shareFrame n (fld w0 0 48)
              | none => y) m3
            done x (handleOf t.val m4.chip.seq[t].gen) m4

/-- TRIM_SEQUENCE (R264, R265, R304). -/
def trimSeq (m : Mach) (x : Cmd) : Except Nat (Mach → Mach) :=
  m.onSeqOf x fun s =>
    let k := x.f 12 4
    let q := m.chip.seq[s]
    if k = 0 ∨ m.ctx s 88 4 < k then .error 2
    else if q.st ≠ .idle then .error 0x0100
    else .ok fun m =>
      let len := min (m.ctx s 84 4) (k - 1)
      let m1 := ((m.setCtx s 88 4 k).setCtx s 84 4 len).on fun c => c.onSeq s fun y => { y with length := len }
      let out := (m1.pagesOf s).filter (fun (e : Nat × Nat × W64 × W64) => decide (len ≤ 64 * e.1))
      let m2 := each out (fun (e : Nat × Nat × W64 × W64) (y : Mach) =>
        (y.setEntry e.2.1 (y.listAt s e.1) 0 0).releaseFrame (dsqOf s) (fld e.2.2.1 0 48)) m1
      let m3 := each (List.range 64) (fun (d : Nat) (y : Mach) =>
        match y.leafAt s (256 * d) with
        | some leaf =>
          if len ≤ 16384 * d ∧ y.chip.seq[s].poolLeaves.contains leaf then (y.own (y.dirAt s (256 * d)) (bytesLe 8 0)).returnLeaves s [leaf] else y
        | none => y) m2
      match m3.chip.seq[s].shadow with
      | some h =>
        -- what a shadow has of the cut pages and tokens is stale, whether it is shadowed now or not
        let h1 := { h with asked := min h.asked (len / 64), tokens := k, gstate := m3.ctx s 92 4, sentTokens := min h.sentTokens k, due := true }
        let keep := fun (h2 : Shadow) => m3.on fun c => c.onSeq s fun y => { y with shadow := some h2 }
        if m3.shadowed s then (keep { h1 with syncs := h.syncs ++ [(x.id, out.length, 0)] }).shadowWord s
        else done x out.length (keep h1)
      | none => done x out.length m3

/-- SET_PAGES (R265): entries from host memory are installed. -/
def setPages (data : DmaResult) (m : Mach) (x : Cmd) : Except Nat (Mach → Mach) :=
  match m.chip.seqAt (x.f 8 4), m.chip.regionAt x.port (x.f 20 4) with
  | .error e, _ => .error e
  | _, .error e => .error e
  | .ok s, .ok r =>
    let first := x.f 12 4
    let n := x.f 16 4
    let need := (((List.range n).map (fun i => (first + i) / 256)).eraseDups).filter (fun d => (m.leafAt s (256 * d)).isNone)
    if 16384 < first + n then .error 2
    else if !r.holds (x.f 24 8) (16 * n) false then .error 8
    else if m.chip.seq[s].st ≠ .idle then .error 0x0100
    else if m.chip.dsq[dsqOf s].leaves.length < need.length then .error 0x0101
    else match data with
      | .data b => .ok fun m =>
        let m1 := m.on fun c => (c.dmaIn x.port (r.base + x.f 24 8) (16 * n)).uncache s (fun _ => true)
        let m2 := each need (fun (d : Nat) (y : Mach) => (y.takeLeaf s (y.dirAt s (256 * d))).getD y) m1
        done x 0 (each (List.range n) (fun (i : Nat) (y : Mach) =>
          match y.leafAt s (first + i) with
          | some leaf =>
            let at' := leaf + (first + i) % 256 * 16
            let old := y.word at'
            let y1 := if bit old 63 then y.releaseFrame (dsqOf s) (fld old 0 48) else y
            y1.setEntry at' (y1.listAt s (first + i)) (BitVec.ofNat 64 (fieldLe b (16 * i) 8)) (BitVec.ofNat 64 (fieldLe b (16 * i + 8) 8))
          | none => y) m2)
      | _ => .error 9

/-- The parameters that ADD_FRAMES and TAKE_FRAMES share: region, count, sequencer, kind. -/
def poolArgs (m : Mach) (x : Cmd) (write : Bool) : Except Nat (Region × Fin 4) :=
  match m.chip.regionAt x.port (x.f 8 4) with
  | .error e => .error e
  | .ok r =>
    let n := x.f 24 4
    if n = 0 ∨ 65536 < n ∨ 3 < x.f 28 1 ∨ 1 < x.f 29 1 ∨ (x.f 29 1 = 0 ∧ (x.f 30 1 < 12 ∨ 23 < x.f 30 1)) then .error 2
    else if !r.holds (x.f 16 8) (16 * n) write then .error 8
    else .ok (r, Fin.ofNat 4 (x.f 28 1))

/-- ADD_FRAMES (R264): every entry is checked before any is taken; entries beyond the pool's size are not taken. -/
def addFrames (data : DmaResult) (m : Mach) (x : Cmd) : Except Nat (Mach → Mach) :=
  match m.poolArgs x false with
  | .error e => .error e
  | .ok (r, n) =>
    match data with
    | .data b =>
      let entries := (List.range (x.f 24 4)).map (fun i => (BitVec.ofNat 64 (fieldLe b (16 * i) 8), BitVec.ofNat 64 (fieldLe b (16 * i + 8) 8)))
      let leaves := x.f 29 1 = 1
      let shift := x.f 30 1
      match (entries.map (fun (e : W64 × W64) => if leaves then m.chip.leafOk e.1 e.2 else m.chip.frameOk shift e.1 e.2)).find? (· != 0) with
      | some st => .error st
      | none => .ok fun m =>
        let d := m.chip.dsq[n]
        let room := if leaves then 4096 - d.leaves.length else 65536 - (d.sramFrames.length + d.gddrFrames.length)
        let got := entries.take room
        let frames := got.map (fun (e : W64 × W64) => ({ shift := shift, w0 := e.1, w1 := e.2 } : PoolFrame))
        done x got.length (m.on fun c => (c.dmaIn x.port (r.base + x.f 16 8) (16 * x.f 24 4)).onDsq n fun d =>
          if leaves then { d with leaves := d.leaves ++ got.map (fun (e : W64 × W64) => fld e.1 0 48) }
          else { d with sramFrames := d.sramFrames ++ frames.filter (fun f => fld f.w0 56 2 == 0), gddrFrames := d.gddrFrames ++ frames.filter (fun f => fld f.w0 56 2 != 0) })
    | _ => .error 9

/-- TAKE_FRAMES (R264). -/
def takeFrames (m : Mach) (x : Cmd) : Except Nat (Mach → Mach) :=
  match m.poolArgs x true with
  | .error e => .error e
  | .ok (r, n) => .ok fun m =>
    let d := m.chip.dsq[n]
    let count := x.f 24 4
    let shift := x.f 30 1
    let leaves := x.f 29 1 = 1
    let frames := ((d.sramFrames ++ d.gddrFrames).filter (fun (f : PoolFrame) => f.shift == shift)).take count
    let taken := if leaves then (d.leaves.take count).map (fun l => (BitVec.ofNat 64 (2 ^ 63 + (tierOf l).getD 0 * 2 ^ 56 + l), (0 : W64)))
      else frames.map (fun (f : PoolFrame) => (f.w0, f.w1))
    let left := fun (l : List PoolFrame) => frames.foldl List.erase l
    let data := (taken.map (fun (e : W64 × W64) => wordBytes e.1 ++ wordBytes e.2)).flatten
    done x taken.length (m.on fun c => (if data.isEmpty then c else c.dmaOut x.port (r.base + x.f 16 8) data false).onDsq n fun d =>
      if leaves then { d with leaves := d.leaves.drop count }
      else { d with sramFrames := left d.sramFrames, gddrFrames := left d.gddrFrames })

end Mach

/-- Whether a sequence's context, tables, frame list or history lie in a held slice, or behind routes that do not work: what reads or writes them waits (R101, R163). -/
def Mach.seqHeld (m : Mach) (s : Fin 128) : Bool :=
  let held := m.chip.holds (some (dsqSkerry (dsqOf s)).val)
  held m.chip.seq[s].ctx 256 || held (m.ctx s 24 8) 512 || held (m.ctx s 32 8) 0x40000 || held (m.ctx s 40 8) (4 * m.ctx s 80 4) ||
    (List.range (min 64 ((m.ctx s 80 4 + 16383) / 16384))).any fun k =>
      let de := m.word (m.ctx s 24 8 + 8 * k)
      bit de 63 && held (de &&& 0x0000FFFFFFFFF000).toNat 4096

/-- Whether a sequence or fabric command waits for a held slice, or for new routes (R101, R163). -/
def Mach.cmdHeld (m : Mach) (x : Cmd) : Bool :=
  if x.op = 0x40 then m.chip.rangeHeld (x.f 8 8) 256
  else if x.op = 0x80 then x.f 32 1 != 1 && decide (x.f 24 8 ≤ 2 ^ 32) && (m.chip.localOf (x.f 8 8)).any fun a => m.chip.holds (some (portSkerry x.port).val) a (x.f 24 8)
  else if 0x41 ≤ x.op ∧ x.op ≤ 0x48 then (x.op == 0x46 && m.chip.rangeHeld (x.f 16 8) 256) || (match m.chip.seqAt (x.f 8 4) with | .ok s => m.seqHeld s | .error _ => false)
  else false

/-- A fetched command that acts on module memory has its effect when it can start. -/
def onTakenM (op id : Nat) (f : Mach → Cmd → Except Nat (Mach → Mach)) (s : State) : Host.Outcome State Fault Refusal :=
  onMach (fun m => match m.chip.take op id with | some x => if m.cmdHeld x then m else m.runCmd x (f m x) | none => m) s

def execCreateSequence (cid : Nat) (s : State) : Host.Outcome State Fault Refusal := onTakenM 0x40 cid Mach.createSeq s
def execDestroySequence (cid : Nat) (s : State) : Host.Outcome State Fault Refusal := onTakenM 0x41 cid Mach.destroySeq s
def execGenerate (cid : Nat) (s : State) : Host.Outcome State Fault Refusal := onTakenM 0x42 cid Mach.generate s
def execStopSequence (cid : Nat) (s : State) : Host.Outcome State Fault Refusal := onTakenM 0x43 cid Mach.stopSeq s
def execSetSampler (cid : Nat) (s : State) : Host.Outcome State Fault Refusal := onTakenM 0x44 cid Mach.setSampler s
def execSubmitTree (cid : Nat) (data : DmaResult) (s : State) : Host.Outcome State Fault Refusal := onTakenM 0x45 cid (Mach.submitTree data) s
def execForkSequence (cid : Nat) (s : State) : Host.Outcome State Fault Refusal := onTakenM 0x46 cid Mach.forkSeq s
def execTrimSequence (cid : Nat) (s : State) : Host.Outcome State Fault Refusal := onTakenM 0x47 cid Mach.trimSeq s
def execSetPages (cid : Nat) (data : DmaResult) (s : State) : Host.Outcome State Fault Refusal := onTakenM 0x48 cid (Mach.setPages data) s
def execAddFrames (cid : Nat) (data : DmaResult) (s : State) : Host.Outcome State Fault Refusal := onTakenM 0x49 cid (Mach.addFrames data) s
def execTakeFrames (cid : Nat) (s : State) : Host.Outcome State Fault Refusal := onTakenM 0x4A cid Mach.takeFrames s

end Sys2Proof.Machine
end

