-- ==== Sys2Proof/Machine/TileOps.lean ====
section
/-!
DEFINITION. The sequencer and units of a tile: issue and the scoreboard (R112, R113, R141), the program counter (R82, R116), results of the
units (R125 to R133), the data-movement engine (R118 to R121), counters, step starts and waits (R134 to R138).
-/
namespace Sys2Proof.Machine

/-! ### Results of the units -/

/-- An elementwise operation of class 3 (R128). -/
def vecFn (op : Nat) (a b c : W32) : W32 × Cond6 :=
  match op with
  | 0 => fadd a b
  | 1 => fsub a b
  | 2 => fmul a b
  | 3 => ffma a b c
  | 4 => fmax a b
  | 5 => fmin a b
  | 6 => fdiv a b
  | 7 => fabs a
  | _ => (a, 0)

/-- One operation of a reduction; only an element that is a NaN raises NI. -/
def redStep (isMax elem : Bool) (s a : W32) : W32 × Cond6 :=
  if (dec32 s).isNan || (dec32 a).isNan then (nan32, when (elem && (dec32 a).isNan) cNI) else if isMax then fmax s a else fadd s a

/-- The reduction of R130. -/
def reduce (isMax : Bool) (a : List W32) : W32 × Cond6 :=
  let s0 : List W32 := List.replicate 64 (if isMax then inf32 true else 0)
  let r1 := (a.zipIdx).foldl (fun (r : List W32 × Cond6) p =>
    let k := p.2 % 64
    let y := redStep isMax true (r.1.getD k 0) p.1
    (r.1.set k y.1, r.2 ||| y.2)) (s0, 0)
  let r2 := [32, 16, 8, 4, 2, 1].foldl (fun (r : List W32 × Cond6) w =>
    (List.range w).foldl (fun (q : List W32 × Cond6) j =>
      let y := redStep isMax false (q.1.getD j 0) (q.1.getD (j + w) 0)
      (q.1.set j y.1, q.2 ||| y.2)) r) r1
  (r2.1.getD 0 0, r2.2)

/-- The key of accumulator row `q`, column `c` (R105). -/
def accKey (q c : Nat) : Nat := q * 1024 + c

namespace Mach

/-- Words and bytes of a staging file. -/
def stWord (m : Mach) (g : Fin 1024) (a : Nat) : W32 := BitVec.ofNat 32 (m.readNat (stagingAddr g + a) 4)
def stWords (m : Mach) (g : Fin 1024) (a n : Nat) : List W32 := (List.range n).map (fun i => m.stWord g (a + 4 * i))
def stBytes (m : Mach) (g : Fin 1024) (a n : Nat) : Bytes := m.read (stagingAddr g + a) n
def stPut (g : Fin 1024) (a : Nat) (data : Bytes) (m : Mach) : Mach := m.put (stagingAddr g + a) data

def setAcc (g : Fin 1024) (acc : List (Nat × W32)) (m : Mach) : Mach := m.on fun c => c.onTile g fun t => { t with acc := acc }

/-- One accumulator of an MMA: the partial sums of its blocks added in order (R125). -/
def mmaCell (m : Mach) (g : Fin 1024) (w : W64) (a : MmaArgs) (q c : Nat) (start : W32) : W32 × Cond6 :=
  let fa := iFa w
  let fb := iFb w
  let cols := fmtCols fb
  (List.range a.kb).foldl (fun (r : W32 × Cond6) k =>
    let rd := c / cols * a.kb + k
    let j := c % cols
    let wb := m.read (sliceAddr g + a.wel + rd * 256 + j * fmtBytes fb) (fmtBytes fb)
    let ws := m.readNat (sliceAddr g + a.wsc + rd * 16 + j) 1
    let ab := m.stBytes g (a.ael + q * a.tel + k * fmtBytes fa) (fmtBytes fa)
    let as' := numLe (m.stBytes g (a.asc + q * a.tsc + k) 1)
    let p := blockPartial fa fb ab wb as' ws
    let s := accAdd r.1 p.1
    (s.1, r.2 ||| p.2 ||| s.2)) (start, 0)

/-- MMA's results (R125). -/
def runMma (g : Fin 1024) (f : Flight) (m : Mach) : Mach × Cond6 :=
  let a := mmaArgs f.word f.x
  let cells := (List.range (iP f.word)).flatMap (fun q => (List.range a.n).map (fun c => (q, c)))
  let r := cells.foldl (fun (r : List (Nat × W32) × Cond6) p =>
    let key := accKey p.1 (a.acol + p.2)
    let y := m.mmaCell g f.word a p.1 p.2 (if bit f.word 27 then 0 else spGet 0 key r.1)
    (spSet 0 key y.1 r.1, r.2 ||| y.2)) (m.chip.tile[g].acc, 0)
  (m.setAcc g r.1, r.2)

/-- MST, MLD and MZ (R126). -/
def runMst (g : Fin 1024) (f : Flight) (m : Mach) : Mach × Cond6 :=
  let a := mstArgs f.word f.x
  let acc := m.chip.tile[g].acc
  let cells := (List.range (iP f.word)).flatMap (fun q => (List.range a.n).map (fun c => (q, c)))
  if iOp f.word = 1 then
    (each cells (fun (p : Nat × Nat) (x : Mach) =>
      x.stPut g (a.base + p.1 * a.stride + 4 * p.2) (wordBytes (spGet 0 (accKey p.1 (a.acol + p.2)) acc))) m, 0)
  else
    (m.setAcc g (each cells (fun (p : Nat × Nat) (l : List (Nat × W32)) =>
      spSet 0 (accKey p.1 (a.acol + p.2)) (if iOp f.word = 2 then m.stWord g (a.base + p.1 * a.stride + 4 * p.2) else 0) l) acc), 0)

/-- One group of 64 elements of an elementwise operation: read, then written (R129). -/
def vecGroup (g : Fin 1024) (f : Flight) (lo : Nat) (r : Mach × Cond6) : Mach × Cond6 :=
  let w := f.word
  let m := r.1
  let n := min 64 (iN w - lo)
  let addr := fun (i : Nat) => fld (xget f.x i) 0 18
  let arr := fun (i : Nat) (one : Bool) => if one then List.replicate n (m.stWord g (addr i)) else m.stWords g (addr i + 4 * lo) n
  let a := arr (iXa w) false
  let b := if usesB (iCls w) (iOp w) then arr (iXb w) (bit w 39) else List.replicate n 0
  let c := if usesC (iCls w) (iOp w) then arr (iXc w) (bit w 38) else List.replicate n 0
  let d := ((a.zip b).zip c).map (fun (p : (W32 × W32) × W32) => if iCls w = 4 then sfu (iOp w) p.1.1 else vecFn (iOp w) p.1.1 p.1.2 p.2)
  (m.stPut g (addr (iXd w) + 4 * lo) (d.flatMap (fun p => wordBytes p.1)), d.foldl (fun z p => z ||| p.2) r.2)

/-- A vector or special-function instruction (R128 to R131). -/
def runVec (g : Fin 1024) (f : Flight) (m : Mach) : Mach × Cond6 :=
  let w := f.word
  if reduces (iCls w) (iOp w) then
    let r := reduce (iOp w == 9) (m.stWords g (fld (xget f.x (iXa w)) 0 18) (iN w))
    (m.stPut g (fld (xget f.x (iXd w)) 0 18) (wordBytes r.1), r.2)
  else (List.range ((iN w + 63) / 64)).foldl (fun r k => vecGroup g f (64 * k) r) (m, 0)

/-- CVTO and CVFR (R132, R133). -/
def runCvt (g : Fin 1024) (f : Flight) (m : Mach) : Mach × Cond6 :=
  let w := f.word
  let xd := xget f.x (iXd w)
  let xa := xget f.x (iXa w)
  let fm := iFa w
  if iOp w = 0 then
    let r := convArray fm (bit w 35) (bit w 34) f.seed f.ctr (m.stWords g (fld xa 0 18) (iN w))
    ((m.stPut g (fld xd 0 18) r.1).stPut g (fld xd 32 18) (if fmtBlock fm then r.2.1 else []), r.2.2)
  else
    let d := (List.range (iN w)).map (fun i =>
      let b := m.stBytes g (fld xa 0 18 + i / 32 * fmtBytes fm) (fmtBytes fm)
      toFp32 fm (elemAt fm b (i % 32)) (if fmtBlock fm then numLe (m.stBytes g (fld xa 32 18 + i / 32) 1) else 127))
    (m.stPut g (fld xd 0 18) (d.flatMap (fun p => wordBytes p.1)), d.foldl (fun z p => z ||| p.2) 0)

/-- The results of a unit's instruction and the conditions it raises. -/
def runUnit (g : Fin 1024) (f : Flight) (m : Mach) : Mach × Cond6 :=
  match iCls f.word with
  | 2 => if iOp f.word = 0 then m.runMma g f else m.runMst g f
  | 5 => m.runCvt g f
  | _ => m.runVec g f

/-! ### Issue (R112, R113, R141) -/

/-- What the scoreboard of a tile holds: the instructions in the units, the GETs whose last byte and the PUTs whose last result is not written. -/
def board (t : Tile) : List Use :=
  ([t.mat, t.vec, t.sfu].filterMap id).map (fun f => unitUse f.word f.x) ++
    t.dm.map (fun d =>
      let st := Rng.st d.local' (d.local' + d.len)
      if d.get then ⟨d.regs.map Rng.x, [st]⟩ else ⟨d.regs.map Rng.x ++ [st], []⟩)

/-- Whether an instruction is held back (R113). -/
def heldBack (t : Tile) (u : Use) : Bool :=
  let b := board t
  decide (32 ≤ (b.flatMap (fun e => e.wr)).length) ||
    b.any (fun e => e.wr.any (fun r => u.rd.any r.meets || u.wr.any r.meets) || e.rd.any (fun r => u.wr.any r.meets))

/-- The word that a tile's sequencer can issue now, if it is of a class and operation: the program runs, the tile is in Run (R92), the
scoreboard lets it go. `none` where the command finds nothing to issue (log 13). -/
def ready (m : Mach) (g : Fin 1024) (use : W64 → Vector W64 16 → Use) (p : W64 → Bool) : Option W64 :=
  let t := m.chip.tile[g]
  if t.exec = .running ∧ t.idle = 0 then
    match (m.chip.progOf g)[t.pc]? with
    | some w => if p w && !heldBack t (use w t.x) then some w else none
    | none => none
  else none

/-- The sequencer goes on from the instruction at a place in program order and a word; beyond the last loaded word that instruction raises PC_RANGE (R82, R116,
log 36). -/
def goTo (g : Fin 1024) (ord pc target : Nat) (m : Mach) : Mach :=
  let m1 := m.on fun c => c.onTile g fun t => { t with pc := target % 8192 }
  if target < (m.chip.progOf g).length then m1 else m1.tileException g ord pc 2 target

/-- An instruction takes its place in program order and the next word follows. -/
def issued (g : Fin 1024) (f : Tile → Tile) (m : Mach) : Mach :=
  let t := m.chip.tile[g]
  (m.on fun c => c.onTile g fun t => { f t with ord := t.ord + 1 }).goTo g t.ord t.pc (t.pc + 1)

/-- An exception at issue: the instruction has no effect (R141). -/
def refuse (g : Fin 1024) (code detail : Nat) (m : Mach) : Mach :=
  m.tileException g m.chip.tile[g].ord m.chip.tile[g].pc code detail

/-- ILLEGAL of a word (R139). -/
def illegal (g : Fin 1024) (w : W64) (m : Mach) : Mach := m.refuse g 1 (high32 w)

/-- Words of one class and operation. -/
def isOp (cls op : Nat) (w : W64) : Bool := iCls w == cls && iOp w == op

/-- The unit of a class: 0 matrix, 1 vector (conversions too, R114), 2 special function. -/
def unitOf (cls : Nat) : Nat := if cls = 2 then 0 else if cls = 4 then 2 else 1
def inUnit (t : Tile) (u : Nat) : Option Flight := if u = 0 then t.mat else if u = 1 then t.vec else t.sfu
def setUnit (u : Nat) (f : Option Flight) (t : Tile) : Tile :=
  if u = 0 then { t with mat := f } else if u = 1 then { t with vec := f } else { t with sfu := f }

/-- A unit instruction issues to its unit, or raises its exception; a busy unit holds it back (R112). A conversion under SR takes its values of the
counter now (R69, R117). -/
def issueUnit (g : Fin 1024) (cls op : Nat) (m : Mach) : Mach :=
  match m.ready g unitUse (isOp cls op) with
  | none => m
  | some w =>
    let t := m.chip.tile[g]
    let u := unitOf cls
    if (inUnit t u).isSome then m
    else match unitCheck w t.x with
      | some e => m.refuse g e.1 e.2
      | none => m.issued g fun t =>
          let t1 := setUnit u (some { word := w, x := t.x, seed := t.seed, ctr := t.ctr, trap := t.trap, pc := t.pc, ord := t.ord }) t
          if isOp 5 0 w && bit w 35 then { t1 with ctr := t.ctr + BitVec.ofNat 64 (iN w) } else t1

/-- A unit finishes (R140, R141). -/
def finish (g : Fin 1024) (u : Nat) (m : Mach) : Mach :=
  let t := m.chip.tile[g]
  match inUnit t u with
  | none => m
  | some f =>
    if t.exec = .idle ∨ t.exec = .faulted then m
    else
      let r := m.runUnit g f
      let m1 := r.1.on fun c => c.onTile g fun t => { setUnit u none t with flags := t.flags ||| r.2 }
      let hit := r.2 &&& f.trap
      if hit = 0 then m1 else m1.tileException g f.ord f.pc 9 hit.toNat

/-- An MMA reads its weights and their scales from the slice (R125, R149). -/
def metWeights (g : Fin 1024) (u : Nat) (m : Mach) : Mach :=
  match inUnit m.chip.tile[g] u with
  | none => m
  | some f =>
    if u = 0 ∧ iOp f.word = 0 then
      let a := mmaArgs f.word f.x
      let reads := a.n / fmtCols (iFb f.word) * a.kb
      (m.met (sliceAddr g + a.wel) (256 * reads)).met (sliceAddr g + a.wsc) (if fmtBlock (iFa f.word) then 16 * reads else 0)
    else m

/-- A unit's instruction completes; an error of the slice that it met may have stopped the tile before (R120, R150). -/
def finishUnit (g : Fin 1024) (u : Nat) (m : Mach) : Mach := (m.metWeights g u).finish g u

/-! ### Data movement (R118 to R121) -/

/-- Whether the operands of a GET or PUT meet R118. -/
def xferOk (c : Chip) (st ua n : Nat) : Bool :=
  n % 16 == 0 && st % 16 == 0 && ua % 16 == 0 && decide (n ≤ 0x40000) && decide (st + n ≤ stageBytes) &&
    (match c.localOf ua with
     | some a => c.rangeMapped a n
     | none => c.reachable (ua / 2 ^ 48) && decide (ua % 2 ^ 48 + n ≤ 2 ^ 48))

/-- The transfers of a tile are served in program order: PUTs write until a GET stands in front, which then reads its peer (R119, R285). -/
def serveDm (g : Fin 1024) (m : Mach) : Mach :=
  (m.chip.tile[g].dm.foldl (fun (r : Mach × Bool) (d : Dma) =>
    if r.2 then r
    else
      let x := r.1
      let mode := if d.len ≤ x.chip.str.smallMax * 16 then x.chip.str.mSmall else x.chip.str.mTile
      let mark := fun (y : Mach) => y.on fun c => c.onTile g fun t => { t with dm := t.dm.map (fun e => if e.key == d.key then { e with served := true } else e) }
      if d.get then
        if d.peer && !d.served then
          ((mark x).on fun c => c.sendReads (d.remote / 2 ^ 48) (d.remote % 2 ^ 48) d.len mode (fun o => .tileGet g d.key (d.local' + o)), true)
        else (x, true)
      else if d.served then r
      else
        let data := x.stBytes g d.local' d.len
        let y := mark x
        if d.peer then (y.on fun c => c.sendWrites (d.remote / 2 ^ 48) (d.remote % 2 ^ 48) mode data (.tilePut g d.key), false)
        else
          let a := d.remote % 2 ^ 48
          (if y.chip.rangeMapped a d.len then y.store (.put g d.key) (some (skOf g).val) a data else y.on (Chip.lostWrite a), false)) (m, false)).1

/-- A GET or PUT issues, once fewer than sixteen have not completed (R118, R119). -/
def issueDm (g : Fin 1024) (get : Bool) (m : Mach) : Mach :=
  let regs := fun (w : W64) => [iXd w, iXa w, iXb w]
  let parts := fun (w : W64) (x : Vector W64 16) =>
    let d := (xget x (iXd w)).toNat
    let a := (xget x (iXa w)).toNat
    if get then (d, a, (xget x (iXb w)).toNat) else (a, d, (xget x (iXb w)).toNat)
  let use := fun (w : W64) (x : Vector W64 16) =>
    let p := parts w x
    let st := Rng.st p.1 (p.1 + p.2.2)
    if get then (⟨(regs w).map Rng.x, [st]⟩ : Use) else ⟨(regs w).map Rng.x ++ [st], []⟩
  match m.ready g use (isOp 1 (if get then 0 else 1)) with
  | none => m
  | some w =>
    let t := m.chip.tile[g]
    let p := parts w t.x
    if 16 ≤ t.dm.length then m
    else if p.2.2 = 0 then m.issued g id
    else if !xferOk m.chip p.1 p.2.1 p.2.2 then
      (m.on fun c => if get || (c.localOf p.2.1).isNone then c else c.refusedWrite (p.2.1 % 2 ^ 48) p.2.2).refuse g 6 (p.2.1 % 2 ^ 32)
    else
      (m.issued g fun t =>
        { t with dm := t.dm ++ [{ key := t.ord, get := get, regs := regs w, local' := p.1, remote := p.2.1, len := p.2.2, pc := t.pc, served := false,
                                  peer := (m.chip.localOf p.2.1).isNone, poison := none }] }).serveDm g

/-- The oldest GET of a tile completes (R119, R120); while its slice is held, its routes do not work, or a peer's answer is missing, it waits (R101, R163). -/
def getDone (g : Fin 1024) (faults : List ReadFault) (m : Mach) : Mach :=
  let t := m.chip.tile[g]
  match t.dm.find? (fun d => d.get) with
  | none => m
  | some d =>
    let a := d.remote % 2 ^ 48
    let drop := fun (x : Mach) => x.on fun c => c.onTile g fun t => { t with dm := t.dm.filter (fun e => e.key != d.key) }
    let stop := fun (bad : Option Nat) (x : Mach) => match bad with
      | some u => x.tileException g d.key d.pc 7 (u % 2 ^ 32)
      | none => x
    if t.exec = .faulted ∨ t.exec = .idle then m
    else if d.peer then
      if !d.served || m.chip.pendingFor (fun o => match o with | .tileGet h k _ => h == g && k == d.key | _ => false) then m
      else stop d.poison ((drop m).serveDm g)
    else if m.chip.holds (some (skOf g).val) a d.len then m
    else if !m.chip.rangeMapped a d.len then
      stop (some a) ((drop (m.stPut g d.local' (List.replicate d.len 0))).serveDm g)
    else
      let r := (m.met a d.len).readFaults (faults.filter (fun f => decide (a ≤ f.addr) && decide (f.addr < a + d.len)))
      let bad := (r.2 ++ r.1.badUnits a d.len).filter (fun u => decide (a < u + 64) && decide (u < a + d.len))
      if !r.1.chip.tile[g].dm.any (fun e => e.key == d.key) then r.1
      else
        let data := (r.1.read a d.len).zipIdx.map (fun p => if bad.any (fun u => decide (u ≤ a + p.2) && decide (a + p.2 < u + 64)) then 0 else p.1)
        let m1 := (drop (r.1.stPut g d.local' data)).serveDm g
        let first := bad.foldl (fun (o : Option Nat) u => match o with | some v => some (min v (max u a)) | none => some (max u a)) none
        stop first m1

/-- The oldest PUT whose bytes every copy holds is acknowledged (R119, R162, R163). -/
def putDone (g : Fin 1024) (m : Mach) : Mach :=
  let t := m.chip.tile[g]
  let open' := fun (d : Dma) =>
    m.chip.held.any (fun h => h.who == .put g d.key) || (!d.peer && m.chip.farWaits (skOf g).val (d.remote % 2 ^ 48) d.len) ||
      m.chip.pendingFor (fun o => match o with | .tilePut h k => h == g && k == d.key | _ => false)
  match t.dm.find? (fun d => !d.get && d.served && !open' d) with
  | some d => m.on fun c => c.onTile g fun t => { t with dm := t.dm.filter (fun e => e.key != d.key) }
  | none => m

/-! ### Counters, step starts, waits (R134 to R138) -/

def cget (t : Tile) (i : Nat) : Nat := (t.c.toList.getD i 0).toNat
def cset (i v : Nat) (t : Tile) : Tile := { t with c := updAll t.c (fun k o => if k.val = i then BitVec.ofNat 32 v else o) }

/-- END takes a step start (R137). -/
def takeStart (g : Fin 1024) (m : Mach) : Mach :=
  let t := m.chip.tile[g]
  (m.on fun c => c.onTile g fun t =>
    { cset 0 (cget t 0 - 1) t with step := t.starts.headD t.step, starts := t.starts.drop 1, exec := .running, idle := 0, inStep := true,
                                    ord := t.ord + 1 }).goTo g t.ord t.pc t.entry

/-- A tile that waits tests its condition (R136, R137, R143). -/
def retest (g : Fin 1024) (m : Mach) : Mach :=
  let t := m.chip.tile[g]
  if t.exec = .waiting ∧ t.idle ≠ 2 then
    match (m.chip.progOf g)[t.pc]? with
    | some w =>
      if isOp 0 1 w && decide (1 ≤ cget t 0) then m.takeStart g
      else if isOp 6 1 w && decide (fld w 0 32 ≤ cget t (iXc w)) then
        (m.on fun c => c.onTile g fun t => { t with exec := .running, idle := 0 }).issued g (fun t => cset (iXc w) (cget t (iXc w) - fld w 0 32) t)
      else m.on fun c => c.onTile g Chip.Tile.gate
    | none => m
  else m

/-- A tile waits on synchronisation: it is Gated (R92, R138). -/
def startWait (g : Fin 1024) (m : Mach) : Mach := m.on fun c => c.onTile g fun t => Chip.Tile.gate { t with exec := .waiting }

/-- SYNC at a receiving tile: it ranks as the instruction the sequencer would issue next (R141). Tiles without a program, stopped or faulted have none. -/
def syncAt (g : Fin 1024) (detail : Nat) (m : Mach) : Mach :=
  let t := m.chip.tile[g]
  match t.exec with
  | .running | .waiting | .halted => m.tileException g t.ord t.pc 8 detail
  | _ => m

/-- A counter add (R136); `sender` goes into DETAIL. -/
def addCounter (g : Fin 1024) (cnt : Fin 16) (value : Nat) (sender : Nat) (m : Mach) : Mach :=
  let t := m.chip.tile[g]
  let sum := cget t cnt.val + value
  if t.exec = .faulted then m
  else
    let m1 := m.on fun c => c.onTile g fun t => Chip.Tile.call m.chip.time (cset cnt.val (min sum 0xFFFFFFFF) t)
    if 0xFFFFFFFF < sum then m1.syncAt g sender else m1.retest g

/-- A decode sequencer or a collective engine raises a counter of a tile: no tile is the sender (R267, R299). -/
def raiseCounter (src : MeshEnd) (g : Fin 1024) (cnt : Fin 16) (v : W32) (m : Mach) : Mach :=
  m.signal ⟨src, .tile g, .add cnt v⟩ (addCounter g cnt v.toNat 0xFFFFFFFF)

/-- The packet of a step start that can arrive at a tile now. -/
def startDue (m : Mach) (g : Fin 1024) (words : Vector W64 4) : Option MeshPkt :=
  m.chip.mesh.sync.find? fun p => decide (p.dst = .tile g) && decide (p.body = .start words) && m.chip.mesh.due p

/-- A step start arrives (R137, R142). -/
def addStart (g : Fin 1024) (words : Vector W64 4) (m : Mach) : Mach :=
  let t := m.chip.tile[g]
  match t.exec with
  | .faulted | .idle => m
  | .exception => m.on fun c => c.onTile g fun t => Chip.Tile.call m.chip.time (cset 0 (min (cget t 0 + 1) 0xFFFFFFFF) t)
  | _ =>
    let m := m.on fun c => c.onTile g (Chip.Tile.call m.chip.time)
    if 2 ≤ t.starts.length then m.syncAt g 0xFFFFFFFF
    else
      let m1 := m.on fun c => c.onTile g fun t => { cset 0 (min (cget t 0 + 1) 0xFFFFFFFF) t with starts := t.starts ++ [words] }
      if cget t 0 = 0xFFFFFFFF then m1.syncAt g 0xFFFFFFFF else m1.retest g

end Mach
end Sys2Proof.Machine
end

