-- ==== Sys2Proof/Machine/Sequencer.lean ====
section
/-!
DEFINITION. The decode sequencer's steps: tables and rows, events of tiles, sampling, verification and commit, the token ring, and cold experts
(R239, R248 to R255, R260 to R264, R267 to R269).
-/
namespace Sys2Proof.Machine

/-- How far the verification of a sequence's tree has come (R263): tokens drawn, rows of accepted nodes, the row to sample next, the status of a
failed draw, the stop reason, the automaton state. -/
structure Trace where
  toks : List Nat
  rows : List Nat
  need : Option Nat
  err : Nat
  reason : Nat
  gst : Nat
deriving DecidableEq, Repr

namespace Mach

/-! ### Ready sequences and the turn (R248, R255) -/

/-- Whether a sequence contributes rows: Generating, not stalled, not ending (R239, R248). -/
def seqReady (m : Mach) (s : Fin 128) : Bool :=
  let q := m.chip.seq[s]
  decide (q.st = .generating) && q.ring.isEmpty && q.endWith.isNone && decide ((m.planN q.plan).st = .ready)
/-- A sequencer's slots in serving order: from the one after the first of its previous table (R255). -/
def slotsFrom (m : Mach) (n : Fin 4) : List (Fin 128) :=
  (List.range 32).map (fun i => Fin.ofNat 128 (32 * n.val + (m.chip.dsq[n].lastFirst + 1 + i) % 32))
/-- A plan takes another step while at most one is started and not ended (R248). -/
def planFree (m : Mach) (k : Fin 16) : Bool := decide (((m.runsOf k).filter (fun r => !r.2.waiting.isEmpty)).length ≤ 1)

/-! ### Rows (R254, R261, R262) -/

/-- The pending token. -/
def pending (m : Mach) (s : Fin 128) : Nat := m.readNat (m.ctx s 40 8 + 4 * (m.ctx s 88 4 - 1)) 4
/-- Whether a sequence has prefill rows left. -/
def hasPrefill (m : Mach) (s : Fin 128) : Bool := decide (m.ctx s 84 4 + 1 < m.ctx s 88 4)
/-- Whether node 0 of a tree is the pending token, without a parent (R261). -/
def rooted (m : Mach) (s : Fin 128) (t : List (Nat × Nat)) : Bool := t.head? == some (m.pending s, 0xFF)
/-- Whether a submitted tree stands that the next target step takes (R262). -/
def treeStands (m : Mach) (s : Fin 128) : Bool := m.chip.seq[s].submitted && m.rooted s m.chip.seq[s].tree
/-- The tree of a target step in the order of R262, cut to TREE_MAX and to the room before MAX_LENGTH. -/
def treeOf (m : Mach) (s : Fin 128) : List (Nat × Nat) :=
  let q := m.chip.seq[s]
  let t := if m.treeStands s then q.tree else if q.drafted && m.rooted s q.draftTree then q.draftTree else [(m.pending s, 0xFF)]
  t.take (max 1 (min (m.ctx s 14 1) (m.ctx s 80 4 - m.ctx s 88 4)))
/-- Whether a draft step must run for a sequence before its target step, and on which plan (R262). -/
def draftFor (m : Mach) (s : Fin 128) : Option (Fin 16) :=
  let q := m.chip.seq[s]
  if nbit (m.ctx s 13 1) 1 ∧ 1 < m.ctx s 14 1 ∧ !m.hasPrefill s ∧ !q.drafted ∧ !m.treeStands s ∧ m.ctx s 88 4 < m.ctx s 80 4 then
    match q.draft with
    | some k => if (m.planN k).st = .ready then some (Fin.ofNat 16 k) else none
    | none => if m.ctx s 4 4 = 0 ∧ nbit ((m.planN q.plan).prm 6 1) 0 then some (Fin.ofNat 16 q.plan) else none
  else none

/-- Whether a stopped sequence waits for a commit-only step of its sequencer (R253). -/
def commitDue (m : Mach) (n : Fin 4) : Bool :=
  decide (m.chip.dsq[n].commitMap ≠ 0) && (m.slotsFrom n).any fun s => m.chip.seq[s].commits && m.chip.seq[s].endWith.isSome
/-- Whether a sequencer could start a step of a plan: for a sequence on it, for one that wants a draft of it, or for rows to be moved. -/
def dsqReady (m : Mach) (n : Fin 4) (k : Nat) : Bool :=
  m.chip.dsq[n].run.isNone && ((m.slotsFrom n).any (fun s => m.seqReady s && (m.chip.seq[s].plan == k || (m.draftFor s).any fun j => j.val == k)) ||
    (m.commitDue n && m.chip.dsq[n].prevPlan == k))
/-- Whether it is a sequencer's turn on a plan (R248). -/
def dsqTurn (m : Mach) (n : Fin 4) (k : Nat) : Bool :=
  let t := (m.planN k).turn
  match ((List.range 4).map (fun i => (Fin.ofNat 4 (t + 1 + i) : Fin 4))).find? (fun j => m.dsqReady j k) with
  | some j => j == n
  | none => true

/-- The rows of a sequence, the first of them row `base` of its table, at most `room` (R254, R255). -/
def seqRows (m : Mach) (s : Fin 128) (base room : Nat) : List Row :=
  let len := m.ctx s 84 4
  let tok := m.ctx s 88 4
  if m.hasPrefill s then
    (List.range (min room (tok - 1 - len))).map fun i =>
      { seq := s, pos := len + i, token := m.readNat (m.ctx s 40 8 + 4 * (len + i)) 4, parent := 0xFF, sample := false, tree := false,
        anc := (2 ^ i - 1) * 2 ^ base }
  else
    ((m.treeOf s).take room).foldl (fun (rows : List Row) (e : Nat × Nat) =>
      match if e.2 = 0xFF then none else rows[e.2]? with
      | none => rows ++ [{ seq := s, pos := tok - 1, token := e.1, parent := 0xFF, sample := true, tree := false, anc := 0 }]
      | some p => rows ++ [{ seq := s, pos := p.pos + 1, token := e.1, parent := base + e.2, sample := true, tree := true, anc := p.anc ||| 2 ^ (base + e.2) }]) []

/-- How many rows a sequence wants. -/
def wants (m : Mach) (s : Fin 128) : Nat := if m.hasPrefill s then m.ctx s 88 4 - 1 - m.ctx s 84 4 else (m.treeOf s).length

/-! ### Walks and pages (R174, R175, R264, R266) -/

/-- A walk fault ends the GENERATE and is recorded (R243, R269, R271). -/
def walkFault (s : Fin 128) (code pos : Nat) (m : Mach) : Mach :=
  (m.on fun c => (c.onDsq (dsqOf s) fun d => { d with wiValid := true, wiCode := code, wiSlot := s.val, wiPos := pos }).dsqErr (dsqOf s) 1).endGen s 0x0102 code

/-- A committed page whose walk faults with code 7 or 8 is lost (R266); one that is being rebuilt is waited for (R307). -/
def lostWalk (s : Fin 128) (code page : Nat) (m : Mach) : Mach :=
  let size := 2 ^ m.fshiftOf m.chip.seq[s].plan
  if m.rebuilding s page then m
  else match if code = 7 then (m.pagesOf s).find? (fun (e : Nat × Nat × W64 × W64) => e.1 == page) else none with
  | some e => m.losePage s (fun a => !m.chip.rangeMapped a size) e
  | none => m.relay s (page / 256)

/-- Pages that were walked are cached (R176). -/
def rememberAll (s : Fin 128) (found : List (Nat × Except Nat Walk)) (m : Mach) : Mach :=
  each found (fun (e : Nat × Except Nat Walk) (y : Mach) => match e.2 with
    | .ok w => y.on (Chip.remember s e.1 w)
    | .error _ => y) m

/-- The context, the tables and the history that has no pages yet of a sequence are read (R149, R157). -/
def metTables (s : Fin 128) (m : Mach) : Mach :=
  let root := m.ctx s 24 8
  each (List.range (min 64 ((m.ctx s 80 4 + 16383) / 16384))) (fun (k : Nat) (x : Mach) =>
    let de := x.word (root + 8 * k)
    if bit de 63 then x.met (de &&& 0x0000FFFFFFFFF000).toNat 4096 else x)
    (((m.met m.chip.seq[s].ctx 256).met root 512).met (m.ctx s 40 8 + 4 * m.ctx s 84 4) (4 * (m.ctx s 88 4 - m.ctx s 84 4)))

/-- The committed pages of a sequence are walked; false where it cannot step now. Every walk that faults sets WALK_FAULT (R271). -/
def walkSeq (s : Fin 128) (m : Mach) : Mach × Bool :=
  let m := m.metTables s
  let shift := m.fshiftOf m.chip.seq[s].plan
  let found := (List.range ((m.ctx s 84 4 + 63) / 64)).map (fun p => (p, m.look s (m.ctx s 24 8) (64 * p) shift))
  let bad := found.findSome? fun (e : Nat × Except Nat Walk) =>
    match e.2 with
    | .error code => some (e.1, code)
    | .ok _ => none
  match bad with
  | none => (m.rememberAll s found, true)
  | some (p, code) => (if code = 7 ∨ code = 8 then (m.on fun c => c.dsqErr (dsqOf s) 1).lostWalk s code p else m.walkFault s code (64 * p), false)

/-- The entry of a page that a row needs is read, and a shared frame that is to be copied (R149, R157). -/
def metPage (s : Fin 128) (page : Nat) (m : Mach) : Mach :=
  match m.leafAt s page with
  | none => m
  | some leaf =>
    let x := m.met (leaf + page % 256 * 16) 16
    let w0 := x.word (leaf + page % 256 * 16)
    if bit w0 63 && bit w0 62 then x.met (fld w0 0 48) (2 ^ x.fshiftOf x.chip.seq[s].plan) else x

/-- The pages of a sequence's rows are made ready; false where the pool ran empty or a walk faulted (R264). -/
def readyPages (s : Fin 128) (rows : List Row) (m : Mach) : Mach × Bool :=
  let pages := (rows.map (fun (r : Row) => r.pos / 64)).eraseDups
  let got := pages.foldl (fun (o : Option Mach) p => o.bind (fun y => (y.metPage s p).allocPage s p)) (some m)
  match got with
  | none => ((m.on fun c => c.dsqErr (dsqOf s) 2).endGen s 0x0101 0, false)
  | some m1 =>
    let found := rows.map (fun (r : Row) => (r.pos, m1.look s (m1.ctx s 24 8) r.pos (m1.fshiftOf m1.chip.seq[s].plan)))
    match found.findSome? (fun (e : Nat × Except Nat Walk) => match e.2 with
      | .error code => some (code, e.1)
      | .ok _ => none) with
    | some (code, pos) => (m1.walkFault s code pos, false)
    | none =>
      -- the frame list leads the rows by 64 positions, or to the last one, while the pool is not empty (R270)
      let top := (rows.map (fun (r : Row) => r.pos)).foldl max 0
      let ahead := min (top + 64) (m1.ctx s 80 4 - 1)
      let m2 := m1.rememberAll s (found.map (fun (e : Nat × Except Nat Walk) => (e.1 / 64, e.2)))
      (if rows.isEmpty ∨ ahead / 64 ≤ top / 64 then m2 else ((m2.metPage s (ahead / 64)).allocPage s (ahead / 64)).getD m2, true)

/-! ### Starting a step (R248, R249, R253, R262) -/

/-- A row of a step table as bytes (R249). -/
def rowBytes (m : Mach) (r : Row) : Bytes :=
  bytesLe 4 (handleOf r.seq.val m.chip.seq[r.seq].gen) ++ bytesLe 4 r.pos ++ bytesLe 4 r.token ++ bytesLe 1 r.parent ++ bytesLe 1 (b2n r.sample + 2 * b2n r.tree) ++
    bytesLe 2 0 ++ bytesLe 8 r.anc ++ bytesLe 8 (m.ctx r.seq 32 8)

/-- A step of a plan starts (R248, R249): its table is written and its starts go out. A separate draft plan's tables stand apart from the
target's. A plan with a faulted tile starts the step aborted (R84); one with a tile in exception stops (R142, R269). -/
def startStep (n : Fin 4) (k : Fin 16) (kind : Nat) (rows : List Row) (m : Mach) : Mach :=
  let d := m.chip.dsq[n]
  let p := m.chip.hif.plans[k]
  let apart := p.kind = 1
  let table := p.prm 16 8 + n.val * 8192 + 4096 * b2n (if apart then d.draftToggle else d.toggle)
  let map := if apart ∨ d.prevPlan ≠ k.val then 0 else d.commitMap
  let logits := if p.kind = 0 then p.prm 8 8 + n.val * p.prm 5 1 * p.prm 0 4 * 4 else 0
  let head := bytesLe 8 p.serial ++ bytesLe 1 rows.length ++ bytesLe 1 kind ++ bytesLe 6 0 ++ bytesLe 8 map.toNat ++
    bytesLe 8 (if apart then 0 else d.prevTable) ++ bytesLe 8 logits ++ bytesLe 24 0
  let whole := m.planWhole k
  let bytes := head ++ (rows.map m.rowBytes).flatten
  let run : DsqRun := { plan := k, serial := p.serial, kind := kind, table := table, bytes := bytes, rows := rows, ready := [], waiting := p.schedule, drawn := [], treeN := none,
                        aborted := !whole, live := (rows.map (fun (r : Row) => r.seq)).eraseDups }
  let m1 := (m.own table bytes).on fun c =>
    let c1 := (c.onPlan k fun q => { q with serial := (q.serial + 1) % 2 ^ 64, turn := n.val }).onDsq n fun x =>
      let y := { x with run := some run, count := updAll x.count (fun i v => if i.val = 0 then (v + 1) % 2 ^ 64 else v),
                        lastFirst := if kind = 0 then (match rows with | r :: _ => r.seq.val % 32 | [] => x.lastFirst) else x.lastFirst }
      if apart then { y with draftToggle := !y.draftToggle }
      else { y with toggle := !y.toggle, prevTable := table, prevPlan := k.val, commitMap := if d.prevPlan = k.val then 0 else y.commitMap }
    if whole then c1.sendStarts (.dsq n) k (Chip.dsqWords table p.serial) else c1
  match p.schedule.find? (fun g => decide (m1.chip.tile[(Fin.ofNat 1024 g)].exec = .exception)) with
  | some g => m1.planStop k 0x0F g
  | none => m1

/-- The trees of the sequences that a target step takes are used up (R262). -/
def useTrees (rows : List Row) (m : Mach) : Mach :=
  m.on fun c => each ((rows.map (fun (r : Row) => r.seq)).eraseDups) (fun (s : Fin 128) (d : Chip) =>
    d.onSeq s fun q => { q with tree := [], draftTree := [], submitted := false, drafted := false }) c

/-- The rows of a target step, taken sequence by sequence (R255). -/
def gather (n : Fin 4) (k : Nat) (m : Mach) : Mach × List Row :=
  let cap := (m.planN k).prm 5 1
  ((m.slotsFrom n).filter (fun s => m.chip.seq[s].plan == k)).foldl (fun (a : Mach × List Row) s =>
    let m1 := a.1.settle s
    if !m1.seqReady s then (m1, a.2)
    else
      let w := m1.walkSeq s
      if !w.2 then (w.1, a.2)
      else
        let room := cap - a.2.length
        if room = 0 ∨ (!a.2.isEmpty ∧ room < w.1.wants s) then (w.1, a.2)
        else
          let rows := w.1.seqRows s a.2.length room
          let r := w.1.readyPages s rows
          if r.2 then (r.1, a.2 ++ rows) else (r.1, a.2)) (m, [])

/-- The draft step that a plan's first sequence in want of a tree needs: that sequence and the plan that drafts (R262). -/
def draftWanted (m : Mach) (ready : List (Fin 128)) (k : Nat) : Option (Fin 128 × Fin 16) :=
  (ready.filter (fun t => m.chip.seq[t].plan == k)).findSome? fun t => (m.draftFor t).map fun kd => (t, kd)

/-- Whether a sequencer can start a step for its ready sequences on a plan: the plan takes one, it is its turn on the plan that the step runs on, the draft plan's
where a draft step comes first (R248), and the lead of the plan's first step has passed (R268). -/
def planOpen (m : Mach) (n : Fin 4) (ready : List (Fin 128)) (k : Nat) : Bool :=
  m.planFree (Fin.ofNat 16 k) && decide ((m.planN k).holdTo ≤ m.chip.time) &&
    (match m.draftWanted ready k with | some d => m.planFree d.2 && m.dsqTurn n d.2.val | none => m.dsqTurn n k)

/-- Whether the step areas of a plan lie in a held slice, or something of a sequencer's sequences, or their routes do not work: its step waits (R101, R163). -/
def planHeld (m : Mach) (n : Fin 4) (k : Nat) : Bool :=
  let p := m.planN k
  let die := some (dsqSkerry n).val
  m.chip.holds die (p.prm 16 8) 32768 || (p.kind == 0 && (m.chip.holds die (p.prm 8 8) (16 * p.prm 5 1 * p.prm 0 4) || m.expertHeld p))
def dsqHeld (m : Mach) (n : Fin 4) : Bool :=
  (m.slotsFrom n).any fun s => decide (m.chip.seq[s].st ≠ .free) &&
    (m.seqHeld s || m.planHeld n m.chip.seq[s].plan || (m.chip.seq[s].draft).any (m.planHeld n))

/-- A sequencer starts its next step: a commit-only step where a stopped sequence, or one of another plan, needs it (R253); else, on the first plan that is open
to it, a draft step where a tree is wanted, or a target step (R248, R262). -/
def dsqStart (n : Fin 4) (m : Mach) : Mach :=
  let d := m.chip.dsq[n]
  if d.run.isSome || d.failed || m.dsqHeld n then m
  else
    let bound := d.commitMap ≠ 0
    let ready := (m.slotsFrom n).filter (fun s => m.seqReady s && (!bound || m.chip.seq[s].plan == d.prevPlan))
    let k0 : Fin 16 := Fin.ofNat 16 d.prevPlan
    if bound ∧ (m.commitDue n = true ∨ (ready = [] ∧ (m.slotsFrom n).any m.seqReady = true)) then
      if (m.planN k0.val).st = .ready ∧ m.planFree k0 ∧ m.dsqTurn n k0.val then m.startStep n k0 2 [] else m
    else match ((ready.map fun s => m.chip.seq[s].plan).eraseDups).find? (m.planOpen n ready) with
    | none => m
    | some kn =>
      let k : Fin 16 := Fin.ofNat 16 kn
      match m.draftWanted ready kn with
        | some (t, kd) =>
            let row : Row := { seq := t, pos := m.ctx t 88 4 - 1, token := m.pending t, parent := 0xFF, sample := false, tree := false, anc := 0 }
            let w := m.walkSeq t
            let r := if w.2 then w.1.readyPages t [row] else w
            if r.2 then r.1.startStep n kd 1 [row] else r.1
        | none =>
          let g := m.gather n k.val
          -- a sequence that stopped here has its rows moved before it is Idle (R253)
          if g.1.commitDue n then (if (g.1.planN k0.val).st = .ready then g.1.startStep n k0 2 [] else g.1)
          else if g.2.isEmpty then g.1 else (g.1.useTrees g.2).startStep n k 0 g.2

/-! ### Events of tiles (R251) -/

/-- The run of a sequencer on the plan of a tile. -/
def runFor (m : Mach) (n : Fin 4) (g : Fin 1024) : Option DsqRun :=
  match m.chip.dsq[n].run with
  | some r => if m.chip.hif.plans[r.plan].schedule.contains g.val then some r else none
  | none => none

/-- LOGITS_READY and TREE_READY. -/
def stepEvent (n : Fin 4) (g : Fin 1024) (f : DsqRun → DsqRun) (m : Mach) : Mach :=
  match m.runFor n g with
  | none => m.on fun c => c.dsqErr n 7
  | some r => if r.aborted then m else m.on fun c => c.onDsq n fun d => { d with run := some (f r) }

/-- Whether a row's logits are complete. -/
def rowReady (m : Mach) (r : DsqRun) (row : Nat) : Bool :=
  decide (m.chip.hif.plans[r.plan].prm 56 2 ≤ (r.ready.filter (fun (e : Nat × Nat) => decide (row < e.2))).length)

/-! ### Sampling and verification (R252, R257, R260, R263) -/

/-- The verification of a tree from a row on; the fuel is the number of rows. -/
def traceGo (m : Mach) (r : DsqRun) (s : Fin 128) (vocab : Nat) : Nat → Nat → List Nat → List Nat → Nat → Trace
  | 0, _, toks, rows, gst => ⟨toks, rows, none, 0, 0, gst⟩
  | fuel + 1, row, toks, rows, gst =>
    match r.drawn.lookup row with
    | none => ⟨toks, rows, some row, 0, 0, gst⟩
    | some v =>
      if 2 ^ 32 ≤ v then ⟨toks, rows, none, v - 2 ^ 32, 0, gst⟩
      else
        let ts := toks ++ [v]
        let st := if nbit (m.ctx s 13 1) 0 then (match m.gState (m.ctx s 48 8) gst vocab with | some a => a.next (m.stopTokens s) gst v | none => gst) else gst
        let why := m.stopReason s vocab v st (m.chip.seq[s].made + ts.length) (m.ctx s 88 4 + ts.length)
        let broken := nbit (m.ctx s 13 1) 0 && !(m.stopTokens s).contains v && (m.gState (m.ctx s 48 8) st vocab).isNone
        if broken then ⟨ts, rows, none, 0x0104, 0, st⟩
        else if why ≠ 0 then ⟨ts, rows, none, 0, why, st⟩
        else match firstIdx (fun (w : Row) => w.seq == s && w.parent == row && w.tree && w.token == v) r.rows with
          | some c => m.traceGo r s vocab fuel c ts (rows ++ [c]) st
          | none => ⟨ts, rows, none, 0, 0, st⟩

/-- The trace of a sequence in a step; prefill needs no row sampled. -/
def trace (m : Mach) (r : DsqRun) (s : Fin 128) : Trace :=
  match firstIdx (fun (w : Row) => w.seq == s && w.sample) r.rows with
  | some row => m.traceGo r s (m.chip.hif.plans[r.plan].prm 0 4) 65 row [] [] (m.ctx s 92 4)
  | none => ⟨[], [], none, 0, 0, m.ctx s 92 4⟩

/-- The sampler takes the next row that is ready (R252, R257). -/
def sampleRow (n : Fin 4) (ns : Nat) (m : Mach) : Mach :=
  match m.chip.dsq[n].run with
  | none => m
  | some r =>
    let next := r.live.findSome? fun s => (m.trace r s).need.bind fun row => if m.rowReady r row then some (s, row) else none
    match next with
    | none => m
    | some (s, row) =>
      if r.aborted ∨ r.kind ≠ 0 ∨ m.dsqHeld n then m
      else
        let p := m.chip.hif.plans[r.plan]
        let logits := p.prm 8 8 + n.val * p.prm 5 1 * p.prm 0 4 * 4 + row * p.prm 0 4 * 4
        let pos := (r.rows[row]?).elim 0 (fun (w : Row) => w.pos + 1)
        let m := m.met logits (4 * p.prm 0 4)
        let v := match m.sample s logits (p.prm 0 4) pos (m.trace r s).toks with | .ok t => t | .error e => 2 ^ 32 + e
        m.on fun c => c.onDsq n fun d =>
          { d with run := some { r with drawn := r.drawn ++ [(row, v)] }, lastNs := min ns 0xFFFF, maxNs := max d.maxNs (min ns 0xFFFF) }

/-! ### The token ring (R223, R239) -/

/-- Entries that wait are written once the ring has room for all of them; a RING_HEAD beyond the depth gives none (R239). -/
def pushRing (s : Fin 128) (m : Mach) : Mach :=
  let q := m.chip.seq[s]
  let depth := 2 ^ m.ctx s 12 1
  let head := m.ctx s 132 4
  let tail := m.ctx s 128 4
  let n := q.ring.length
  if n = 0 then m
  else if depth ≤ head then m.on fun c => c.dsqErr (dsqOf s) 8
  else match m.chip.regionLive (m.ctx s 8 4) with
    | none => m
    | some r =>
      if (head + depth - tail - 1) % depth < n ∨ !m.chip.portUp r.port then m
      else
        let phase := m.ctx s 15 1
        let m1 := each q.ring.zipIdx (fun (e : Bytes × Nat) (y : Mach) =>
          let at' := (tail + e.2) % depth
          let ph := (phase + (tail + e.2) / depth) % 2
          let b := e.1.take 12 ++ [BitVec.ofNat 8 (fieldLe e.1 12 1 + ph)] ++ e.1.drop 13
          y.on fun c => c.dmaOut r.port (r.base + m.ctx s 16 8 + 16 * at') b false) m
        (((m1.setCtx s 128 4 ((tail + n) % depth)).setCtx s 15 1 ((phase + (tail + n) / depth) % 2)).on fun c => c.onSeq s fun x => { x with ring := [] }).finishEnd s

/-- A ring entry without its phase (R223). -/
def ringEntry (m : Mach) (s : Fin 128) (tok pos : Nat) (spec : Bool) (stop : Nat) : Bytes :=
  bytesLe 4 tok ++ bytesLe 4 pos ++ bytesLe 4 (handleOf s.val m.chip.seq[s].gen) ++ bytesLe 1 (2 * b2n spec) ++ bytesLe 1 stop ++ bytesLe 2 0

/-! ### The end of a step (R252, R253, R260, R263) -/

/-- The results of a target step are committed for one sequence. -/
def commitSeq (n : Fin 4) (r : DsqRun) (s : Fin 128) (m : Mach) : Mach :=
  let t := m.trace r s
  let pre := (r.rows.filter (fun (w : Row) => w.seq == s && !w.sample)).length
  let d := t.toks.length
  let tok := m.ctx s 88 4
  let acc := t.rows.take (d - 1)
  let len := if pre ≠ 0 then m.ctx s 84 4 + pre else if d = 0 then m.ctx s 84 4 else tok - 1 + d
  let m1 := m.own (m.ctx s 40 8 + 4 * tok) ((t.toks.map (fun x => bytesLe 4 x)).flatten)
  let m2 := (((((m1.setCtx s 88 4 (tok + d)).setCtx s 84 4 len).setCtx s 92 4 t.gst).setCtx s 136 8 (m.ctx s 136 8 + 1))).setCtx s 144 8 (m.ctx s 144 8 + acc.length)
  let entries := t.toks.zipIdx.map (fun (e : Nat × Nat) =>
    m.ringEntry s e.1 (tok + e.2) (decide (e.2 < acc.length)) (if e.2 + 1 = d then t.reason else 0))
  let m3 := m2.on fun c =>
    (c.onSeq s fun q => { q with made := q.made + d, length := len, commits := !acc.isEmpty, ring := q.ring ++ entries }).onDsq n fun x =>
      { x with commitMap := acc.foldl (fun w row => w ||| BitVec.ofNat 64 (2 ^ row)) x.commitMap,
               count := updAll x.count (fun i v => if i.val = 1 then (v + d) % 2 ^ 64 else if i.val = 2 then (v + acc.length) % 2 ^ 64 else v) }
  let m4 := m3.pushRing s
  let m4 := if m4.shadowed s then m4.shadowCommit s else m4
  if t.reason ≠ 0 then m4.endGen s 0 t.reason else if t.err ≠ 0 then m4.endGen s t.err 0 else m4.settle s

/-- A draft step has ended: its tree is read and kept beside a submitted one, or found invalid (R262). -/
def takeDraft (n : Fin 4) (r : DsqRun) (s : Fin 128) (m : Mach) : Mach :=
  let vocab := (m.planN m.chip.seq[s].plan).prm 0 4
  let m := match r.treeN with | some k => m.met (r.table + 0x900) (8 * k) | none => m
  let t := match r.treeN with
    | some k => if k = 0 ∨ 64 < k then none else Chip.treeNodes k (m.read (r.table + 0x900) (8 * k))
    | none => none
  match t.filter (fun x => Chip.treeOk vocab x) with
  | some x => m.on fun c => c.onSeq s fun q => { q with drafted := true, draftTree := x }
  | none => (m.on fun c => c.onSeq s fun q => { q with drafted := true, draftTree := [] }).on fun c => c.dsqErr n 6

/-- Rows that the ended step's table carried in COMMIT_MAP are in their pages (R253). -/
def commitsDone (n : Fin 4) (m : Mach) : Mach :=
  if m.chip.dsq[n].commitMap ≠ 0 then m
  else each (m.slotsFrom n) (fun (s : Fin 128) (y : Mach) => (y.on fun c => c.onSeq s fun q => { q with commits := false }).finishEnd s) m

/-! ### Experts (R267) -/

/-- EXPERT_REQ of a tile. -/
def expertReq (n : Fin 4) (g : Fin 1024) (x : Nat) (m : Mach) : Mach :=
  let bad := m.on fun c => c.dsqErr n 7
  match m.chip.tile[g].plan with
  | none => bad
  | some k =>
    let p := m.chip.hif.plans[k]
    if p.kind ≠ 0 ∨ !p.schedule.contains g.val ∨ p.prm 7 1 ≠ n.val ∨ p.prm 32 2 ≤ x then bad
    else
      let m := m.met (p.prm 24 8) (16 * p.prm 32 2)
      let st := m.readNat (expertAt p x + 10) 1
      let serial := (m.chip.tile[g].step[(1 : Fin 4)]).toNat
      let m1 := if st = 0 then m else m.on fun c => c.onDsq n fun d =>
        { d with used := d.used.filter (fun u => !(u.1 == k.val && u.2.1 == x)) ++ [(k.val, x, serial)] }
      if st = 0 ∨ st = 3 then m1.raiseCounter (.dsq n) g 13 1
      else (m1.on fun c => c.onDsq n fun d => { d with waiters := d.waiters ++ [(k.val, x, g.val)] }).pageIns n

/-- A page-in ends: the parts are in the slices of the group, every waiter's C13 rises. -/
def expertDone (n : Fin 4) (x : Nat) (m : Mach) : Mach :=
  match m.chip.dsq[n].pageIns.find? (fun e => e.2.1 == x) with
  | none => m
  | some e =>
    let p := m.planN e.1
    if m.expertHeld p || (List.range (p.prm 46 2)).any fun i => m.chip.sliceHeld (Fin.ofNat 1024 (p.prm 44 2 + i)) then m else
    let m := m.met (p.prm 24 8) (16 * p.prm 32 2)
    let m1 := m.on fun c => c.onDsq n fun d => { d with pageIns := d.pageIns.erase e }
    if m.imageGone p x then (m1.setExpert p x 0 1).on (fun c => c.dsqErr n 4) |>.planStop (Fin.ofNat 16 e.1) 0x0109 0
    else
      let cold := m.readNat (expertAt p x) 8
      let size := p.prm 36 4
      let m1 := m1.met cold (p.prm 46 2 * size)
      let m2 := each (List.range (p.prm 46 2)) (fun (i : Nat) (y : Mach) =>
        y.copyRange (cold + i * size) (sliceAddr (Fin.ofNat 1024 (p.prm 44 2 + i)) + p.prm 40 4 + e.2.2 * size) size) m1
      let who := (m2.chip.dsq[n].waiters.filter (fun w => w.1 == e.1 && w.2.1 == x)).map (fun (w : Nat × Nat × Nat) => w.2.2)
      let m3 := (m2.setExpert p x e.2.2 3).on fun c => c.onDsq n fun d =>
        { d with waiters := d.waiters.filter (fun w => !(w.1 == e.1 && w.2.1 == x)), count := updAll d.count (fun i v => if i.val = 3 then (v + 1) % 2 ^ 64 else v) }
      (each who (fun (g : Nat) (y : Mach) => y.raiseCounter (.dsq n) (Fin.ofNat 1024 g) 13 1) m3).pageIns n

/-- A step is finished with (R252): nothing to do until every tile has reached END and every row of the path is sampled. -/
def dsqEnd (n : Fin 4) (m : Mach) : Mach :=
  match m.chip.dsq[n].run with
  | none => m
  | some r =>
    if r.aborted ∨ !r.waiting.isEmpty ∨ (r.kind = 0 ∧ r.live.any (fun s => (m.trace r s).need.isSome)) ∨ m.dsqHeld n then m
    else
      let m1 := (m.on fun c => c.onDsq n fun d => { d with run := none }).commitsDone n
      let m2 := each r.live (fun (s : Fin 128) (y : Mach) =>
        if y.chip.seq[s].st ≠ .generating then y else if r.kind = 0 then y.commitSeq n r s else if r.kind = 1 then y.takeDraft n r s else y) m1
      let m3 := each (fins 4) (fun (i : Fin 4) (y : Mach) => y.pageIns i) (each (m.slotsFrom n) finishEnd m2)
      m3.on fun c => Chip.fallDue r.plan <| each r.live (fun (s : Fin 128) (d : Chip) => d.boundary s) c

/-- A SAMPLE row that is not ready 10 µs after the last END fails the step (R251). -/
def logitsMissing (n : Fin 4) (m : Mach) : Mach :=
  match m.chip.dsq[n].run with
  | none => m
  | some r =>
    let missing := r.rows.zipIdx.any (fun (e : Row × Nat) => e.1.sample && !m.rowReady r e.2)
    if r.kind = 0 ∧ !r.aborted ∧ r.waiting.isEmpty ∧ missing then (m.on fun c => c.dsqErr n 9).planStop r.plan 0x10 0 else m

/-- A step's timeout elapses (R269). -/
def stepTimeout (n : Fin 4) (m : Mach) : Mach :=
  match m.chip.dsq[n].run with
  | some r => if m.chip.hif.plans[r.plan].prm 48 4 ≠ 0 ∧ !r.aborted then m.planStop r.plan 0x10 0 else m
  | none => m

/-- A port of the root complex stops serving: page-ins from its windows stop their plans (R170, R267). -/
def windowDown (p : Fin 4) (cause : Nat) (m : Mach) : Mach :=
  if !m.chip.railsOn ∨ m.chip.cxl.port[p].st = 0 then m
  else
    let m1 := m.cxlDown p cause
    each (fins 4) (fun (n : Fin 4) (y : Mach) =>
      each y.chip.dsq[n].pageIns (fun (e : Nat × Nat × Nat) (z : Mach) =>
        if z.imageGone (z.planN e.1) e.2.1 then
          ((z.setExpert (z.planN e.1) e.2.1 0 1).on fun c => (c.onDsq n fun d => { d with pageIns := d.pageIns.erase e }).dsqErr n 4).planStop (Fin.ofNat 16 e.1) 0x0109 0
        else z) y) m1

end Mach

def execDsqStepStart (n : Fin 4) (s : State) : Host.Outcome State Fault Refusal := onMach (Mach.dsqStart n) s
def execExpertPageInDone (n : Fin 4) (expert : Nat) (s : State) : Host.Outcome State Fault Refusal := onMach (Mach.expertDone n expert) s
def execSampleRow (n : Fin 4) (ns : Nat) (s : State) : Host.Outcome State Fault Refusal := onMach (Mach.sampleRow n ns) s
def execDsqStepEnd (n : Fin 4) (s : State) : Host.Outcome State Fault Refusal := onMach (Mach.dsqEnd n) s
def execRingHeadPoll (seq : Fin 128) (s : State) : Host.Outcome State Fault Refusal :=
  onMach (fun m => if m.chip.seq[seq].st = .generating ∧ m.seqHeld seq = false then m.pushRing seq else m) s
def execLogitsMissing (n : Fin 4) (s : State) : Host.Outcome State Fault Refusal := onMach (Mach.logitsMissing n) s
def execStepTimeout (n : Fin 4) (s : State) : Host.Outcome State Fault Refusal := onMach (Mach.stepTimeout n) s
def execCxlWindowDown (port : Fin 4) (cause : Fin 3) (s : State) : Host.Outcome State Fault Refusal := onMach (Mach.windowDown port (cause.val + 1)) s

end Sys2Proof.Machine
end

