-- ==== Sys2Proof/Machine/Links.lean ====
section
/-!
DEFINITION. Straits: lanes, flits and replays, discovery, keepalives (R272 to R281, R308).
-/
namespace Sys2Proof.Machine
namespace Chip

/-- A counter of received packets, and a packet that is discarded unanswered (R278, R284). -/
def badPacket (c : Chip) : Chip := (c.strErr 10).strCount 6 1

/-- A link-local packet of the module, its payload padded to a multiple of 16 bytes (R277, R282). -/
def linkSend (i : Fin 12) (typ : Nat) (payload : Bytes) (c : Chip) : Chip :=
  let n := (payload.length + 15) / 16 * 16
  let p := { mkPkt typ 0xFFFF 0 n 0 (slice payload 0 n) with src := BitVec.ofNat 16 c.str.modId, seq := c.str.seqNo }
  (c.onStr fun s => { s with seqNo := s.seqNo + 1 }).emit i p

/-- Flits not acknowledged go out again (R273). -/
def replay (i : Fin 12) (c : Chip) : Chip :=
  let b := c.str.link[i].buffer
  (each b (fun (f : Nat × Bytes) (d : Chip) => d.send (.flit i f.2)) c).onLink i fun l => { l with replaysNow := satAdd 8 l.replaysNow b.length }

/-- Fabric discovery completes (R281). -/
def discovery (c : Chip) : Chip :=
  let ls := c.str.link.toList
  let settled := fun (l : Strait) => l.st == 4 || l.st == 5 || (l.st == 3 && l.reach.toList.all (fun r => r.isSome))
  if c.str.modId ≠ 0 ∧ ls.all settled ∧ ls.any (fun l => l.st == 3) then c.onStr fun s => { s with discDone := true } else c

/-- A strait's discovery state is lost with it, and what stands in its queues and buffers; requests of it are sent again (R289, R308). -/
def dropReach (l : Strait) : Strait :=
  { l with reach := Vector.replicate 10 none, outReq := [], outRsp := [], turnRsp := false, inReq := [], inRsp := [], inPart := [], heldReq := 0, heldRsp := 0,
           oweReq := 0, oweRsp := 0 }

/-- A strait goes down, fails or enters Mismatch: its bit and its summary (R275, R278, R308, R513). -/
def loseStrait (i : Fin 12) (st cause : Nat) (c : Chip) : Chip :=
  let was := c.str.link[i].st
  let c1 := c.onLink i fun l => { dropReach l with st := st, lanes := if st = 4 then l.lanes else 0 }
  let c2 := if was = 0 ∨ was = st then c1 else (c1.strErr (if st = 4 then 2 else 1)).faultSummary (strSkerry i) 6 i.val cause
  c2.discovery

/-- A lane is removed; below four the strait goes down (R275). -/
def laneRemove (i : Fin 12) (lane : Fin 8) (c : Chip) : Chip :=
  let l := c.str.link[i]
  if l.st = 0 ∨ l.st = 5 ∨ !bit l.lanes lane.val then c
  else
    let c1 := (((c.onLink i fun x => { x with lanes := setBit x.lanes lane.val false }).strErr 0).faultSummary (strSkerry i) 6 i.val 1)
    if popCount c1.str.link[i].lanes < 4 then c1.loseStrait i 0 2 else c1.replay i

/-- The packets of a data flit enter the receive buffers (R273, R274), where their own commands take them from; the sender of the flit gets its acknowledgement
with the next data flit, or with an idle one. -/
def flitTaken (i : Fin 12) (seq : Nat) (body : Bytes) (c : Chip) : Chip :=
  let l := c.str.link[i]
  let u := unpack 32 (l.inPart ++ body)
  let part := if u.2.length < 16 then [] else [bit (BitVec.ofNat 8 (fieldLe u.2 4 1)) 7]
  let kinds := u.1.map isRsp ++ part
  let c1 := c.onLink i fun x =>
    { x with rx := seq, inPart := u.2, inReq := x.inReq ++ u.1.filter (fun p => !isRsp p), inRsp := x.inRsp ++ u.1.filter isRsp,
             heldReq := x.heldReq + b2n (kinds.contains false), heldRsp := x.heldRsp + b2n (kinds.contains true) }
  let c2 := c1.pump i
  if c2.str.link[i].tx = l.tx then c2.idleFlit i else c2

/-- A flit arrives (R273); a replayed one that was received before is dropped, and returns no credit a second time (R274). -/
def flitIn (i : Fin 12) (f : Bytes) (c : Chip) : Chip :=
  let l := c.str.link[i]
  let n := fun (o k : Nat) => fieldLe f o k
  let ask := fun (d : Chip) => d.send (.flit i (flitBytes 2 d.str.link[i].tx d.str.link[i].rx 0 0 []))
  if l.st < 2 ∨ l.st = 5 then c
  else if f.length ≠ 512 ∨ BitVec.ofNat 32 (n 508 4) ≠ crc32 (f.take 508) then ask c
  else
    let ack := n 498 2 % 4096
    let done := l.buffer.any (fun (b : Nat × Bytes) => b.1 == ack)
    let kind := n 496 2 / 4096
    let seq := n 496 2 % 4096
    let fresh := decide (kind ≠ 0) || decide (seq = (l.rx + 1) % 4096)
    let c1 := c.onLink i fun x =>
      { x with buffer := if done then (x.buffer.dropWhile (fun (b : Nat × Bytes) => b.1 != ack)).drop 1 else x.buffer,
               credReq := x.credReq + (if fresh then n 500 2 else 0), credRsp := x.credRsp + (if fresh then n 502 2 else 0) }
    if kind = 0 then
      if seq = (l.rx + 1) % 4096 then c1.flitTaken i seq (f.take 496)
      else if (l.rx + 4096 - seq) % 4096 < 2048 then c1.pump i
      else ask c1
    else if kind = 2 then (c1.replay i).pump i
    else c1.pump i

/-- Lanes and link layer are up (R281 step 2): flit numbers start again. -/
def trained (i : Fin 12) (lanes : Byte) (c : Chip) : Chip :=
  let l := c.str.link[i]
  if c.railsOn && c.lit (i.val / 2) && l.st == 1 && decide (4 ≤ popCount lanes) then
    c.onLink i fun x => { dropReach x with st := 2, lanes := lanes, tx := 0, rx := 4095, buffer := [], credReq := Config.linkCredits 0, credRsp := Config.linkCredits 1 }
  else c

/-- HELLO (R277, R278). -/
def hello (i : Fin 12) (c : Chip) : Chip :=
  let l := c.str.link[i]
  if l.st = 2 ∨ l.st = 4 then
    c.linkSend i 0xF0 (wordBytes Config.serial ++ bytesLe 1 i.val ++ bytesLe 1 (popCount l.lanes) ++ bytesLe 2 c.str.modId)
  else c

/-- A link-local packet arrives: counted, and discarded where its CRC, type or reserved bits are bad (R283, R284). -/
def localIn (i : Fin 12) (typ : Nat) (p : Packet) (f : Chip → Chip) (c : Chip) : Chip :=
  let l := c.str.link[i]
  if l.st < 2 ∨ l.st = 5 then c
  else
    let c1 := (c.takeIn i p).strCount 1 1
    if p.crc ≠ pktCrc p ∨ p.typ.toNat ≠ typ ∨ p.dest ≠ 0xFFFF ∨ 8 ≤ p.flags.toNat ∨ p.rsv ≠ 0 ∨ p.len.toNat ≠ p.payload.length then c1.badPacket else f c1

/-- HELLO_ACK (R278): the strait is up, or in Mismatch. -/
def helloAck (i : Fin 12) (p : Packet) (c : Chip) : Chip :=
  let n := fun (o k : Nat) => fieldLe p.payload o k
  c.localIn i 0xF1 p fun c =>
    let st := c.str.link[i].st
    if st ≠ 2 ∧ st ≠ 4 then c
    else
      let c1 := c.onLink i fun l => { l with switch := n 4 3, port := n 7 1, plane := n 8 1 }
      if n 8 1 ≠ i.val ∨ (c.str.modId ≠ 0 ∧ n 0 4 ≠ c.str.domain) then c1.loseStrait i 4 4
      else (c1.onLink i fun l => { l with st := 3 }).discovery

/-- ASSIGN (R279): the ID is taken, confirmed or refused. The acknowledgement of an ID that is taken carries it as SRC (R282). -/
def assign (i : Fin 12) (p : Packet) (c : Chip) : Chip :=
  let dom := fieldLe p.payload 0 4
  let id := fieldLe p.payload 4 2
  c.localIn i 0xF2 p fun c =>
    if c.str.link[i].st ≠ 3 then c
    else
      let ok := decide (1 ≤ id) && decide (id ≤ 20480) && (c.str.modId == 0 || (c.str.modId == id && c.str.domain == dom))
      let answer := fun (d : Chip) => d.linkSend i 0xF3 (bytesLe 2 id ++ bytesLe 1 (if ok then 0 else 1))
      if ok then (answer (c.onStr fun s => { s with modId := id, domain := dom })).discovery else (answer c).loseStrait i 4 4

/-- KEEPALIVEs (R278). -/
def keepaliveSend (i : Fin 12) (c : Chip) : Chip := if c.str.link[i].st = 3 then c.linkSend i 0xF5 [] else c
def keepaliveLoss (i : Fin 12) (c : Chip) : Chip := if c.str.link[i].st = 3 then c.loseStrait i 5 3 else c
def discoveryTimeout (i : Fin 12) (c : Chip) : Chip := if c.str.link[i].st = 1 ∨ c.str.link[i].st = 2 then c.loseStrait i 5 3 else c
/-- A strait that is down or failed trains again (R278, R308). -/
def retrain (i : Fin 12) (c : Chip) : Chip :=
  let st := c.str.link[i].st
  if c.railsOn && c.lit (i.val / 2) && (st == 0 || st == 5) then c.onLink i fun l => { dropReach l with st := 1 } else c

end Chip

def execFlitReceive (i : Fin 12) (flit : Bytes) (s : State) : Host.Outcome State Fault Refusal := onChip (Chip.flitIn i flit) s
def execReplayRequest (i : Fin 12) (s : State) : Host.Outcome State Fault Refusal := onChip (Chip.replay i) s
def execStraitTrained (i : Fin 12) (lanes : Byte) (s : State) : Host.Outcome State Fault Refusal := onChip (Chip.trained i lanes) s
def execHello (i : Fin 12) (s : State) : Host.Outcome State Fault Refusal := onChip (Chip.hello i) s
/-- A received KEEPALIVE restarts the strait's timer, which the surroundings keep (log 3). -/
def execKeepalive (i : Fin 12) (pkt : Packet) (s : State) : Host.Outcome State Fault Refusal := onChip (Chip.localIn i 0xF5 pkt id) s
def execKeepaliveSend (i : Fin 12) (s : State) : Host.Outcome State Fault Refusal := onChip (Chip.keepaliveSend i) s
def execStraitRetrain (i : Fin 12) (s : State) : Host.Outcome State Fault Refusal := onChip (Chip.retrain i) s

end Sys2Proof.Machine
end

