-- ==== Sys2Proof/Machine/Collect.lean ====
section
/-!
DEFINITION. The collective engines (R293 to R301).
-/
namespace Sys2Proof.Machine

/-- A field of a descriptor (R294). -/
def dsc (d : Bytes) (off n : Nat) : Nat := fieldLe d off n

/-- Bytes of an element of a reduction (R294). -/
def redBytes (fmt : Nat) : Nat := if fmt = 0 then 4 else 2
/-- Elements of a string as FP32 words, exactly (R296). -/
def redIn (fmt : Nat) (b : Bytes) : List W32 := (chunks (redBytes fmt) b).map (fun x => if fmt = 0 then BitVec.ofNat 32 (numLe x) else (toFp32 fmt (numLe x) 127).1)
/-- The result converted once, RNE and saturation on (R296). -/
def redOut (fmt : Nat) (xs : List W32) : Bytes :=
  (xs.map (fun x => if fmt = 0 then wordBytes x else bytesLe 2 (convElem fmt x 127 none false).1)).flatten
/-- Contributions combined in ascending rank order (R296). -/
def reduceAll (fmt red : Nat) (parts : List Bytes) : Bytes :=
  let f := fun (a b : W32) => (if red = 0 then fadd a b else if red = 1 then fmax a b else fmin a b).1
  match parts.map (redIn fmt) with
  | [] => []
  | p :: rest => redOut fmt (rest.foldl (fun acc x => List.zipWith f acc x) p)

namespace Mach

/-- The module IDs of a group, read when the slot fires (R294, R317); none for SEND and NOTIFY, which ignore the group. -/
def group (m : Mach) (d : Bytes) : List Nat :=
  if dsc d 0 1 = 1 ∨ dsc d 0 1 = 5 ∨ 1024 < dsc d 28 2 then [] else (List.range (dsc d 28 2)).map (fun i => m.readNat (dsc d 32 8 + 2 * i) 2)
/-- Whether an ALL_REDUCE is direct (R297). -/
def isDirect (d : Bytes) : Bool := decide (dsc d 24 4 ≤ 16384)
/-- Whether an operation has two phases (R297). -/
def twoPhase (d : Bytes) : Bool := dsc d 0 1 == 2 && !isDirect d
/-- The bytes each member contributes in the phase that runs: C, or C/N. -/
def partLen (d : Bytes) : Nat := if dsc d 0 1 = 2 ∧ isDirect d then dsc d 24 4 else dsc d 24 4 / dsc d 28 2

/-- The engine's receive buffer (R301). -/
def rxSize : Nat := 0x800000
/-- The bytes of each member's contribution that one of `r` rounds carries: equal rounds of whole 256-byte units (R283, R297, log 42). -/
def roundLen (d : Bytes) (r : Nat) : Nat := if r ≤ 1 then partLen d else ((partLen d + r - 1) / r + 255) / 256 * 256
/-- The rounds of an operation: the fewest whose contributions of all members fit the receive buffer (R297). -/
def rounds (d : Bytes) : Nat := (((List.range 8).map (· + 1)).find? (fun r => decide (dsc d 28 2 * roundLen d r ≤ rxSize))).getD 8
/-- Where a round begins in each contribution, and its bytes. -/
def roundAt (d : Bytes) (j : Nat) : Nat := j * roundLen d (rounds d)
def roundBytes (d : Bytes) (j : Nat) : Nat := min (roundLen d (rounds d)) (partLen d - roundAt d j)
/-- The rounds that carry bytes. -/
def lastRound (d : Bytes) (j : Nat) : Bool := decide (partLen d ≤ roundAt d (j + 1))

/-- A local range an engine may use. -/
def localOk (m : Mach) (a n : Nat) : Bool := m.chip.rangeMapped a n

/-- The descriptor keeps R294 and R297. -/
def descOk (m : Mach) (d : Bytes) (ids : List Nat) : Bool :=
  let f := dsc d
  let op := f 0 1
  let n := f 28 2
  let c := f 24 4
  let count := decide (16 ≤ c) && decide (c ≤ 0x1000000) && c % 16 == 0
  let done := f 42 1 == 3 || (decide (1 ≤ f 43 1) && decide (f 43 1 ≤ 15) && ((f 42 1 == 0 && decide (f 44 2 < 1024)) || (f 42 1 == 1 && decide (f 44 2 < 16))))
  let dstLen := if op = 4 then c / n else c
  let srcLen := if op = 3 then c / n else c
  let grp := decide (2 ≤ n) && decide (n ≤ 1024) && decide (f 30 2 < n) && m.localOk (f 32 8) (2 * n) && count &&
    (List.range n).all (fun i => i == f 30 2 || ids.getD i 0 != m.chip.str.modId) && ids.all (fun x => decide (1 ≤ x) && decide (x ≤ 20480)) &&
    (op == 2 || c % (16 * n) == 0) && (op != 2 || isDirect d || c % (16 * n) == 0) && (op == 3 || decide (f 1 1 ≤ 2)) &&
    m.localOk (f 8 8) srcLen && m.localOk (f 16 8) dstLen && (engOf (f 40 1)).isSome && decide (f 41 1 ≤ 15)
  let one := count && m.localOk (f 8 8) c && (engOf (f 40 1)).isSome && decide (f 41 1 ≤ 15)
  f 46 2 == 0 && (d.drop 52).all (· == 0) && decide (f 3 1 ≤ 2) && decide (f 2 1 ≤ 2) && f 32 8 % 16 == 0 && done &&
    (if op = 1 then one && (m.chip.localOf (f 16 8)).isNone else if op = 5 then one else if op = 2 ∨ op = 3 ∨ op = 4 then grp else false)

/-- The peers of an operation. -/
def peersOf (d : Bytes) (ids : List Nat) : List (Nat × Nat) :=
  if dsc d 0 1 = 1 then [(0, dsc d 16 8 / 2 ^ 48)]
  else if dsc d 0 1 = 5 then []
  else (ids.zipIdx.map (fun (e : Nat × Nat) => (e.2, e.1))).filter (fun (e : Nat × Nat) => e.1 != dsc d 30 2)

/-- One COLL_DATA transfer to a peer: pieces of 256 bytes, numbered from the first of the contribution, `first'` being that of the round (R283, R297). -/
def sendColl (e : Fin 6) (k : Fin 16) (o : CeOp) (phase dest first' : Nat) (data : Bytes) (m : Mach) : Mach :=
  m.on fun c => each ((chunks 256 data).zipIdx) (fun (p : Bytes × Nat) (x : Chip) =>
    let addr := dsc o.desc 41 1 + 16 * dsc o.desc 40 1 + 256 * phase + 65536 * dsc o.desc 30 2 + 2 ^ 32 * o.serial + 2 ^ 48 * (first' + p.2)
    x.submit { pkt := Chip.mkPkt 3 dest addr p.1.length 0 p.1, mode := dsc o.desc 3 1, last := none, tries := 0, owner := .coll e k o.serial }) c

/-- Whether each member contributes a chunk of its own for every rank (R295, R297). -/
def splits (o : CeOp) : Bool := dsc o.desc 0 1 == 4 || (twoPhase o.desc && o.phase == 0)

/-- The data of the phase and round that run goes out: from SRC, or in the second phase this member's reduced chunk. -/
def sendRound (e : Fin 6) (k : Fin 16) (o : CeOp) (m : Mach) : Mach :=
  let lo := roundAt o.desc o.round
  let n := roundBytes o.desc o.round
  let src := dsc o.desc 8 8
  each (peersOf o.desc o.ids) (fun (p : Nat × Nat) (x : Mach) =>
    x.sendColl e k o o.phase p.2 (lo / 256)
      (if o.phase = 1 then slice o.own lo n else x.read (src + (if splits o then p.1 * partLen o.desc else 0) + lo) n)) m

/-- The contribution of a rank in the phase and round that run, once all of it is here. -/
def partOf (m : Mach) (e : Fin 6) (k : Fin 16) (o : CeOp) (rank : Nat) : Option Bytes :=
  let n := roundBytes o.desc o.round
  let mine := m.chip.str.ce[e].rx.filter (fun c => c.slot == k.val && c.serial == o.serial && c.phase == o.phase && c.rank == rank)
  let pieces := (List.range ((n + 255) / 256)).map (fun i => (mine.find? (fun c => c.off == roundAt o.desc o.round / 256 + i)).map (·.data))
  if pieces.all (fun p => p.isSome) then some (slice ((pieces.map (fun p => p.getD [])).flatten) 0 n) else none

/-- What this member itself contributes to what it computes in the round. -/
def ownPart (m : Mach) (o : CeOp) : Bytes :=
  let lo := roundAt o.desc o.round
  let n := roundBytes o.desc o.round
  if o.phase = 1 then slice o.own lo n
  else m.read (dsc o.desc 8 8 + (if splits o then dsc o.desc 30 2 * partLen o.desc else 0) + lo) n

/-- Every contribution of the round in rank order, this member's own included. -/
def parts (m : Mach) (e : Fin 6) (k : Fin 16) (o : CeOp) : Option (List Bytes) :=
  let l := (List.range (dsc o.desc 28 2)).map (fun r => if r = dsc o.desc 30 2 then some (m.ownPart o) else m.partOf e k o r)
  if l.all (fun p => p.isSome) then some (l.map (fun p => p.getD [])) else none

def reduceParts (o : CeOp) (l : List Bytes) : Bytes := reduceAll (dsc o.desc 1 1) (dsc o.desc 2 1) l

/-- The engine's skerry. -/
def engSk (e : Fin 6) : Fin 16 := Fin.ofNat 16 (engSkerry e.val)

/-- What a round gives, once it can be computed: strings with their places in DST (R295 to R297). -/
def resultOf (m : Mach) (e : Fin 6) (k : Fin 16) (o : CeOp) : Option (List (Nat × Bytes)) :=
  let lo := roundAt o.desc o.round
  (m.parts e k o).map fun l =>
    if dsc o.desc 0 1 = 3 ∨ o.phase = 1 then l.zipIdx.map (fun (p : Bytes × Nat) => (p.2 * partLen o.desc + lo, p.1)) else [(lo, reduceParts o l)]

/-- Whether the round that runs is the operation's last. -/
def atLast (o : CeOp) : Bool := lastRound o.desc o.round && (!twoPhase o.desc || o.phase == 1)

/-- Whether what an operation reads of SRC lies in a held slice, or its routes do not work: it waits (R101, R163). -/
def srcHeld (m : Mach) (e : Fin 6) (d : Bytes) : Bool :=
  let op := dsc d 0 1
  let n := if op = 5 then 0 else if op = 3 then partLen d else dsc d 24 4
  decide (0 < n) && decide (n ≤ 0x1000000) && m.chip.holds (some (engSk e).val) (dsc d 8 8) n

/-- A round that is complete, with more to come: the chunk reduced in the first of two phases is kept, any other result is written; the buffer is free again, and
the next round's data goes out (R297). -/
def nextRound (e : Fin 6) (k : Fin 16) (o : CeOp) (l : List (Nat × Bytes)) (m : Mach) : Mach :=
  let first := twoPhase o.desc && o.phase == 0
  let o1 := if lastRound o.desc o.round then { o with phase := 1, round := 0 } else { o with round := o.round + 1 }
  let o2 := if first then { o1 with own := o.own ++ (l.map (·.2)).flatten } else o1
  let lo := roundAt o.desc o.round / 256
  let used := fun (r : Chunk) => r.slot == k.val && r.serial == o.serial && r.phase == o.phase && decide (lo ≤ r.off) &&
    decide (r.off < lo + (roundBytes o.desc o.round + 255) / 256)
  let m1 := if first then m else each l (fun (p : Nat × Bytes) (x : Mach) => x.writeOrHold .bar (some (engSk e).val) (dsc o.desc 16 8 + p.1) p.2) m
  (m1.on fun c => (c.onCe e k fun s => { s with run := some o2 }).onEng e fun x => { x with rx := x.rx.filter (fun r => !used r) }).sendRound e k o2

/-- Rounds that are complete make way for the next (R297). -/
def advanceN (e : Fin 6) (k : Fin 16) : Nat → Mach → Mach
  | 0, m => m
  | n + 1, m =>
    match m.chip.str.ce[e].slots[k].run with
    | none => m
    | some o =>
      if atLast o || m.srcHeld e o.desc then m
      else match m.resultOf e k o with
        | none => m
        | some l => advanceN e k n (m.nextRound e k o l)

/-- At most eight rounds of two phases. -/
def advance (e : Fin 6) (k : Fin 16) (m : Mach) : Mach :=
  match m.chip.str.ce[e].slots[k].run with
  | some o => if dsc o.desc 0 1 = 1 ∨ dsc o.desc 0 1 = 5 then m else m.advanceN e k 16
  | none => m

/-- The bytes of the result an operation would write to DST (R294, R295); none for SEND and BARRIER. -/
def dstLen (d : Bytes) : Nat := if dsc d 0 1 = 4 then partLen d else if dsc d 0 1 = 2 ∨ dsc d 0 1 = 3 then dsc d 24 4 else 0

/-- The DST of a failed operation holds undefined data: free bytes (R300, log 9). -/
def spoilDst (e : Fin 6) (d : Bytes) (m : Mach) : Mach :=
  let a := dsc d 16 8
  let n := dstLen d
  if n = 0 ∨ 0x1000000 < n ∨ !m.localOk a n then m
  else (m.writeOrHold .bar (some (engSk e).val) a (m.chip.freeBytes n)).on fun c => { c with free := c.free + n }

/-- An operation fails: DST is undefined, the failure recorded and reported; it takes no completion action (R300). -/
def ceFail (e : Fin 6) (k : Fin 16) (cause : Nat) (m : Mach) : Mach :=
  let m1 := match m.chip.str.ce[e].slots[k].run with
    | some o => m.spoilDst e o.desc
    | none => m
  m1.on fun c =>
    let serial := (c.str.ce[e].slots[k].run).elim 0 (·.serial)
    let c1 := ((c.onCe e k fun s => { s with run := none }).onEng e fun x =>
      { x with fails := satAdd 8 x.fails 1, lastSlot := k.val, lastCause := cause, rx := x.rx.filter (fun r => !(r.slot == k.val && r.serial == serial)) }).strErr 6
    c1.faultSummary (engSk e) 6 (engSkerry e.val) (0x10 + cause)

/-- An operation starts on a slot with its serial, its descriptor and GROUP list read at the firing (R298, R317). A slot whose operation fails at once starts the firing that waits. -/
def ceStart (e : Fin 6) (k : Fin 16) (d : Bytes) (ids : List Nat) (m : Mach) : Mach :=
  let serial := m.chip.str.ce[e].slots[k].serial
  let o : CeOp := { desc := d, ids := ids, serial := serial, phase := 0, round := 0, own := [], arriveSent := false, arriveAcked := false, lost := false }
  let m1 := m.on fun c => c.onCe e k fun s => { s with run := some o, serial := (s.serial + 1) % 65536 }
  let src := dsc d 8 8
  let op := dsc d 0 1
  let n := if op = 3 then partLen d else dsc d 24 4
  if !m1.descOk d ids then m1.ceFail e k 3
  else if (peersOf d ids).any (fun p => !m1.chip.reachable p.2) then m1.ceFail e k 1
  else if op = 5 then m1
  else
  let m1 := m1.met src n
  if !(m1.badUnits src n).isEmpty ∨ m1.chip.str.ce[e].rx.any (fun r => r.slot == k.val && r.serial == serial && r.bad) then m1.ceFail e k 5
  else if op = 1 then m1.on fun c => c.sendWrites (dsc d 16 8 / 2 ^ 48) (dsc d 16 8 % 2 ^ 48) (dsc d 3 1) (m1.read src n) (.coll e k serial)
  else (m1.sendRound e k o).advance e k

/-- The slot's queued firing starts once nothing runs and its SRC can be read. -/
def ceNext (e : Fin 6) (k : Fin 16) (m : Mach) : Mach :=
  let s := m.chip.str.ce[e].slots[k]
  match s.run, s.queued with
  | none, some d => if m.srcHeld e d.1 then m else (m.on fun c => c.onCe e k fun x => { x with queued := none }).ceStart e k d.1 d.2
  | _, _ => m

/-- A failure of the operation that runs, and the firing that waited. -/
def ceAbort (e : Fin 6) (k : Fin 16) (cause : Nat) (m : Mach) : Mach :=
  if m.chip.str.ce[e].slots[k].run.isNone then m else (m.ceFail e k cause).ceNext e k

/-- A raise of a slot's arrival counter (R293). -/
def ceRaise (e : Fin 6) (k : Fin 16) (v : Nat) (m : Mach) : Mach :=
  let x := m.chip.str.ce[e]
  if x.failed then m
  else if !x.valid then m.on fun c => (c.onEng e fun y => { y with lastSlot := k.val, lastCause := 3 }).strErr 6
  else
    let d := m.read (x.table + 64 * k.val) 64
    let need := max 1 (dsc d 4 4)
    let sum := min (x.slots[k].arrivals + v) 0xFFFFFFFF
    if sum < need then m.on fun c => c.onCe e k fun s => { s with arrivals := sum }
    else
      let m1 := m.on fun c => c.onCe e k fun s => { s with arrivals := sum - need }
      let s := x.slots[k]
      if s.run.isNone && s.queued.isNone && !m.srcHeld e d then (m1.ceStart e k d (m.group d)).ceNext e k
      else if s.queued.isNone then m1.on fun c => c.onCe e k fun s => { s with queued := some (d, m.group d) }
      else m1.on fun c => (c.onEng e fun y => { y with lastSlot := k.val, lastCause := 4 }).strErr 7

/-- The DONE action of a descriptor (R294, R299). -/
def ceDone (e : Fin 6) (d : Bytes) (m : Mach) : Mach :=
  let cnt : Fin 16 := Fin.ofNat 16 (dsc d 43 1)
  let v := BitVec.ofNat 32 (dsc d 48 4)
  if dsc d 42 1 = 0 then m.raiseCounter (.ce e) (Fin.ofNat 1024 (dsc d 44 2)) cnt v
  else if dsc d 42 1 = 1 then each (tilesOf (Fin.ofNat 16 (dsc d 44 2))) (fun (g : Fin 1024) (x : Mach) => x.raiseCounter (.ce e) g cnt v) m
  else m

/-- An operation completes where everything it needs is here (R299). A firing or a round that waited for SRC goes on first (R163). -/
def ceComplete (e : Fin 6) (k : Fin 16) (m : Mach) : Mach :=
  match m.chip.str.ce[e].slots[k].run with
  | none => m.ceNext e k
  | some o =>
    let op := dsc o.desc 0 1
    let m := m.advance e k
    let o := (m.chip.str.ce[e].slots[k].run).getD o
    let finish := fun (x : Mach) =>
      ((x.on fun c => (c.onCe e k fun s => { s with run := none }).onEng e fun y =>
        { y with rx := y.rx.filter (fun r => !(r.slot == k.val && r.serial == o.serial)) }).ceDone e o.desc).ceNext e k
    if op = 5 then finish m
    else if op = 1 then (if o.arriveAcked then finish m else m)
    else if !atLast o then m
    else match m.resultOf e k o with
      | none => m
      | some l =>
        let dst := dsc o.desc 16 8
        let n := dstLen o.desc
        if m.chip.holds (some (engSk e).val) dst n then m
        else if !m.chip.rangeMapped dst n then m.ceAbort e k 3
        else finish (each l (fun (p : Nat × Bytes) (x : Mach) => x.write (dst + p.1) p.2) m)

/-- SEND's writes are all acknowledged, none given up: its ARRIVE goes out (R295). -/
def sendArrive (e : Fin 6) (k : Fin 16) (serial : Nat) (m : Mach) : Mach :=
  match m.chip.str.ce[e].slots[k].run with
  | none => m
  | some o =>
    if o.serial ≠ serial ∨ dsc o.desc 0 1 ≠ 1 ∨ o.arriveSent ∨ o.lost ∨
       m.chip.pendingFor (fun w => match w with | .coll a b s => a == e && b == k && s == serial | _ => false) then m
    else m.on fun c =>
      (c.onCe e k fun s => { s with run := some { o with arriveSent := true } }).submit
        { pkt := Chip.mkPkt 4 (dsc o.desc 16 8 / 2 ^ 48) (dsc o.desc 41 1 + 16 * dsc o.desc 40 1) 0 1 [], mode := dsc o.desc 3 1, last := none, tries := 0,
          owner := .arrive e k serial }

/-- Operations with a member out of reach fail (R300, R308). -/
def reachChanged (m : Mach) : Mach :=
  let m1 := m.on Chip.releaseWaiting
  each (fins 6) (fun (e : Fin 6) (x : Mach) => each (fins 16) (fun (k : Fin 16) (y : Mach) =>
    match y.chip.str.ce[e].slots[k].run with
    | some o => if (peersOf o.desc o.ids).any (fun p => !y.chip.reachable p.2) then y.ceAbort e k 1 else y
    | none => y) x) m1

/-- Whether the engine's 8 MiB receive buffer has no room for a packet's data (R301). -/
def rxFull (m : Mach) (e : Fin 6) (p : Packet) : Bool :=
  decide (rxSize < (m.chip.str.ce[e].rx.map (fun r => r.data.length)).foldl (· + ·) 0 + p.payload.length)

/-- What a COLL_DATA packet is to its slot (R298): of a serial that the slot does not take, a repeat of a chunk that is kept or was used, or new data. -/
inductive CeKind where
  | stray
  | again
  | fresh
deriving DecidableEq, Repr

/-- The chunk that a COLL_DATA packet carries (R283). -/
def chunkOf (p : Packet) : Chunk :=
  { slot := fld p.addr 0 4, serial := fld p.addr 32 16, phase := fld p.addr 8 1, rank := fld p.addr 16 16, off := fld p.addr 48 16, data := p.payload, bad := bit p.flags 2 }

/-- Whether the operation that runs has used a chunk: it belongs to an earlier phase or round. -/
def ceUsed (o : CeOp) (c : Chunk) : Bool :=
  o.serial == c.serial && (decide (c.phase < o.phase) || (c.phase == o.phase && decide (256 * c.off < roundAt o.desc o.round)))

/-- The running or next operation of a slot and the one after take data; a chunk counts once (R298). -/
def ceKind (m : Mach) (e : Fin 6) (c : Chunk) : CeKind :=
  let s := m.chip.str.ce[e].slots[(Fin.ofNat 16 c.slot : Fin 16)]
  let base := (s.run).elim s.serial (·.serial)
  if c.serial ≠ base ∧ c.serial ≠ (base + 1) % 65536 then .stray
  else if (s.run.any fun o => ceUsed o c) ||
      m.chip.str.ce[e].rx.any (fun r => r.slot == c.slot && r.serial == c.serial && r.phase == c.phase && r.rank == c.rank && r.off == c.off) then .again
  else .fresh

/-- COLL_DATA for a slot (R298): new data is kept and may let its operation go on, a repeat has no effect, a stray packet is reported. -/
def ceData (e : Fin 6) (p : Packet) (m : Mach) : Mach :=
  let c := chunkOf p
  let k : Fin 16 := Fin.ofNat 16 c.slot
  match m.ceKind e c with
  | .stray => m.on (Chip.strErr 6)
  | .again => m
  | .fresh =>
    let m1 := m.on fun x => x.onEng e fun y => { y with rx := y.rx ++ [c] }
    match m.chip.str.ce[e].slots[k].run with
    | some o => if o.serial = c.serial then (if c.bad then m1.ceAbort e k 5 else m1.advance e k) else m1
    | none => m1

/-- A write of STR_CE_TABLE (R293, R298, R311): every serial returns to 0 with VALID, and data kept for firings to come is dropped. -/
def ceTable (e : Fin 6) (v : W64) (m : Mach) : Mach :=
  m.on fun c => c.onEng e fun x =>
    let y := { x with valid := bit v 63, table := fld v 10 38 * 1024 }
    if bit v 63 then
      { y with slots := y.slots.map (fun s => { s with serial := 0 }),
               rx := y.rx.filter (fun r => match (y.slots.toList.getD r.slot resetCeSlot).run with | some o => o.serial == r.serial | none => false) }
    else y

end Mach

/-- A strait goes down (R308). -/
def Chip.straitGone (i : Fin 12) (c : Chip) : Chip := if c.str.link[i].st = 0 then c else c.loseStrait i 0 2

/-- A change of a strait or of what it reaches. -/
def onLinkChange (f : Chip → Chip) (s : State) : Host.Outcome State Fault Refusal := onMach (fun m => (m.on f).reachChanged) s

def execLaneRemove (i : Fin 12) (lane : Fin 8) (s : State) : Host.Outcome State Fault Refusal := onLinkChange (Chip.laneRemove i lane) s
def execHelloAck (i : Fin 12) (pkt : Packet) (s : State) : Host.Outcome State Fault Refusal := onLinkChange (Chip.helloAck i pkt) s
def execAssign (i : Fin 12) (pkt : Packet) (s : State) : Host.Outcome State Fault Refusal := onLinkChange (Chip.assign i pkt) s
def execReach (i : Fin 12) (pkt : Packet) (s : State) : Host.Outcome State Fault Refusal :=
  onLinkChange (Chip.localIn i 0xF4 pkt fun c =>
    let k := fld pkt.addr 0 4
    if c.str.link[i].st = 3 ∧ k ≤ 9 then
      (c.onLink i fun l => { l with reach := updAll l.reach (fun j o => if j.val = k then some (slice pkt.payload 0 256) else o) }).discovery
    else c) s
def execKeepaliveLoss (i : Fin 12) (s : State) : Host.Outcome State Fault Refusal := onLinkChange (Chip.keepaliveLoss i) s
def execDiscoveryTimeout (i : Fin 12) (s : State) : Host.Outcome State Fault Refusal := onLinkChange (Chip.discoveryTimeout i) s
def execCollectiveComplete (e : Fin 6) (slot : Fin 16) (s : State) : Host.Outcome State Fault Refusal := onMach (Mach.ceComplete e slot) s
def execCollectiveTimeout (e : Fin 6) (slot : Fin 16) (s : State) : Host.Outcome State Fault Refusal := onMach (Mach.ceAbort e slot 2) s
def execStrCeTable (e : Fin 6) (value : W64) (s : State) : Host.Outcome State Fault Refusal := onMach (fun m => if m.chip.railsOn then m.ceTable e value else m) s

end Sys2Proof.Machine
end

