-- ==== Sys2Proof/Machine/Frames.lean ====
section
/-!
DEFINITION. Control frames and status frames, the receivers, and the control tick (R326 to R337, R349, R350, R361).
-/
namespace Sys2Proof.Machine

/-- Payload bytes of a frame kind (R328). -/
def payLen (kind : Nat) : Nat := [0, 68, 44, 8, 16].getD kind 0

/-- A frame: header, payload, CRC (R327). -/
def mkFrame (kind flags state : Nat) (seq : W32) (map : W32) (index : Nat) (pay : Bytes) : Bytes :=
  let h := bytesLe 1 kind ++ bytesLe 1 flags ++ bytesLe 1 state ++ bytesLe 1 pay.length ++ wordBytes seq ++ wordBytes map ++ bytesLe 2 index ++
    bytesLe 2 0 ++ pay
  h ++ bytesLe 4 (crc32 h).toNat

/-- A range check of the payload fields: encodings, ranges and reserved bits (R328, R399). -/
def payloadOk (kind : Nat) (p : Bytes) : Bool :=
  let u8 := fun i => fieldLe p i 1
  let u16 := fun i => fieldLe p i 2
  if kind = 1 then
    (List.range 16).all (fun s => decide (8 ≤ u8 (6 + 4 * s)) && decide (u8 (6 + 4 * s) ≤ 38) && u8 (7 + 4 * s) = 0)
  else if kind = 4 then u8 0 < 64 && u8 1 = 0 && (List.range 10).all (fun k => u8 (6 + k) = 0)
  else if kind = 2 then
    let mode := fun c => u8 (4 * c)
    (List.range 10).all (fun c =>
      decide (mode c ≤ 2) && decide (u8 (4 * c + 1) ≤ 200) && decide (1 ≤ u8 (4 * c + 2)) && decide (u8 (4 * c + 2) ≤ 40) && u8 (4 * c + 3) = 0 &&
      (mode c ≠ 2 || (decide (4 ≤ c) && decide (c ≤ 7) && u8 (4 * c + 1) ≠ 0 && u8 (4 * c + 1) ≠ 200))) &&
    mode 0 = mode 1 && mode 2 = mode 3 && mode 9 = 0 && u16 42 = 0
  else (List.range 2).all (fun b => decide (u16 (4 * b) ≤ 1000) && u8 (4 * b + 3) = 0)

/-- A parsed frame. -/
structure Frame where
  kind : Nat
  flags : Byte
  state : Nat
  seq : W32
  map : W32
  index : Nat
  pay : Bytes
deriving DecidableEq, Repr

/-- A frame read from its bytes: none with a bad length or CRC (R327). -/
def parseFrame (bs : Bytes) : Option Frame :=
  let len := fieldLe bs 3 1
  if bs.length = len + 20 ∧ fieldLe bs (16 + len) 4 = (crc32 (bs.take (16 + len))).toNat then
    some { kind := fieldLe bs 0 1, flags := BitVec.ofNat 8 (fieldLe bs 1 1), state := fieldLe bs 2 1, seq := BitVec.ofNat 32 (fieldLe bs 4 4),
           map := BitVec.ofNat 32 (fieldLe bs 8 4), index := fieldLe bs 12 2, pay := slice bs 16 len }
  else none

namespace Chip

/-- Frames of a tick from a sending controller (R326, R349): header flags SRC, ACTIVE, RESYNC, LATE, SELFTEST, HOLD. RESYNC
stands in the frames of a kind until a receiver of the kind has answered, and the ten ticks with HOLD count from the first answer (R336, R349; DEDUCED, log 51). A LATE_MAP bit ends with the frame that carried it
(R363). A last-gasp request goes after the frames (R474). -/
def sendFrames (i : Fin 2) (c : Chip) : Chip :=
  let m := c.mc[i]
  if m.core = .running ∧ m.sending then
    let o := m.out
    let seq := m.seq
    let grp := bit o.lateMap 0
    let mapOf := fun (kind : Nat) =>
      if kind = 1 then (if grp then 0x1FFFF#32 else 0) else if kind = 2 then BitVec.ofNat 32 (nfld o.lateMap.toNat 4 4 * 16)
      else if kind = 3 then BitVec.ofNat 32 (nfld o.lateMap.toNat 8 2) else 0
    let flags := fun (kind : Nat) =>
      i.val + 2 * b2n (c.pair.active == i.val) + 4 * b2n (bit m.resync (kind - 1)) + 8 * b2n (mapOf kind != 0) + 16 * b2n m.round + 32 * b2n (0 < m.hold)
    let fr := fun (kind : Nat) (pay : Bytes) (d : Chip) =>
      d.send (.frame (mcOf i) (mkFrame kind (flags kind) c.mod.st.code seq (mapOf kind) 0 pay))
    let c1 := fr 4 (powerPayload { o with rails := c.pwr.enabled } c.pair.tripAck) (fr 1 (supPayload o c.pair.hostEvent) c)
    let c2 := if seq.toNat % 10 = 0 then fr 2 (adPayload o c.pair.tripAck) c1 else c1
    let c3 := if seq.toNat % 100 = 50 then fr 3 (blowPayload o c.pair.restart) c2 else c2
    let sent := 0xFFFFFFFE#32 &&& (if seq.toNat % 10 = 0 then 0xFFFFFF0F#32 else 0xFFFFFFFF#32) &&& (if seq.toNat % 100 = 50 then 0xFFFFFCFF#32 else 0xFFFFFFFF#32)
    let l := c.nv[i].log
    let c4 := if 0 < l.gaspLeft then (c3.send (.gasp (mcOf i) l.gaspMsg)).onNv i fun n => { n with log := { n.log with gaspLeft := l.gaspLeft - 1 } } else c3
    c4.onMc i fun x => { x with hold := if x.resync = 0xF then x.hold else x.hold - 1, out := { x.out with lateMap := x.out.lateMap &&& sent } }
  else c

/-- The standby sets the integrators of loops whose output is applied so that they track the output the status frames echo (R345, R359): the selected group slot and
the drivers of trims and blowers; none where no status frame has reached it. -/
def trackApplied (i : Fin 2) (c : Chip) : Chip :=
  if c.pair.active ≠ i.val ∧ c.pair.active ≠ 0xFF then
    each (fins 32) (fun (n : Fin 32) (d : Chip) =>
      let s := d.mc[i].slots[n]
      let out := d.slotOut i n
      let target : Option Int :=
        if out = 1 then (c.echoCeil i).map (fun v => (v : Int))
        else if (c.supTel i (if out < 0x20 then 16 else 17)).seen then some (c.seedTarget i n) else none
      match target with
      | some v =>
        if s.st = .running ∧ s.seeded ∧ d.slotNat i n 0 0x11 = 0 ∧ (d.mc[i].selected = n.val ∨ 0x14 ≤ out) then
          d.onSlot i n fun x => c.retarget i n (c.measure i n x) v x
        else d
      | none => d) c
  else c

/-- The package ceiling of a controller starts from the orphan ceiling, with its group's integrators seeded there (R350). -/
def fromOrphan (i : Fin 2) (c : Chip) : Chip :=
  c.onMc i fun m => { m with applied := 14976, slots := updAll m.slots (fun n s =>
    if c.slotOut i n.val = 1 && s.st = .running then { s with seeded := false, out := true, toOwn := true, om := 14976 } else { s with seeded := false }) }

/-- A running controller sends the frames of the tick; after the last HOLD frame the applied ceiling is the echoed one (R349 step 3), in Ochre hold the orphan ceiling
(R350). -/
def framesOut (i : Fin 2) (c : Chip) : Chip :=
  let c1 := c.sendFrames i
  if c1.mc[i].hold = 0 ∧ c.mc[i].hold = 1 then
    if c.mod.st = .ochre then c1.fromOrphan i
    else match c1.echoCeil i with
      | some v => c1.onMc i fun m => { m with applied := v }
      | none => c1
  else c1

/-- The inputs of a controller are latched and the coolant values computed from them (R361 step 1, R387 to R392). -/
def latchInputs (i : Fin 2) (x : TickIn) (c : Chip) : Chip :=
  let l := (c.onCool i (coolRead i (decide (c.time % 100 = 0)) x.a x.b c.pair.link c.mc[other i].cool)).junctionRead i
  ((l.coolFilter i).coolResolve i).coolLoops i

/-- A controller's part of the tick (R361): frames of this tick out, inputs latched, slots computed, the next frames encoded. The tick number moves on, also while the
core is stopped. -/
def mcTick (i : Fin 2) (x : TickIn) (c : Chip) : Chip :=
  let live := c.mc[i].core = .running ∨ c.mc[i].core = .rejoining
  let c2 := if live then
      let d := (((c.framesOut i).latchInputs i x).engineTick i x).trackApplied i
      d.send (.pair (mcOf i) (d.tickMsg i))
    else c.sendFrames i
  c2.onMc i fun m => { m with seq := m.seq + 1 }

/-- Clocks of the always-on domains: operating seconds and calendar time (R318, R468). -/
def clocksTick (c : Chip) : Chip :=
  let step := fun (f s : Nat) => if 9999 ≤ f then (0, s + 1) else (f + 1, s)
  let nv := c.nv.map (fun (n : CtrlNv) =>
    let (f, s) := step n.frac n.seconds
    let (cf, cs) := if n.calValid then step n.calFrac n.calendar else (n.calFrac, n.calendar)
    { n with frac := f, seconds := s, calFrac := cf, calendar := cs })
  let (af, as) := step c.ad.frac c.ad.seconds
  { c with nv := nv, ad := { c.ad with frac := af, seconds := as } }

/-- What the hardware reads at the tick: junctions and skerry powers (R103), flits that mesh links sent again (R100), supplies, blower speeds (the previous one while STALE, R322) and currents, the actuator driver's outlet elements and
leak loops, and memory errors that came to stand (log 49). -/
def hardwareTick (x : TickIn) (c : Chip) : Chip :=
  let base := bit c.pwr.good 1
  let sk := if base then updAll c.sk (fun i s => { s with
      tj := Vector.ofFn (fun j => x.tj.toList.getD (8 * i.val + j.val) 0x8000), power := (x.power[i]).toNat }) else c.sk
  let stale := fun (b : Fin 2) => bit x.rpm[b] 15
  let blow := updAll c.blow (fun b y =>
    let run := 0 < c.drivenDuty b
    let ok := run && decide (y.startedAt + secs 60 ≤ c.time)
    { y with rpm := if y.tachBroken then 0x8000 else if stale b then setBit y.rpm 15 true else x.rpm[b], staleRun := if stale b then min 8 (y.staleRun + 1) else 0, ma := x.motorMa[b], starting := y.starting && decide (c.time < y.startedAt + secs 2),
             retry := if ok then 0 else y.retry })
  let c1 := { c with sk := sk, blow := blow, errs := if base then c.errs ++ x.errors else c.errs, pins := { c.pins with busbar := x.volts, amps := x.amps, auxMv := x.auxMv },
                     ad := { c.ad with to1 := goodTemp x.a.tout, to2 := goodTemp x.b.tout } }
  let c2 := if base then each x.meshRetries (fun (r : Fin 42 × Nat) (d : Chip) => if d.mesh.link[r.1].st = 1 then d.meshRetry r.1 r.2 else d) c1 else c1
  c2.adLoops x.a.lk x.b.lk

/-- Busbar bands (R420, R421, R453). -/
def busbarReport (c : Chip) : Chip :=
  let v := c.pins.busbar
  (c.condSet (decide (4000 ≤ v) && decide (v < 4400)) 0x3120 0 0 v).condSet (decide (6000 < v)) 0x3121 0 0 v

/-- Ticks from one frame of a receiver to the next (R326): 10 for the actuator driver, 100 for the blower driver, 1 for the others. -/
def framePeriod (k : Nat) : Nat := if k = 16 then 10 else if k = 17 then 100 else 1

/-- Receivers that applied no frame in the last tick that carries one for them hold (R333; DEDUCED, log 51); a HOLD frame's fields are not applied. Their timers run on
(R37). -/
def recvTick (c : Chip) : Chip :=
  { c with recv := updAll c.recv (fun k r => { r with idle := r.idle + 1, holding := r.onHold || decide (framePeriod k.val ≤ r.idle) }) }

/-- At each whole second the counts of retries and replays of that second are published (R180, R311). -/
def secondTick (c : Chip) : Chip :=
  if c.time % 10000 = 0 then
    { c with gmc := { c.gmc with dev := c.gmc.dev.map (fun (g : Gddr) => { g with retries := g.retriesNow, retriesNow := 0 }) },
             str := { c.str with link := c.str.link.map (fun (l : Strait) => { l with replays := l.replaysNow, replaysNow := 0 }) } }
  else c

/-- The active controller's frames of a tick carry the oldest pair event not yet passed to host software (R339). -/
def nextHostEvent (c : Chip) : Chip :=
  match c.pair.hostQ with
  | ev :: rest => if c.served ∧ c.mc[c.activeMc].core = .running ∧ c.mc[c.activeMc].sending then c.onPair fun p => { p with hostEvent := ev, hostQ := rest } else c
  | [] => c

/-- Each controller's copy of the alarm states within the tick: the active one's, and over the pair link the standby's (R318, R344). -/
def alarmCopies (c : Chip) : Chip :=
  if c.served then
    let keep := fun (m : Ctrl) => { m with alarms := c.comm.conds }
    let c1 := c.onMc c.act keep
    if c.pair.link then c1.onMc (other c.act) keep else c1
  else c

/-- What the clients of the dictionary see of time: outstanding requests are answered within the tick (R456), sessions of transfers and of SPDM end (R445, R477). -/
def clientsTick (c : Chip) : Chip := ((c.onComm fun q => { q with asked := [] }).usdoTick).spdmTick

/-- The tick until the controllers' slots: what the cycle before left to decide (R34), time, the hardware's readings, the event for host software. -/
def tickRead (x : TickIn) (c : Chip) : Chip :=
  (({ c.settleStop with time := c.time + 1 }.secondTick.clocksTick.hardwareTick x).recvTick).busbarReport.nextHostEvent

/-- The base tick of 100 µs (R361): MC-A's slot, then MC-B's 40 µs later, and what follows from them. -/
def controlTick (x : TickIn) (c : Chip) : Chip :=
  if c.mod.st = .unpowered then { c with time := c.time + 1 }
  else
    let c2 := ((c.tickRead x).mcTick 0 x).mcTick 1 x
    let c3 := ((if c2.served ∧ c2.mc[c2.act].core = .running then c2.coolReport.leakReport else c2).openWatch.handBack.alarmCopies).clientsTick
    match c3.mod.rampFrom with
    | some t0 =>
      if 24960 ≤ 14976 + 8 * c3.val (okey 0x4010 7) * (c3.time - t0) / 10000 then c3.onMod fun m => { m with rampFrom := none } else c3
    | none => c3

/-! ### Receivers -/

def onRecv (r : Fin 19) (f : Recv → Recv) (c : Chip) : Chip := { c with recv := upd c.recv r f }

/-- RFLAGS (R333). -/
def rflags (c : Chip) (r : Recv) : W32 :=
  BitVec.ofNat 32 (b2n r.appliedB + 2 * b2n r.mismatch + 4 * b2n r.uncompared + 8 * b2n r.orphan + 16 * b2n (c.ad.latch != 0) + 32 * b2n r.holding +
    256 * r.mmField)

/-- Posts of one status frame (R329): two as they are; more are merged by sign, the shortest lead of the merged, unit 0xFF when two or more merge. -/
def mergePosts (l : List (Int × Nat × Nat)) : List (Int × Nat × Nat) :=
  if l.length ≤ 2 then l
  else
    let group := fun (g : List (Int × Nat × Nat)) =>
      match g with
      | [] => (0, 0, 0)
      | [x] => x
      | x :: r => (satS 16 (g.foldl (fun a y => a + y.1) 0), r.foldl (fun a y => min a y.2.1) x.2.1, 0xFF)
    [group (l.filter (fun x => decide (0 ≤ x.1))), group (l.filter (fun x => decide (x.1 < 0)))]

def postBytes (x : Int × Nat × Nat) : Bytes := bytesLe 2 (unsgn 16 x.1) ++ bytesLe 2 x.2.1 ++ bytesLe 1 x.2.2 ++ [0, 0, 0]

/-- The status payload of a receiver for a port (R329). -/
def statusPayload (c : Chip) (r : Receiver) (port : Fin 2) : Bytes :=
  match r with
  | .sup s =>
    let k := c.sk[s]
    let (u, cause) := (k.sums[port]).headD (0, 0)
    let ps := mergePosts k.posts[port]
    (k.tj.toList.flatMap wordBytes) ++ bytesLe 2 k.power ++ bytesLe 2 k.ceil ++ bytesLe 1 k.applied ++
      bytesLe 1 (match k.st with | .off => 0 | .resetting => 1 | .ready => 2 | .failed => 3) ++ bytesLe 1 cause ++ bytesLe 1 u ++
      postBytes (ps.getD 0 (0, 0, 0)) ++ postBytes (ps.getD 1 (0, 0, 0))
  | .power =>
    bytesLe 1 c.pwr.enabled.toNat ++ [0] ++ bytesLe 2 c.pwr.iLim ++ wordBytes c.pwr.tripAck ++ [0, 0] ++ bytesLe 2 c.pins.busbar ++ bytesLe 2 c.pins.amps ++
      bytesLe 1 c.pwr.good.toNat ++ [0, 0, 0]
  | .ad =>
    (c.ad.ch.toList.flatMap (fun h => bytesLe 1 h.mode ++ bytesLe 1 h.duty ++ bytesLe 1 h.freq ++ [0])) ++ wordBytes c.ad.tripAck ++ [0, 0] ++
      c.ad.ch.toList.flatMap (fun h => bytesLe 2 (chWord h))
  | .blower =>
    (c.blow.toList.flatMap (fun b => bytesLe 2 b.duty ++ wordBytes b.restart ++ [0])) ++ c.blow.toList.flatMap (fun b => wordBytes b.rpm)

/-- The answer to an applied or compared frame on the segment that carried it (R329); its summary and posts leave the supervisor's lists for that port. -/
def answerFrame (r : Receiver) (port : Mc) (c : Chip) : Chip :=
  let v := c.recv[r.ix]
  let index := match r with | .sup s => s.val | _ => 0
  let f := mkFrame (0x80 + r.kind) port.ix.val v.state v.seq (c.rflags v) index (c.statusPayload r port.ix)
  let c1 := c.send (.status port f)
  match r with
  | .sup s => c1.onSk s fun k => { k with sums := upd k.sums port.ix List.tail, posts := vput k.posts port.ix [] }
  | _ => c1

/-- States in which a missing frame starts the 500 ms timer (R319). -/
def timed (st : Nat) : Bool := 3 ≤ st && st ≤ 6

/-- Leaving Ochre hold at the first frame without HOLD that any receiver applies, one whose timer never expired included: the spec does not say which frame ends
the hold when only some timers expired (R37, DESIGN CHOICE, log 50) (R35, R38, R350): Tripped when a latch is set, else the state held before; the group starts from
the orphan ceiling and ramps; the ejector switch is evaluated as it stands; rails that went down meanwhile withdraw the permission (R431; DEDUCED, log 2). -/
def ochreExit (c : Chip) : Chip :=
  if c.mod.st ≠ .ochre then c
  else
    let c1 := c.blowersFull false
    if c1.ad.latch ≠ 0 ∨ c1.pwr.latchInput then (c1.endSequences).setState .tripped
    else
      let c2 := (c1.setState c1.mod.before).onMod fun m => { m with rampFrom := some c.time }
      let c3 := (c2.fromOrphan 0).fromOrphan 1
      let c4 := if c3.pins.pressed && c3.pins.request && !c3.pins.ignored && canDrain c3.mod.st then c3.enterDraining 1 else c3
      if c4.mod.st = .serving ∧ !c4.railsOn then c4.askStop 4 else c4

/-- A new HOST_EVENT is posted to the hosts once, by the first supervisor that applies it (R328, R339). -/
def hostEventPost (s : Fin 16) (ev : W16) (c : Chip) : Chip :=
  let known := (fins 16).any (fun k => c.sk[k].hostEv = ev)
  let c1 := if ev ≠ 0 ∧ !known then c.postEither (eventWord 2 9 (fld ev 7 1) (fld ev 0 7)) else c
  c1.onSk s fun k => { k with hostEv := ev }

/-- The supervisor's fields (R43, R89, R328): the package ceiling, the skerry's ceiling, CLK_LIM, the count of non-zero ceilings, HOST_EVENT. -/
def applySup (s : Fin 16) (p : Bytes) (c : Chip) : Chip :=
  let ceil := fun (k : Nat) => fieldLe p (4 + 4 * k) 2
  let n := ((List.range 16).filter (fun k => ceil k ≠ 0)).length
  let c1 := c.onSk s fun k =>
    { k with ceil := ceil s.val, lastCeil := ceil s.val, pkgCeil := fieldLe p 0 2, nonzero := n, clkLim := fieldLe p (6 + 4 * s.val) 1 }
  (c1.reclock s).hostEventPost s (BitVec.ofNat 16 (fieldLe p 2 2))

/-- One channel's command (R399, R401, R403, R408). Channel 8 releases only in Aux, Standby or Tripped with both valves confirmed closed; while the madder latch
is set no other channel is energised (R415). -/
def applyChan (k : Fin 10) (mode duty freq st : Nat) (c : Chip) : Chip :=
  let old := c.ad.ch[k]
  let c1 := c.onCh k fun h => { h with mode := mode, duty := duty, freq := freq }
  let closed := (List.range 4).all (fun j => (c.ad.ch.toList.getD j resetChan).pos = 1)
  if k.val = 8 then
    if mode = 1 ∧ (st = 1 ∨ st = 2 ∨ st = 8) ∧ closed then c1.energise 8 else c1.deenergise 8
  else if c.ad.latch ≠ 0 ∨ mode = 0 then (c1.onCh k fun h => { h with pulsing := false }).deenergise1 k
  else if mode = 1 then (c1.onCh k fun h => { h with pulsing := false }).energise1 k
  else if old.mode = 2 then c1
  else if k.val = 4 ∨ k.val = 6 then c1.periodStart k
  else match switchMate k with
    | some j => if c1.ad.ch[j].pulsing && c1.ad.ch[j].pFreq = freq then c1 else c1.periodStart k
    | none => c1

/-- An AD frame's channels and acknowledgement; an isolation peak that it ends lets the other valve's peak begin (R398). -/
def applyAd (p : Bytes) (st : Nat) (c : Chip) : Chip :=
  let u8 := fun i => fieldLe p i 1
  let c1 := each (fins 10) (fun (k : Fin 10) (d : Chip) => d.applyChan k (u8 (4 * k.val)) (u8 (4 * k.val + 1)) (u8 (4 * k.val + 2)) st) c
  ((c1.releaseIso).ackAd (BitVec.ofNat 16 (fieldLe p 40 2))).tripLeft

def applyBlowers (p : Bytes) (c : Chip) : Chip :=
  each (fins 2) (fun (b : Fin 2) (d : Chip) => d.blowerApply b (fieldLe p (4 * b.val) 2) (BitVec.ofNat 8 (fieldLe p (4 * b.val + 2) 1))) c

end Chip

/-- The power-stage fields (R328, R430): I_LIM, TRIP_ACK; RAILS with no bit takes a powered package down, with the laser bit clear darkens the lasers, and in
Package-on enables the next rail of the order. -/
def Mach.applyPower (p : Bytes) (m : Mach) : Mach :=
  let rails := BitVec.ofNat 6 (fieldLe p 0 1)
  let m1 := m.on fun c => ((c.onPwr fun x => { x with iLim := fieldLe p 2 2 }).ackPower (BitVec.ofNat 16 (fieldLe p 4 2))).tripLeft
  if m1.chip.railsOn && rails = 0 then m1.packageDown
  else if m1.chip.pwr.laser && !bit rails 5 then m1.on Chip.lasersDark
  else match m1.chip.pwr.phase with
    | .up k => if m1.chip.mod.st = .packageOn && bit rails k && !bit m1.chip.pwr.enabled k then m1.on (Chip.nextRail k) else m1
    | _ => m1

/-- The effect of an applied frame's payload at its receiver. -/
def Mach.applyPayload (r : Receiver) (f : Frame) (m : Mach) : Mach :=
  match r with
  | .sup s => m.on (Chip.applySup s f.pay)
  | .ad => m.on (Chip.applyAd f.pay (f.state % 16))
  | .blower => m.on (Chip.applyBlowers f.pay)
  | .power => m.applyPower f.pay

/-- A control frame reaches a receiver on a segment (R330, R331, R335, R336): the first valid copy is applied, a second of the same tick compared, everything else
discarded and counted; applied and compared copies are answered. HOLDING reads 1 in the answer to the first frame after a tick without one, and to a HOLD frame
(R333, R349). -/
def Mach.controlFrame (r : Receiver) (port : Mc) (bytes : Bytes) (m : Mach) : Mach :=
  let c := m.chip
  let powered := c.mod.st != .unpowered && (match r with | .sup _ => bit c.pwr.good 1 | _ => true)
  let v := c.recv[r.ix]
  let drop := m.on (Chip.onRecv r.ix fun x => { x with discarded := satAdd 32 x.discarded 1 })
  if !powered then m
  else match parseFrame bytes with
    | none => m
    | some f =>
      if f.kind ≠ r.kind ∨ f.pay.length ≠ payLen r.kind ∨ !payloadOk f.kind f.pay ∨ bit f.flags 6 ∨ bit f.flags 7 ∨ 8 < f.state ∨
          fieldLe bytes 12 4 ≠ 0 then m
      else
        let dist := (f.seq - v.seq).toNat
        let resync := bit f.flags 2
        let srcB := bit f.flags 0
        let isNew := if resync then decide (20 ≤ v.idle) else decide (1 ≤ dist) && decide (dist ≤ 10000)
        if isNew then
          let m1 := m.on (Chip.onRecv r.ix fun x =>
            { x with have' := true, seq := f.seq, state := f.state, src := srcB, at' := c.time, payload := if bit f.flags 5 then x.payload else f.pay, idle := 0, timerOn := Chip.timed f.state,
                     compared := false, holding := x.holding || bit f.flags 5, onHold := bit f.flags 5, orphan := if bit f.flags 5 then x.orphan else false,
                     uncompared := x.have' && !x.compared, appliedB := srcB })
          let m2 := if bit f.flags 5 then m1 else (m1.on Chip.ochreExit).applyPayload r f
          m2.on fun d => (d.answerFrame r port).onRecv r.ix fun x => { x with holding := bit f.flags 5 }
        else if f.seq = v.seq ∧ v.have' ∧ !resync ∧ srcB ≠ v.src ∧ !v.compared ∧ v.at' = c.time then
          let fs := if bit f.flags 5 then [] else Chip.mismatches r.kind v.payload f.pay v.state f.state
          m.on fun d => ((d.onRecv r.ix fun x =>
            { x with compared := true, uncompared := false, mismatch := !fs.isEmpty, mmField := fs.headD 0 }).answerFrame r port)
        else if f.seq = v.seq ∧ srcB ≠ v.src ∧ !v.compared then
          m.on (Chip.onRecv r.ix fun x => { x with uncompared := true, discarded := satAdd 32 x.discarded 1 })
        else drop

namespace Chip

/-- The controllers that send begin anew with RESYNC and HOLD frames (R349 step 2, R350). -/
def resyncAll (c : Chip) : Chip :=
  { c with mc := c.mc.map (fun (m : Ctrl) => if m.core = .running ∧ m.sending then { m with resync := 0xF, hold := 10 } else m) }

/-- A receiver's 500 ms timer expires (R37): the supervisor caps its own skerry's ceiling, the blowers run full, everything else is held; the module reports Ochre
hold from the first expiry. -/
def orphanTimeout (r : Receiver) (c : Chip) : Chip :=
  if !c.recv[r.ix].timerOn then c
  else
    let c1 := c.onRecv r.ix fun x => { x with orphan := true, holding := true }
    let c2 := match r with
      | .sup s =>
        let k := c.sk[s]
        let share := if k.nonzero = 0 then 0 else 14976 / k.nonzero
        (c1.onSk s fun x => { x with ceil := min k.lastCeil share, pkgCeil := min k.pkgCeil 14976 }).reclock s
      | .blower => c1.blowersFull true
      | _ => c1
    match c.mod.st with
    -- start-up progress of the same cycle loses against Ochre hold (R34); a controller that sends goes on with RESYNC and HOLD (R350)
    | .coolantReady | .packageOn | .serving | .draining =>
      (c2.onMod fun m => { m with before := if c.mod.st = .serving ∧ c.mod.upAt = some c.time then .packageOn else c.mod.st }).setState .ochre |>.resyncAll
    | _ => c2

/-- While MC-A stays active, of one tick's frame some receivers applied its copy and others MC-B's: the latter are named in the logbook (R337, log 23). -/
def faultyPorts (i : Fin 2) (seq : W32) (c : Chip) : Chip :=
  let of := fun (b : Bool) => (fins 19).filter (fun r => let t := c.mc[i].tel[r]; t.seen && t.seq == seq && (bit t.flags 0 == b))
  if c.pair.active = 0 ∧ of false ≠ [] then
    each ((of true).filter (fun r => !c.mc[i].tel[r].named)) (fun (r : Fin 19) (d : Chip) =>
      (d.onMc i fun m => { m with tel := upd m.tel r fun t => { t with named := true } }).logUnlisted i 0 r.val) c
  else c

/-- What a controller takes from a status frame of receiver `r` (R329, R334, R336, R337, R464): telemetry, the comparison it reports unless the frame had no second
copy, posts, fault summaries; a differing SEQ echo is adopted. -/
def statusFrom (i : Fin 2) (r : Fin 19) (kind : Nat) (f : Frame) (c : Chip) : Chip :=
  let old := c.mc[i].tel[r]
  let fs := if bit f.map 1 then [fld f.map 8 8] else []
  let (runs, last, bad) := if bit f.map 2 then (old.runs, old.last32, false) else persist fs old.runs old.last32
  let active := c.served && decide (c.act = i)
  let c1 := (c.onMc i fun m =>
    { m with tel := vput m.tel r { seen := true, at' := c.time, state := f.state % 16, seq := f.seq, flags := f.map, payload := f.pay, runs := runs,
                                   last32 := last, named := old.named && bit f.map 0 },
             seq := if (kind = 1 ∨ kind = 4) ∧ f.seq + 1 ≠ m.seq then f.seq + 1 else m.seq,
             resync := setBit m.resync (kind - 1) false }).noteDisagree i bad
  let c1 := (if bit f.map 2 then c1 else c1.logDisagree i (256 * (r.val + 1)) fs).faultyPorts i f.seq
  let power := c1.pkgPower i
  let posts := (List.range 2).filterMap (fun k =>
    let b := slice f.pay (24 + 8 * k) 8
    if kind = 1 ∧ fieldLe b 4 1 ≠ 0 then some (sgn 16 (fieldLe b 0 2), fieldLe b 2 2, fieldLe b 4 1) else none)
  let c2 := each posts (fun (x : Int × Nat × Nat) (d : Chip) =>
    let d1 := d.onMc i fun m => { m with posts := m.posts ++ [{ fresh := true, allow := decide (0 < x.1), step := x.1, lead := x.2.1, at' := c.time, power := power }] }
    if active then d1.onComm fun q =>
      { q with eventsAnn := satAdd 32 q.eventsAnn 1, lastAnn := unsgn 16 x.1 * 2 ^ 16 + x.2.2 * 256 + min 255 (x.2.1 / 100) } else d1) c1
  let cause := fieldLe f.pay 22 1
  let unit := fieldLe f.pay 23 1
  if kind = 1 ∧ unit ≠ 0 ∧ active then
    let c3 := c2.onComm fun q =>
      { q with sums := updAll q.sums (fun k v => if k.val + 1 = unit then satAdd 32 v 1 else v),
               lastSums := ((unit * 2 ^ 24 + cause * 2 ^ 16 + f.index * 256 + (q.sums.toList.foldl (· + ·) 0 + 1) % 256) :: q.lastSums).take 16 }
    c3.emcyEvent 0xFF50 f.index unit cause
  else c2

/-- A status frame reaches a controller whose core runs (R329). -/
def statusFrame (i : Fin 2) (bytes : Bytes) (c : Chip) : Chip :=
  match parseFrame bytes with
  | none => c
  | some f =>
    let kind := f.kind - 0x80
    let live := decide (c.mc[i].core = .running) || decide (c.mc[i].core = .rejoining)
    let bad := f.kind < 0x81 || 0x84 < f.kind || f.pay.length != [0, 40, 64, 12, 16].getD kind 0 || 15 < f.index
    if !live || bad then c
    else if kind = 1 then c.statusFrom i (Fin.ofNat 19 f.index) kind f
    else if kind = 2 then c.statusFrom i 16 kind f
    else if kind = 3 then c.statusFrom i 17 kind f
    else c.statusFrom i 18 kind f

end Chip
end Sys2Proof.Machine
end

