-- ==== Sys2Proof/Machine/Access.lean ====
section
/-!
DEFINITION. Clients of the dictionary, their roles, and what a read of each object returns (R351, R385, R419, R439 to R443, R461 to R464, R479, R480).
-/
namespace Sys2Proof.Machine
namespace Chip

/-- Whether the dictionary answers on a path (R31, R440, R447, R455): the active controller serves from Standby on, not in Ochre hold; CAN FD unless
NMT Stopped; PCIe while the host port is up. -/
def pathOpen (c : Chip) (p : Path) : Bool :=
  c.served && (match c.mod.st with | .unpowered | .aux | .ochre => false | _ => true) &&
  (match p with
   | .can => c.comm.nmt ≠ 4
   | .pcie0 => c.portUp 0
   | .pcie1 => c.portUp 1
   | _ => true)

/-- Whether the serving core runs: a stopped core is woken by the request and does not receive it (R320). -/
def coreUp (c : Chip) : Bool := c.mc[c.act].core = .running

/-- What comes from outside reaches the serving controller: an awake core takes it, a stopped one only wakes (R319, R320). -/
def reach (p : Path) (f : Chip → Chip) (c : Chip) : Chip :=
  if !c.pathOpen p then c else if c.coreUp then f c else if c.mc[c.act].core = .stopped then c.wakeAll else c

/-- An access by a client counts for its inactivity time (R480). -/
def touch (cl : Client) (c : Chip) : Chip :=
  c.onSec fun s => { s with roles := s.roles.map (fun (r : RoleHold) => if r.client = cl then { r with at' := c.time } else r) }

/-- A refusal under a check of R443 is recorded when it is check 4 or the client holds a role (R470). -/
def refuseLog (cl : Client) (i s chk : Nat) (c : Chip) : Chip :=
  let role := c.roleOfClient cl
  if chk = 4 ∨ 1 ≤ role then c.logAccess 0x0202 (srcOf cl) (bytesLe 2 i ++ bytesLe 1 s ++ bytesLe 1 chk) role else c

/-- An accepted write is recorded in the cases of R470. -/
def acceptLog (cl : Client) (i s v role : Nat) (c : Chip) : Chip :=
  if 1 ≤ role ∨ (i = 0x2400 ∧ s = 2) ∨ (i = 0x3800 ∧ s = 2) ∨ (0x5000 ≤ i ∧ i ≤ 0x57FF) then
    c.logConfig 0x0201 (srcOf cl) (bytesLe 2 i ++ bytesLe 1 s ++ bytesLe 3 v) role
  else c

/-! ### Values that reads return -/

/-- Characters 5–14 of the module serial read as a decimal number (R461, R511). -/
def serialDec : Nat := ((slice (wordBytes Config.serial) 4 10).foldl (fun a b => 10 * a + (b.toNat - 48)) 0) % 2 ^ 32

/-- A record of the logbook as 32 bytes (R467). -/
def logBytes (r : LogRec) : Bytes :=
  let b := bytesLe 4 r.number ++ bytesLe 1 r.cls ++ [r.flags, r.stRole, 0] ++ bytesLe 8 r.time ++ bytesLe 2 r.code ++ bytesLe 2 r.source ++
    slice r.data 0 6 ++ bytesLe 2 r.repeat'
  b ++ bytesLe 4 (crc32 b).toNat

/-- The controller whose logbook object 5000.05 selects (R463). -/
def logSel (c : Chip) : Fin 2 := if c.val (okey 0x5000 5) = 1 then other c.act else c.act

/-- Whether a last-gasp record that is not erased fails its CRC (R418). -/
def gaspBad (c : Chip) : Bool :=
  c.ad.gasp.toList.any fun r => r.headD 0xFF != 0xFF && fieldLe r 28 4 != (crc32 (slice r 0 28)).toNat

/-- Object 3800.01 (R418, R419). -/
def tripStatus (c : Chip) : Nat :=
  (c.ad.latch ||| c.pwr.latchTrip).toNat + 32 * b2n c.pwr.latchInput + 256 * b2n (c.ad.latch != 0) +
    512 * b2n (c.pwr.latchTrip != 0 || c.pwr.latchInput) + 2 ^ 31 * b2n c.gaspBad

/-- The code of a slot state (R385). -/
def slotStCode : SlotSt → Nat
  | .free => 0
  | .stopped => 1
  | .running => 2
  | .frozen => 3
  | .faulted => 4

/-- Bits of a test over numbers below n. -/
def maskOf (n : Nat) (p : Nat → Bool) : Nat := (List.range n).foldl (fun a k => a + (if p k then 2 ^ k else 0)) 0

def raw16 (v : Option Int) : Nat := unsgn 16 (v.getD (-32768))
def ratU (n : Nat) (x : Rat) : Nat := min (2 ^ n - 1) (rne x).toNat

/-- Object 4000.01, the engine status (R385). -/
def engineStatus (c : Chip) : Nat :=
  let m := c.mc[c.act]
  let used := (fins 32).filter (fun n => m.slots[n].st = .running || m.slots[n].st = .frozen || m.slots[n].st = .faulted)
  let late := match m.lateAt with | some t => decide (c.time - t ≤ secs 1) | none => false
  b2n (computes c.mod.st 3) + 2 * b2n late + 4 * b2n (used.any (fun n => c.inputFault c.act (c.slotIn c.act n.val))) +
    8 * b2n (used.any (fun n => m.slots[n].st = .faulted)) + 16 * b2n (m.selected == 0xFE) +
    32 * b2n ((fins 32).any (fun n => m.slots[n].test = 2)) + 64 * b2n (m.cap.status == 2)

/-- Reads of the identity and power objects that the module computes. -/
def readPower (c : Chip) (i s : Nat) : Option Nat :=
  if i = 0x2000 then
    if s = 1 then some Config.serial.toNat
    else if s = 2 then some (numLe [0x50, 0x58, 0x55, 0x2D, 0x34, 0x30, 0x31, 0x36])
    else if s = 4 then some (c.fwVersion 0) else if s = 5 then some (c.fwVersion 1)
    else if s = 6 then some c.nv[c.act].seconds else if s = 7 then some c.nv[c.act].cycles else none
  else if i = 0x2010 then (if s = 3 then some c.comm.nodeId else if s = 4 then some c.comm.nmt else none)
  else if i = 0x2020 then
    if s = 1 then some c.mc[c.act].stored.serial else if s = 2 then some c.comm.areasFactory
    else if s = 3 then some c.comm.stores else if s = 4 then some c.comm.restPend else none
  else if i = 0x2400 then
    if s = 1 then some c.mod.st.code else if s = 2 then some c.mod.permit else if s = 4 then some (if c.mod.st = .packageOn then c.pendingStep c.str.discDone else 0)
    else if s = 5 then some c.pins.busbar else if s = 6 then some c.pins.amps else if s = 7 then some (ratU 16 c.inputPower)
    else if s = 8 then some c.pins.auxMv else if s = 9 then some c.pwr.good.toNat else if s = 0xA then some c.pwr.railFaults
    else if s = 0xB then some c.mod.fillP else if s = 0xC then some c.mod.decayRes
    else if s = 0xF then some (b2n c.pins.pressed + 2 * b2n c.pins.ignored + 4 * b2n (c.ad.ch[(8 : Fin 10)].pos == 2) + 8 * b2n c.pins.engageA +
      16 * b2n c.pins.engageB + 32 * b2n c.pins.presence + 64 * b2n c.pwr.hotSwap)
    else if s = 0x10 then some c.mod.lastStop else if s = 0x11 then some c.pwr.supvResets else none
  else none

/-- Reads of the coolant, actuator and protection objects (R419). -/
def readCoolant (c : Chip) (i s : Nat) : Option Nat :=
  let x := c.mc[c.act].cool
  let elem := fun (v : Option Int) (k : Nat) => if bit x.faulted k then 0x8000 else raw16 v
  if i = 0x3000 then
    if s = 4 then some (unsgn 16 x.inlet) else if s = 5 then some (unsgn 16 x.outlet)
    else if s = 6 then some (raw16 (x.model.map (fun m => satS 16 (rne (16 * m)))))
    else if s = 8 then some (match x.flow with | some f => ratU 16 (100 * f) | none => 0xFFFF)
    else if s = 9 then some (x.fq.getD 0) else if s = 0xA then some ((x.dp.getD 0).toNat) else if s = 0xB then some (ratU 16 (100 * x.fdp))
    else if s = 0xC then some (x.faulted.toNat + 64 * b2n x.substituted + 128 * b2n (pkgState c.mod.st && !x.modelValid)) else none
  else if i = 0x3001 then
    if s = 1 then some (elem x.ti[(0 : Fin 2)] 0) else if s = 2 then some (elem x.ti[(1 : Fin 2)] 1)
    else if s = 3 then some (elem x.tout[(0 : Fin 2)] 2) else if s = 4 then some (elem x.tout[(1 : Fin 2)] 3) else none
  else if i = 0x3010 then
    if s = 1 then some x.lk[(0 : Fin 2)] else if s = 2 then some x.lk[(1 : Fin 2)]
    else if s = 3 then
      let wet := fun (k : Fin 2) => x.loop[k] = 1 || x.loop[k] = 2
      some (x.loop[(0 : Fin 2)] + 4 * x.loop[(1 : Fin 2)] + 16 * b2n ((wet 0 || wet 1) && !c.ad.confirmed) + 32 * b2n c.ad.confirmed)
    else none
  else if i = 0x3020 then
    if 1 ≤ s ∧ s ≤ 10 then some (chWord (c.ad.ch.toList.getD (s - 1) resetChan)) else if s = 0xB then some c.ad.boostV
    else if s = 0xE then some c.ad.stuckCount else none
  else if i = 0x3030 then
    let b0 := c.blow[(0 : Fin 2)]
    let b1 := c.blow[(1 : Fin 2)]
    if s = 1 then some b0.rpm.toNat else if s = 2 then some b1.rpm.toNat
    else if s = 3 then some (b2n b0.stalled + 2 * b2n b1.stalled + 4 * b2n b0.tachBroken + 8 * b2n b1.tachBroken +
      16 * b2n (b0.stalled && decide (0 < b0.retry)) + 32 * b2n (b1.stalled && decide (0 < b1.retry)))
    else if s = 4 then some b0.ma.toNat else if s = 5 then some b1.ma.toNat else none
  else if i = 0x3800 then
    if s = 1 then some c.tripStatus else if s = 3 then some (c.protection c.act).1 else if s = 4 then some (c.protection c.act).2
    else if s = 5 then some c.ad.trips else if s = 6 then some c.ad.clamps else none
  else if i = 0x3880 then (if 1 ≤ s ∧ s ≤ 16 then some (numLe (c.ad.gasp.toList.getD (s - 1) [])) else none)
  else none

/-- Reads of the loop-engine and pair objects (R351, R385). -/
def readLoop (c : Chip) (i s : Nat) : Option Nat :=
  let m := c.mc[c.act]
  if i = 0x4000 then
    if s = 1 then some c.engineStatus else if s = 8 then some m.applied else if s = 9 then some m.selected
    else if s = 0xA then some (c.allowance c.act) else if s = 0xB then some m.lateCount else if s = 0xC then some (ratU 16 m.ovh) else none
  else if i = 0x4010 then
    if s = 8 then some m.disp.status.toNat else if s = 9 then some m.disp.duty else if s = 0xA then some m.disp.freq
    else if s = 0xB then some m.disp.ua else if s = 0xC then some m.disp.target else if s = 0xD then some (ratU 16 m.disp.setp) else none
  else if i = 0x4020 then
    if s = 2 then some m.lastHandle.toNat
    else if s = 4 then some (maskOf 32 (fun n => (m.slots.toList.getD n resetSlot).st ≠ .free)) else none
  else if i = 0x4600 then (if s = 5 then some m.cap.status else if s = 6 then some m.cap.recs.length else none)
  else if i = 0x4800 then
    if s = 1 then some c.pairStatus else if s = 2 then some c.pair.active else if s = 3 then some c.pair.takeovers
    else if s = 4 then some c.pair.switchbacks else if s = 5 then some c.pair.rounds else if s = 6 then some c.pair.result.toNat
    else if s = 7 then some c.pair.stale else none
  else if i = 0x4801 then
    let cnt := fun (k : Fin 2) => min 255 ((c.mc[k].silentAt.filter (fun t => c.nv[k].seconds - t < 86400)).length)
    if s = 1 then some (cnt 0) else if s = 2 then some (cnt 1) else none
  else match slotOf i with
    | some (n, o) =>
      let x := m.slots.toList.getD n resetSlot
      if o = 0 then
        if s = 1 then some (slotHandle (Fin.ofNat 32 n) x) else if s = 2 then some (slotStCode x.st) else if s = 0xC then some x.code else none
      else if o = 6 then
        if s = 8 then some x.late
        else if 1 ≤ s ∧ s ≤ 7 then some (unsgn 32 ([x.ym, x.em, x.um, x.im, x.dm, x.ffm, x.om].getD (s - 1) 0)) else none
      else if o = 7 then (if s = 9 then some x.test else none)
      else none
    | none => none

/-- Reads of the logbook, role and summary objects (R463, R464), by a client. -/
def readSecurity (c : Chip) (cl : Client) (i s : Nat) : Option Nat :=
  let l := c.nv[c.logSel].log
  let tj := fun (k : Nat) => telTj (c.supTel c.act k)
  if i = 0x5000 then
    if s = 1 then some l.ring.length else if s = 2 then some l.lost
    else if s = 3 then some (b2n l.failed + 2 * b2n (!l.queue.isEmpty) + 4 * b2n l.overrun) else none
  else if i = 0x5020 then
    if s = 1 then some (Config.random c.free).toNat else if s = 3 then some (c.roleOfClient cl) else none
  else if i = 0x5030 then (if s = 2 then some c.sec.ret else none)
  else if i = 0x5040 then (if s = 1 then some c.nv[c.act].calendar else if s = 2 then some (b2n c.nv[c.act].calValid) else none)
  else if 0x5800 ≤ i ∧ !c.railsOn then none
  else if i = 0x5800 then
    if s = 1 then some (maskOf 16 (fun k => telState (c.supTel c.act k) == 3))
    else if s = 2 then some (raw16 (listMax ((List.range 16).flatMap tj)))
    else if s = 3 then some (ratU 16 ((c.pkgPower c.act : Rat) / 8))
    else if s = 4 then some (maskOf 16 (fun k => (c.sk.toList.getD k resetSkerry).clamp)) else none
  else if 1 ≤ s ∧ s ≤ 16 ∧ i = 0x5801 then some (raw16 (listMax (tj (s - 1))))
  else if 1 ≤ s ∧ s ≤ 16 ∧ i = 0x5802 then some (telPower (c.supTel c.act (s - 1)))
  else if 1 ≤ s ∧ s ≤ 16 ∧ i = 0x5803 then some (fieldLe (c.supTel c.act (s - 1)).payload 20 1)
  else if 1 ≤ s ∧ s ≤ 8 ∧ i = 0x5810 then some (c.comm.sums.toList.getD (s - 1) 0)
  else if 1 ≤ s ∧ s ≤ 16 ∧ i = 0x5811 then some (c.comm.lastSums.getD (s - 1) 0)
  else if i = 0x5820 then (if s = 1 then some c.comm.eventsAnn else if s = 2 then some c.comm.lastAnn else none)
  else none

/-- Reads of the communication profile that the module computes (R453, R457, R461). -/
def readComm (c : Chip) (i s : Nat) : Option Nat :=
  if i = 0x1001 ∧ s = 0 then some c.errorRegister
  else if i = 0x1003 then (if s = 0 then some c.comm.hist.length else if s ≤ 16 then some (c.comm.hist.getD (s - 1) 0) else none)
  else if i = 0x1008 ∧ s = 0 then some (numLe [0x48, 0x75, 0x61, 0x71, 0x75, 0x65, 0x6C, 0x20, 0x50, 0x58, 0x55, 0x2D, 0x34, 0x30, 0x31, 0x36])
  else if i = 0x1009 ∧ s = 0 then some 0x3042
  else if i = 0x100A ∧ s = 0 then some (Config.softwareText (c.fwVersion c.act)).toNat
  else if i = 0x1018 then (if s = 1 then some Config.vendorId.toNat else if s = 4 then some serialDec else none)
  else if (i = 0x1010 ∨ i = 0x1011) ∧ 1 ≤ s ∧ s ≤ 10 then some 1
  else none

/-- The value of an entry as raw bits: computed, or held by the active controller. -/
def readRaw (c : Chip) (cl : Client) (i s : Nat) : Nat :=
  match c.readComm i s with
  | some v => v
  | none =>
    match c.readPower i s with
    | some v => v
    | none =>
      match c.readCoolant i s with
      | some v => v
      | none =>
        match c.readLoop i s with
        | some v => v
        | none =>
          match c.readSecurity cl i s with
          | some v => v
          | none => c.val (okey i s)

/-- The bytes of a DOMAIN object (R383, R473). -/
def readDomain (c : Chip) (i : Nat) : Bytes :=
  if i = 0x4601 then c.mc[c.act].cap.recs.flatMap (fun r => r.flatMap (fun v => bytesLe 4 (unsgn 32 v)))
  else (c.nv[c.logSel].log.ring.reverse.drop (c.val (okey 0x5000 4))).flatMap logBytes

/-- Whether a slot object of a Free slot refuses the access (R385). -/
def freeSlot (c : Chip) (i s : Nat) (write : Bool) : Bool :=
  match slotOf i with
  | some (n, o) => (c.mc[c.act].slots.toList.getD n resetSlot).st = .free && (write || !(o = 0 && (s = 1 || s = 2)))
  | none => false

/-- The checks of R443 for a read: the number of the check that fails and its abort code; (0, 0) when it is allowed. -/
def readCheck (c : Chip) (i s : Nat) : Nat × Nat :=
  if !objIndex i then (1, 0x06020000)
  else match objInfo i s with
    | none => (2, 0x06090011)
    | some e =>
      if e.acc = .wo then (3, 0x06010001)
      else if c.freeSlot i s false then (7, 0x08000022)
      else if i = 0x5001 ∧ c.val (okey 0x5000 5) = 1 ∧ !c.pair.link then (7, 0x08000022)
      else (0, 0)

/-- The bytes of an entry. -/
def readBytes (c : Chip) (cl : Client) (i s : Nat) : Bytes :=
  match objInfo i s with
  | some e => if e.ty = .domain then c.readDomain i else bytesLe e.ty.size (c.readRaw cl i s)
  | none => []

/-- A read of 5020.01 issues a fresh challenge bound to the client, which replaces an earlier one (R479). -/
def issueChallenge (cl : Client) (c : Chip) : Chip :=
  (c.onSec fun s =>
    { s with challenges := ⟨cl, wordBytes (Config.random c.free), c.time, false⟩ :: s.challenges.filter (fun x => decide (x.client ≠ cl)) }).draw

/-- A read by a client (R442, R443): the abort code, the bytes, and the state after it. -/
def objRead (cl : Client) (i s : Nat) (c : Chip) : Nat × Bytes × Chip :=
  let c0 := c.touch cl
  match c.readCheck i s with
  | (0, _) =>
    let bs := c.readBytes cl i s
    (0, bs, if i = 0x5020 ∧ s = 1 then c0.issueChallenge cl else c0)
  | (k, abort) => (abort, [], c0.refuseLog cl i s k)

end Chip
end Sys2Proof.Machine
end

