-- ==== Sys2Proof/Machine/Store.lean ====
section
/-!
DEFINITION. Store and restore (R457 to R459), roles and their proofs (R479 to R481), return state (R489 to R493), calendar time (R468).
-/
namespace Sys2Proof.Machine
namespace Chip

/-- Both controllers while the pair link is up, else the active one alone (R346, R458). -/
def bothMc (f : Ctrl → Ctrl) (c : Chip) : Chip :=
  if c.pair.link then { c with mc := c.mc.map f } else c.onMc c.act f

/-- What a store covers: NV objects of the area whose minimum role the client's role meets (R458). -/
def covered (area role k : Nat) : Bool := areaHas area (k / 256) && isNv k && decide (roleOf k ≤ role)

/-- The image after a store of an area by a role: present values of the covered objects; the slots in use and running with the loop area. -/
def storeImage (area role : Nat) (m : Ctrl) : Stored :=
  let s := m.stored
  let kept := omErase (covered area role) s.val
  let val := (m.val.filter (fun e => covered area role e.1)).foldl (fun a e => omSet e.1 e.2 a) kept
  let loops := areaHas area 0x4100 && decide (1 ≤ role)
  let bits := fun (p : Slot → Bool) => BitVec.ofNat 32 (maskOf 32 (fun n => p (m.slots.toList.getD n resetSlot)))
  { val := val, serial := (s.serial + 1) % 2 ^ 32,
    slots := if loops then bits (fun x => x.st ≠ .free) else s.slots,
    run := if loops then bits (fun x => x.st ≠ .free && x.st ≠ .stopped) else s.run }

/-- The areas whose pending bit a store of an area clears: those it covers (R457, R459). -/
def areasWithin (area : Nat) : Nat :=
  maskOf 11 (fun a => a = area || (area = 1 && decide (1 ≤ a)) || (area = 3 && decide (4 ≤ a)))

/-- A store (R458): both images, the serial, empty journals, record 0x0203. -/
def storeArea (cl : Client) (area : Nat) (c : Chip) : Chip :=
  let role := c.roleOfClient cl
  let src := c.mc[c.act]
  let img := storeImage area role src
  let c1 := c.bothMc fun m => { m with stored := img, journal := [] }
  let c2 := if c.pair.link then c1.send (.pair (mcOf c.act) (.storeOrder area)) else c1
  let c3 := c2.onComm fun q =>
    { q with stores := satAdd 32 q.stores 1, restPend := q.restPend - (BitVec.ofNat 16 q.restPend &&& BitVec.ofNat 16 (areasWithin area)).toNat }
  c3.logConfig 0x0203 (srcOf cl) (bytesLe 1 area ++ bytesLe 4 img.serial) role

/-- The image after a restore of an area (R459): factory defaults, which an absent entry reads as. -/
def restoreImage (area : Nat) (s : Stored) : Stored :=
  let loops := areaHas area 0x4100
  { s with val := omErase (fun k => areaHas area (k / 256)) s.val, slots := if loops then 0x01FFFFFF else s.slots, run := if loops then 0x01FFFFFF else s.run }

/-- A restore (R459): the image takes the defaults, present values stay, the area's bit is pending, record 0x0204. -/
def restoreArea (cl : Client) (area : Nat) (c : Chip) : Chip :=
  let c1 := c.bothMc fun m => { m with stored := restoreImage area m.stored }
  let c2 := c1.onComm fun q => { q with restPend := (BitVec.ofNat 16 q.restPend ||| BitVec.ofNat 16 (2 ^ area)).toNat }
  c2.logConfig 0x0204 (srcOf cl) (bytesLe 1 area) (c.roleOfClient cl)

/-! ### Roles (R479 to R481) -/

/-- The stored installer credential; zero while empty (R481). -/
def credential (c : Chip) : Nat := c.val (okey 0x5021 1)

/-- Why a proof is refused: 0 for a proof that holds, with the role it gives (R479). -/
def proofReason (c : Chip) (cl : Client) (sig : Bytes) : Nat × Nat :=
  let id := sig.take 16
  let inst := bytesLe 113 c.credential
  let maker := [Config.makerKey 0, Config.makerKey 1].find? (fun k => decide (k.take 16 = id))
  let key := if c.credential ≠ 0 ∧ inst.take 16 = id then some (inst, 1) else maker.map (fun k => (k, 2))
  if c.time < c.sec.blockUntil then (6, 0)
  else match c.sec.challenges.find? (fun x => decide (x.client = cl)) with
    | none => (1, 0)
    | some ch =>
      if ch.used ∨ secs 60 < c.time - ch.at' then (2, 0)
      else match key with
        | none => (3, 0)
        | some (k, role) =>
          let msg := ch.value ++ wordBytes Config.serial ++ bytesLe 1 cl.path.code ++ [cl.id]
          if !ecdsaOk k msg sig then (4, 0) else if role = 2 ∧ c.sec.ret ≠ 2 then (5, 0) else (0, role)

/-- A proof is judged: the role is established, or the refusal recorded and counted for the rate limit (R479). -/
def roleProof (cl : Client) (sig : Bytes) (c : Chip) : Nat × Chip :=
  let (reason, role) := c.proofReason cl sig
  let used := c.onSec fun s => { s with challenges := s.challenges.map (fun (x : Challenge) => if x.client = cl then { x with used := true } else x) }
  if reason = 0 then
    let c1 := used.onSec fun s => { s with roles := ⟨cl, role, c.time⟩ :: s.roles.filter (fun r => decide (r.client ≠ cl)) }
    (0, c1.logAccess 0x0210 (srcOf cl) (bytesLe 1 role ++ sig.take 4) role)
  else
    let recent := c.time :: c.sec.refusedAt.filter (fun t => c.time < t + secs 60)
    let c1 := if reason = 6 then c else used.onSec fun s =>
      { s with refusedAt := recent, blockUntil := if 5 ≤ recent.length then c.time + secs 60 else s.blockUntil }
    (0x08000000, c1.logAccess 0x0212 (srcOf cl) (bytesLe 1 reason) (c.roleOfClient cl))

/-- A client's role ends (R480). -/
def endRoleOf (cl : Client) (reason : Nat) (c : Chip) : Chip := c.endRoles (fun x => decide (x = cl)) reason

/-! ### Return state (R489 to R493) -/

/-- Whether a request for return state is accepted (R489). -/
def returnOk (c : Chip) : Bool :=
  (c.mod.st = .standby || c.mod.st = .tripped) && c.mc[(0 : Fin 2)].sending && c.mc[(1 : Fin 2)].sending && c.pair.link &&
    c.sec.update.isNone && c.sec.activating = 0 && c.sec.ret = 0

/-- Record 0x0240 of a return-state step (R469). -/
def returnLog (src step role : Nat) (c : Chip) : Chip := c.logConfig 0x0240 src (bytesLe 1 step ++ wordBytes c.sec.erased) role

/-- Acceptance: the erasure flag on both controllers, permission withdrawn and automatic grant suspended, roles and sessions ended (R490 steps 1, 2). -/
def returnStart (cl : Client) (c : Chip) : Chip :=
  let c0 := (c.onSec fun s => { s with erased := 0 })
  let c1 := c0.returnLog (srcOf cl) 1 (c.roleOfClient cl)
  let c2 := ({ c1 with mc := c1.mc.map (fun (m : Ctrl) => { m with flagErase := true }) }.withdraw 2).onMod fun m => { m with autoDone := true }
  ((c2.onSec fun s => { s with ret := 1 }).endRoles (fun _ => true) 6).endSpdm (fun _ => true)

/-- The keys of R492 items 0 to 2. -/
def isSecret (k : Nat) : Bool := k = okey 0x5021 1 || k / 256 = 0x5011 || k = okey 0x5010 1

/-- The erasure of R492 is complete on both controllers (R490 steps 3, 4): present values stay until a core restart or the next entry to Aux, since their copies in
retention RAM are gone. -/
def eraseDone (c : Chip) : Chip :=
  if c.sec.ret = 1 ∧ c.served ∧ c.mod.st ≠ .unpowered ∧ c.mod.st ≠ .aux then
    let c1 := { c with mc := c.mc.map (fun (m : Ctrl) =>
      { m with val := omErase isSecret m.val, stored := { resetStored with serial := m.stored.serial }, journal := [], jserial := 0, kept := some [], flagErase := false }),
                         nv := c.nv.map (fun (n : CtrlNv) => { n with calendar := 0, calFrac := 0, calValid := false }) }
    let c2 := c1.onSec fun s => { s with ret := 2, erased := 0x3F }
    (c2.onComm fun q => { q with restPend := (BitVec.ofNat 16 q.restPend ||| 2).toNat }).returnLog (Path.internal.code * 4096) 2 0xF
  else c

/-- A maker command leaves return state: service with factory defaults, the loop slots and dispatch among them (R493). -/
def returnExit (cl : Client) (c : Chip) : Chip :=
  if c.sec.ret = 2 ∧ c.roleOfClient cl = 2 then
    let c1 := c.returnLog (srcOf cl) 3 2
    { (c1.onSec fun s => { s with ret := 0 }) with mc := c1.mc.map fun (m : Ctrl) =>
        { m with val := m.stored.val, kept := none, slots := bootSlots m.stored, lastHandle := 0, cap := { status := 0, skip := 0, recs := [] },
                 disp := { resetDispatch with valid := true, source := omGet c1.comm.nodeId (okey 0x4010 1) m.stored.val } } }
  else c

/-- Calendar time is set at the serving controller and through the journal at the standby (R468): record 0x0205 with new minus old. -/
def setCalendar (cl : Client) (v : Nat) (c : Chip) : Chip :=
  let n := c.nv[c.act]
  let diff := if n.calValid then (v : Int) - n.calendar else 0
  let c0 := c.calendarAt c.act v
  let c1 := if c.pair.link then c0.calendarAt (other c.act) v else c0
  c1.logConfig 0x0205 (srcOf cl) (bytesLe 6 (unsgn 48 diff)) (c.roleOfClient cl)

end Chip
end Sys2Proof.Machine
end

