-- ==== Sys2Proof/Machine/Dict.lean ====
section
/-!
DEFINITION. Writes of the object dictionary: the checks of R443 in order, the effect of each object, complete access (R444), and the paths that carry
requests: direct, USDO (R445) and MCTP (R456).
-/
namespace Sys2Proof.Machine
namespace Chip

/-! ### PDO objects (R449) -/

/-- The fields of a mapping entry: key of the object and length in bits. -/
def mapKey (v : Nat) : Nat := okey (v / 2 ^ 16) (v / 2 ^ 8 % 256)
def mapBits (v : Nat) : Nat := v % 256

/-- Whether an object can be mapped: plain, up to 32 bits, of that length; readable for a TPDO, RW or NV of the operator for an RPDO (R449). -/
def mappable (rx : Bool) (v : Nat) : Bool :=
  match objInfo (v / 2 ^ 16) (v / 2 ^ 8 % 256) with
  | some e =>
    e.ty.plain32 && decide (mapBits v = 8 * e.ty.size) &&
      (if rx then (e.acc = .rw || e.acc = .nv) && e.role = 0 else e.acc ≠ .wo)
  | none => false

/-- Whether a PDO is valid: bit 31 of its COB-ID clear (R449). -/
def pdoValid (c : Chip) (rx : Bool) (n : Nat) : Bool := !nbit (c.val (okey ((if rx then 0x1400 else 0x1800) + n) 1)) 31

/-- The mapping entries of a PDO in use (R449). -/
def pdoMap (c : Chip) (rx : Bool) (n : Nat) : List Nat :=
  let i := (if rx then 0x1600 else 0x1A00) + n
  (List.range (c.val (okey i 0))).map (fun k => c.val (okey i (k + 1)))

/-- The checks of a mapping object beyond its range (R449): a valid PDO, an object that cannot be mapped, a mapping longer than 64 bytes. An entry of 0 is an
unused one, as the factory image holds it (R451); it names no object, so no count takes it in (log 24). -/
def mapCheck (c : Chip) (i s v : Nat) : Nat :=
  let rx := i < 0x1800
  let n := i % 8
  if c.pdoValid rx n then 0x08000022
  else if s = 0 then
    let l := (List.range v).map (fun k => c.val (okey i (k + 1)))
    if !l.all (mappable rx) then 0x06040041 else if 512 < (l.foldl (fun a e => a + mapBits e) 0) then 0x06040042 else 0
  else if v = 0 ∨ mappable rx v then 0 else 0x06040041

def isMapObj (i : Nat) : Bool := (0x1600 ≤ i && i ≤ 0x1607) || (0x1A00 ≤ i && i ≤ 0x1A07)

/-! ### The checks of R443 -/

/-- Input and output codes of R364. -/
def inputCode (v : Nat) : Bool := (1 ≤ v && v ≤ 6) || (0x10 ≤ v && v ≤ 0x23) || v = 0x30
def outputCode (v : Nat) : Bool := v ≤ 1 || (0x14 ≤ v && v ≤ 0x17) || v = 0x20 || v = 0x21

/-- A signed or unsigned range test with its codes (R443 check 6). -/
def inRange (lo hi v : Int) : Nat := if hi < v then 0x06090031 else if v < lo then 0x06090032 else 0

/-- Check 6: 0, or the abort code. Ranges that depend on other objects are those of R370, R352, R449 and R476. -/
def rangeCheck (c : Chip) (i s raw : Nat) (e : OInfo) : Nat :=
  let v : Int := if e.ty.signed then sgn (8 * e.ty.size) raw else raw
  let enc := fun (ok : Bool) => if ok then 0 else 0x06090030
  let lo := c.val (okey 0x4010 2)
  let hi := c.val (okey 0x4010 3)
  let plain := if e.enc then enc (decide (e.lo ≤ v) && decide (v ≤ e.hi)) else inRange e.lo e.hi v
  if i = 0x1010 then (if raw = 0x65766173 then 0 else 0x08000020)
  else if i = 0x1011 then (if raw = 0x64616F6C then 0 else 0x08000020)
  else if i = 0x5011 then enc (decide (raw = 0) || keyValid (bytesLe 113 raw))
  else if i = 0x5021 then enc (keyValid (bytesLe 113 raw))
  else if plain ≠ 0 then plain
  else if i = 0x4010 ∧ s = 2 then inRange 640 (hi - 1 : Int) v
  else if i = 0x4010 ∧ s = 3 then inRange (lo + 1 : Int) 3800 v
  else if i = 0x4010 ∧ (s = 4 ∨ s = 6) then inRange lo hi v
  else if i = 0x4600 ∧ s = 2 then enc ((List.range 4).all (fun j => decide (1 ≤ nfld raw (8 * j) 8) && decide (nfld raw (8 * j) 8 ≤ 10)))
  else if ((0x1400 ≤ i ∧ i ≤ 0x1407) ∨ (0x1800 ≤ i ∧ i ≤ 0x1807)) ∧ s = 1 then enc (!nbit raw 29)
  else match slotOf i with
    | some (n, o) =>
      if o = 0 ∧ s = 6 then inRange 0 (divider (c.slotCls c.act n) - 1 : Int) v
      else if o = 0 ∧ s = 7 then enc (inputCode raw)
      else if o = 0 ∧ s = 8 then enc (outputCode raw)
      else 0
    | none => 0

/-- Slot objects that are writable only while the slot is Stopped (R378). -/
def stoppedOnly (o s : Nat) : Bool := (o = 0 && ((5 ≤ s && s ≤ 0xA) || s = 0x11 || s = 0x13)) || o = 2

/-- Check 7: the state of the module and of the object (R35, R213, R353, R354, R373, R376, R378, R382, R385, R417, R489, R491). -/
def stateOk (c : Chip) (i s raw : Nat) : Bool :=
  if c.sec.ret = 1 then false
  else if i = 0x2400 ∧ s = 2 then raw = 0 || c.grantOk raw
  else if i = 0x3800 ∧ s = 2 then c.causesPresent.isEmpty
  else if i = 0x4020 ∧ s = 1 then c.createOk
  else if i = 0x4020 ∧ s = 3 then c.destroyOk raw
  else if i = 0x5030 ∧ s = 1 then c.returnOk
  else match slotOf i with
    | some (n, o) =>
      let k : Fin 32 := Fin.ofNat 32 n
      let st := c.mc[c.act].slots[k].st
      if st = .free then false
      else if stoppedOnly o s then st = .stopped
      else if o = 0 ∧ s = 3 then c.slotCmdOk k raw
      else if o = 0 ∧ s = 4 then c.clearOk k
      else if o = 1 ∧ s = 1 then c.slotFf c.act n ≠ 1
      else if o = 7 ∧ s = 8 then raw ≠ 1 || c.testOk k
      else true
    | none => true

/-- Check 4 of R443: the client's role falls short of the minimum role. While the installer credential is empty, any client may write it, and what needs the
installer role takes no other write (R481). -/
def roleShort (c : Chip) (cl : Client) (i role : Nat) : Bool :=
  if c.credential = 0 ∧ i = 0x5021 then false else decide (c.roleOfClient cl < role) || (decide (c.credential = 0) && decide (role = 1))

/-- The checks of R443 for a write in order: the check that fails and its code, (0, 0) when all pass. -/
def writeCheck (c : Chip) (cl : Client) (i s : Nat) (data : Bytes) (memOk : Bool) : Nat × Nat :=
  if !objIndex i then (1, 0x06020000)
  else match objInfo i s with
    | none => (2, 0x06090011)
    | some e =>
      let raw := numLe data
      if e.acc = .ro ∨ e.acc = .const then (3, 0x06010002)
      else if c.roleShort cl i e.role then (4, 0x06010000)
      else if data.length ≠ e.ty.size then (5, 0x06070010)
      else if c.rangeCheck i s raw e ≠ 0 then (6, c.rangeCheck i s raw e)
      else if !c.stateOk i s raw then (7, 0x08000022)
      else if isMapObj i ∧ c.mapCheck i s raw ≠ 0 then (7, c.mapCheck i s raw)
      else if !memOk then (8, 0x06060000)
      else (0, 0)

/-! ### Effects -/

/-- An accepted trip acknowledgement (R417): `TRIP_ACK` changes, record 0x0121. -/
def tripAck (c : Chip) : Chip :=
  (c.logBoth 2 0x0121 0 (bytesLe 4 c.tripStatus)).onPair fun p => { p with tripAck := p.tripAck + 1 }

/-- What supervises heartbeats and RPDOs starts anew with a write of its entry: a loss that was reported is no longer present (R453, R454), and an RPDO without an
event timer, or not valid, is not missed (R450). -/
def supervise (i s : Nat) (c : Chip) : Chip :=
  if i = 0x1016 then
    each ((fins 4).filter (fun k => k.val + 1 = s)) (fun (k : Fin 4) (d : Chip) => (d.onComm fun q => { q with hbLost := vput q.hbLost k false }).condClear 0x8130 s) c
  else if 0x1400 ≤ i ∧ i ≤ 0x1407 ∧ (c.val (okey i 5) = 0 ∨ nbit (c.val (okey i 1)) 31) then c.condClear 0x8250 (i - 0x1400 + 1)
  else c

/-- The effect of an accepted write: the abort code of a role proof that fails, else 0. -/
def applyWrite (cl : Client) (i s raw : Nat) (data : Bytes) (c : Chip) : Nat × Chip :=
  let slot (n : Nat) : Fin 32 := Fin.ofNat 32 n
  if storesValue i s then (0, (c.writeVal (okey i s) raw).supervise i s)
  else if i = 0x1003 then (0, c.onComm fun q => { q with hist := [] })
  else if i = 0x1010 then (0, c.storeArea cl s)
  else if i = 0x1011 then (0, c.restoreArea cl s)
  else if i = 0x2400 ∧ s = 2 then (0, if raw = 0 then c.withdraw 2 else c.grant raw)
  else if i = 0x3020 ∧ s = 0xD then (0, c.clearFaults raw)
  else if i = 0x3800 ∧ s = 2 then (0, c.tripAck)
  else if i = 0x4020 ∧ s = 1 then (0, c.createSlot raw)
  else if i = 0x4020 ∧ s = 3 then (0, c.destroySlot raw)
  else if i = 0x4600 ∧ s = 4 then (0, c.captureCmd raw)
  else if i = 0x4801 ∧ s = 3 then (0, c.releaseLock raw)
  else if i = 0x5020 ∧ s = 2 then c.roleProof cl data
  else if i = 0x5020 ∧ s = 4 then (0, c.endRoleOf cl 1)
  else if i = 0x5030 ∧ s = 1 then (0, c.returnStart cl)
  else if i = 0x5040 ∧ s = 1 then (0, c.setCalendar cl raw)
  else match slotOf i with
    | some (n, o) =>
      if o = 0 ∧ s = 3 then (0, c.slotCmd (slot n) raw)
      else if o = 0 ∧ s = 4 then (0, c.clearSlot (slot n))
      else (0, if raw = 1 then c.testArm (slot n) else c.testStop (slot n))
    | none => (0, c)

/-- The lowest trip cause that refuses an acknowledgement, by EMCY 0xFF11 (R453). -/
def ackRefused (i s : Nat) (c : Chip) : Chip :=
  match c.causesPresent with
  | k :: _ => if i = 0x3800 ∧ s = 2 then c.emcyEvent 0xFF11 0 k 0 else c
  | [] => c

/-- An accepted command enters the journals (R344); a store has just emptied them. -/
def noteCommand (i s raw : Nat) (c : Chip) : Chip := if storesValue i s || i = 0x1010 then c else c.writeNote (okey i s) raw

/-- A write by a client (R443): the abort code and the state after it. A refused write changes nothing but the logbook. -/
def objWrite (cl : Client) (i s : Nat) (data : Bytes) (memOk : Bool) (c : Chip) : Nat × Chip :=
  let c0 := c.touch cl
  match c0.writeCheck cl i s data memOk with
  | (0, _) =>
    let role := c0.roleOfClient cl
    match c0.applyWrite cl i s (numLe data) data with
    | (0, c1) => (0, (c1.noteCommand i s (numLe data)).acceptLog cl i s (numLe data) role)
    | (a, c1) => (a, c1.refuseLog cl i s 0)
  | (k, abort) => (abort, (if k = 7 then c0.ackRefused i s else c0).refuseLog cl i s k)

/-- Several writes as one (R16, R444, R450): checked whole, then applied; the place of the one that fails, its abort code, and the state. -/
def writeAll (cl : Client) (parts : List (Nat × Nat × Bytes)) (c : Chip) : Nat × Nat × Chip :=
  let go := parts.foldl (fun (a : Nat × Nat × Nat × Nat × Chip) p =>
    let (n, abort, _, _, d) := a
    if abort ≠ 0 then a
    else match d.writeCheck cl p.1 p.2.1 p.2.2 true with
      | (0, _) => let (x, e) := d.objWrite cl p.1 p.2.1 p.2.2 true
                  (n + 1, x, 0, p.2.1, e)
      | (k, x) => (n + 1, x, k, p.2.1, d)) (0, 0, 0, 0, c)
  let (n, abort, k, s, d) := go
  if abort = 0 then (0, 0, d) else (n, abort, (c.touch cl).refuseLog cl ((parts.headD (0, 0, [])).1) s k)

/-- The subindices above 0 of an ARRAY or RECORD entry. -/
def subsOf (i : Nat) : List Nat := ((List.range 256).filter (fun s => 0 < s && (objInfo i s).isSome))
def sizeOf (i s : Nat) : Nat := match objInfo i s with | some e => e.ty.size | none => 0

/-- The entries a complete access takes in: the subindices above 0, or of a plain type the entry itself. -/
def infosOf (i : Nat) : List OInfo := (if subsOf i = [] then [0] else subsOf i).filterMap (objInfo i)

/-- Checks 1 to 4 of R443 for a complete-access write: the check that fails and its code. -/
def completeCheck (c : Chip) (cl : Client) (i s : Nat) : Nat × Nat :=
  if !objIndex i then (1, 0x06020000)
  else if (objInfo i s).isNone then (2, 0x06090011)
  else if (infosOf i).any (fun e => e.acc = .ro || e.acc = .const) then (3, 0x06010002)
  else if (infosOf i).any (fun e => c.roleShort cl i e.role) then (4, 0x06010000)
  else (0, 0)

/-- A complete-access write of subindex 0x00 (R444): the byte of subindex 0x00, then every other subindex in order. Mapping counts are set after
their entries. -/
def completeWrite (cl : Client) (i s : Nat) (data : Bytes) (c : Chip) : Nat × Chip :=
  let subs := subsOf i
  let total := subs.foldl (fun a k => a + sizeOf i k) 0
  let c0 := c.touch cl
  match c0.completeCheck cl i s with
  | (k + 1, abort) => (abort, c0.refuseLog cl i s (k + 1))
  | (0, _) =>
  if data.length ≠ 1 + total then (0x06070010, c0.refuseLog cl i s 5)
  else if s ≠ 0 ∨ subs = [] then (0x06090030, c0.refuseLog cl i s 6)
  else
    let parts := (subs.foldl (fun (a : List (Nat × Nat × Bytes) × Bytes) k => (a.1 ++ [(i, k, a.2.take (sizeOf i k))], a.2.drop (sizeOf i k)))
      ([], data.drop 1)).1
    let zero : List (Nat × Nat × Bytes) := if isMapObj i ∨ i = 0x1003 then [(i, 0, data.take 1)] else []
    let (_, abort, d) := c.writeAll cl (if isMapObj i then parts ++ zero else zero ++ parts)
    (abort, d)

/-- A complete-access read: the byte of subindex 0x00, then every other subindex (R444, R456). -/
def completeRead (cl : Client) (i s : Nat) (c : Chip) : Nat × Bytes × Chip :=
  let subs := subsOf i
  let c0 := c.touch cl
  if !objIndex i then (0x06020000, [], c0.refuseLog cl i s 1)
  else if (objInfo i s).isNone then (0x06090011, [], c0.refuseLog cl i s 2)
  else if (infosOf i).any (fun e => e.acc = .wo) then (0x06010001, [], c0.refuseLog cl i s 3)
  else if s ≠ 0 ∨ subs = [] then (0x06090030, [], c0.refuseLog cl i s 6)
  else
    subs.foldl (fun (a : Nat × Bytes × Chip) k =>
      if a.1 ≠ 0 then a
      else match a.2.2.objRead cl i k with
        | (0, b, d) => (0, a.2.1 ++ b, d)
        | (x, _, d) => (x, [], d)) (0, c.readBytes cl i 0, c)

/-! ### Requests -/

/-- A direct write by a client, answered on its path. -/
def clientWrite (cl : Client) (i s : Nat) (data : Bytes) (memOk : Bool) (c : Chip) : Chip :=
  c.reach cl.path fun d =>
    let (a, e) := d.objWrite cl i s data memOk
    e.send (.answer cl a [])

/-- A direct read by a client. -/
def clientRead (cl : Client) (i s : Nat) (c : Chip) : Chip :=
  c.reach cl.path fun d =>
    let (a, b, e) := d.objRead cl i s
    e.send (.answer cl a b)

/-- A dictionary message over MCTP (R456): the fields of the request, and the response. Of one endpoint four requests are outstanding at once, those of the present
tick (DESIGN CHOICE, log 22); a fifth is dropped without a response. -/
def dictMessage (path : Path) (eid : Byte) (msg : Bytes) (c : Chip) : Chip :=
  c.reach path fun c0 =>
    let cl : Client := ⟨path, eid⟩
    let d := c0.onComm fun q => { q with asked := q.asked ++ [(path, eid)] }
    let f := fun off len => fieldLe msg off len
    let cmd := f 3 1
    let i := f 6 2
    let s := f 8 1
    let off := f 10 4
    let len := f 14 2
    let body := msg.drop 16
    let answer := fun (a : Nat) (b : Bytes) (e : Chip) =>
      e.send (.mctp path eid (msg.take 3 ++ bytesLe 1 (cmd + 0x80) ++ bytesLe 1 (f 4 1) ++ bytesLe 1 (b2n (a != 0)) ++ bytesLe 4 a ++ bytesLe 2 b.length ++ b))
    let refuse := fun (k abort : Nat) => answer abort [] ((d.touch cl).refuseLog cl i s k)
    let first := if f 5 1 = 1 then (d.touch cl).completeCheck cl i s else (d.touch cl).writeCheck cl i s body true
    if msg.length < 16 ∨ f 0 1 ≠ 0x7E ∨ numBe (slice msg 1 2) ≠ Config.pciVendor.toNat ∨ 4 ≤ (c0.comm.asked.filter (fun x => x == (path, eid))).length then c0
    else if (cmd ≠ 1 ∧ cmd ≠ 2) ∨ 1 < f 5 1 ∨ f 9 1 ≠ 0 then refuse 6 0x06090030
    else if cmd = 1 then
      let long := match objInfo i s with | some o => o.ty.long | none => false
      if len = 0 ∨ 1024 < len ∨ (off ≠ 0 ∧ !long) then refuse 6 0x06090030
      else
        let (a, b, e) := if f 5 1 = 1 then d.completeRead cl i s else d.objRead cl i s
        answer a ((b.drop off).take len) e
    else if off ≠ 0 then refuse 6 0x06090030
    else if len ≠ body.length ∧ (first.1 = 0 ∨ 4 < first.1) then refuse 5 0x06070010
    else
      let (a, e) := if f 5 1 = 1 then d.completeWrite cl i s body else d.objWrite cl i s body true
      answer a [] e

/-- The number of USDO sessions open for other nodes (R445). -/
def otherSessions (c : Chip) (node : Byte) : Nat := (c.comm.sessions.filter (fun x => decide (x.node ≠ node))).length

/-- A node's earlier session ends with its next request (one per node-ID, R445). -/
def closeSession (node : Byte) (c : Chip) : Chip := c.onComm fun q => { q with sessions := q.sessions.filter (fun x => decide (x.node ≠ node)) }

/-- Data that needs a segmented transfer: more than an expedited one carries, 56 bytes (PRESUMED, CiA 1301; log 22). -/
def segmented (data : Bytes) : Bool := decide (56 < data.length)

/-- A segmented transfer for which no session is free is refused (R443, R445). -/
def noSession (node : Byte) (i s : Nat) (c : Chip) : Chip :=
  (((c.touch ⟨.can, node⟩).refuseLog ⟨.can, node⟩ i s 0)).send (.usdo node 0x08000000 [])

/-- A USDO upload (R445): a DOMAIN, or a value longer than an expedited transfer carries, goes by a segmented transfer, which needs one of the four sessions. -/
def usdoRead (node : Byte) (i s : Nat) (c : Chip) : Chip :=
  c.reach .can fun d =>
    let d0 := d.closeSession node
    let (a, b, e) := d0.objRead ⟨.can, node⟩ i s
    let dom := match objInfo i s with | some o => decide (o.ty = .domain) | none => false
    if a = 0 && (dom || segmented b) then
      if 4 ≤ e.otherSessions node then e.noSession node i s
      else (e.onComm fun q => { q with sessions := q.sessions ++ [⟨node, okey i s, false, false, b⟩] }).send (.usdo node 0 b)
    else e.send (.usdo node a b)

/-- A USDO download whose data has arrived (R445); a segmented one needed a session. -/
def usdoWrite (node : Byte) (i s : Nat) (complete : Bool) (data : Bytes) (c : Chip) : Chip :=
  c.reach .can fun d =>
    let d0 := d.closeSession node
    if segmented data && decide (4 ≤ d0.otherSessions node) then d0.noSession node i s
    else
    let (a, e) := if complete then d0.completeWrite ⟨.can, node⟩ i s data else d0.objWrite ⟨.can, node⟩ i s data true
    e.send (.usdo node a [])

/-- A segment overdue for 1 s aborts the transfer (R443, R445). -/
def usdoTimeout (node : Byte) (c : Chip) : Chip :=
  if c.comm.sessions.any (fun x => decide (x.node = node)) then (c.closeSession node).send (.usdo node 0x05040000 []) else c

end Chip
end Sys2Proof.Machine
end

