-- ==== Sys2Proof/Machine/CommOps.lean ====
section
/-!
DEFINITION. CANopen services, MCTP control and the logbook's writing (R446 to R456, R472 to R474).
-/
namespace Sys2Proof.Machine
namespace Chip

/-! ### NMT (R447, R448) -/

/-- An NMT command addresses this node or all nodes; it acts while the dictionary is served. -/
def nmtFor (node : Byte) (f : Chip → Chip) (c : Chip) : Chip :=
  let up := c.served && (match c.mod.st with | .unpowered | .aux | .ochre => false | _ => true)
  if !up || !(node = 0 || node.toNat = c.comm.nodeId) then c
  else if c.coreUp then f c else if c.mc[c.act].core = .stopped then c.wakeAll else c

def setNmt (v : Nat) (c : Chip) : Chip :=
  (c.onComm fun q => { q with nmt := v, tpdo := if v = 5 then q.tpdo.map (fun t => { t with at' := c.time }) else q.tpdo,
                              rpdoAt := if v = 5 then q.rpdoAt.map (fun _ => c.time) else q.rpdoAt }).emcyFlush

/-- Reset communication (R447): 1000–1FFF from the stored image, the node-ID applied, the boot-up message; roles of CAN FD clients end (R480). -/
def nmtReset (pos : BitVec 6) (c : Chip) : Chip :=
  let isComm := fun k => decide (0x1000 ≤ k / 256) && decide (k / 256 < 0x2000) && isNv k
  let load : Ctrl → Ctrl := fun m =>
    { m with val := (m.stored.val.filter (fun (e : Nat × Nat) => isComm e.1)).foldl (fun a (e : Nat × Nat) => omSet e.1 e.2 a) (omErase isComm m.val) }
  let c0 : Chip := { c with mc := c.mc.map load, pins := { c.pins with pos := pos } }
  let c1 := c0.endRoles (fun (x : Client) => decide (x.path = Path.can)) 5
  let c2 := c1.onComm fun q => { q with sessions := [], tpdo := q.tpdo.map (fun _ => { last := [], at' := c.time, ever := false }),
                                        rpdoAt := q.rpdoAt.map (fun _ => c.time) }
  let c3 := (each (List.range 8) (fun (n : Nat) (d : Chip) => d.supervise (0x1400 + n) 5)
    (each (List.range 4) (fun (k : Nat) (d : Chip) => d.supervise 0x1016 (k + 1)) c2)).takeNodeId pos
  ((c3.send (.can (0x700 + c3.comm.nodeId) [0])).setNmt 127).reportNodeId pos

/-! ### PDOs (R450) -/

/-- The bytes a TPDO would carry: all values sampled in one step. -/
def tpdoData (c : Chip) (n : Nat) : Bytes :=
  (c.pdoMap false n).flatMap fun e => bytesLe (mapBits e / 8) (c.readRaw ⟨.internal, 0⟩ (mapKey e / 256) (mapKey e % 256))

/-- A TPDO is sent when a mapped value changed or its event timer has expired, never sooner than the inhibit time after the one before (R450). -/
def tpdoSend (n : Fin 8) (c : Chip) : Chip :=
  let i := 0x1800 + n.val
  let t := c.comm.tpdo[n]
  let data := c.tpdoData n.val
  let ran := c.time - t.at'
  let event := c.val (okey i 5)
  let due := (!t.ever || data != t.last || (decide (0 < event) && decide (10 * event ≤ ran))) && (!t.ever || decide (c.val (okey i 3) ≤ ran))
  if c.pathOpen .can && c.coreUp && c.comm.nmt = 5 && c.pdoValid false n.val && due then
    (c.onComm fun q => { q with tpdo := vput q.tpdo n { last := data, at' := c.time, ever := true } }).send (.can (c.val (okey i 1) % 2 ^ 11) data)
  else c

/-- A received RPDO is applied whole with the operator role, or not at all (R442, R450). -/
def rpdoTake (n : Fin 8) (data : Bytes) (c : Chip) : Chip :=
  c.reach .can fun d =>
    if d.comm.nmt ≠ 5 ∨ !d.pdoValid true n.val then d
    else
      let es := d.pdoMap true n.val
      let c1 := (d.onComm fun q => { q with rpdoAt := vput q.rpdoAt n d.time }).condClear 0x8250 (n.val + 1)
      if 8 * data.length ≠ es.foldl (fun a e => a + mapBits e) 0 then c1.emcyEvent 0x8210 (n.val + 1) 0 data.length
      else
        let parts := (es.foldl (fun (a : List (Nat × Nat × Bytes) × Bytes) e =>
          (a.1 ++ [(mapKey e / 256, mapKey e % 256, a.2.take (mapBits e / 8))], a.2.drop (mapBits e / 8))) ([], data)).1
        let (k, abort, e) := c1.writeAll ⟨.can, 0⟩ parts
        if abort = 0 then e else c1.emcyEvent 0xFF70 (n.val + 1) (abort % 256) k

/-- An RPDO missing for its event timer (R450): condition 0x8250. -/
def rpdoLate (n : Fin 8) (c : Chip) : Chip :=
  let event := c.val (okey (0x1400 + n.val) 5)
  if c.served ∧ c.comm.nmt = 5 ∧ c.pdoValid true n.val ∧ 0 < event ∧ 10 * event ≤ c.time - c.comm.rpdoAt[n] then
    c.condRaise 0x8250 (n.val + 1) 0 0
  else c

/-! ### EMCY and heartbeats (R452, R454) -/

/-- One EMCY leaves the queue when the inhibit time allows; after a loss, 0x8110 with the number dropped goes first (R452). -/
def emcySend (c : Chip) : Chip :=
  let wait := match c.comm.emcyAt with | some t => decide (c.time - t < c.val (okey 0x1015 0)) | none => false
  let out := fun (e : Emcy) (d : Chip) =>
    (d.onComm fun q => { q with emcyAt := some d.time }).send (.emcy (d.val (okey 0x1014 0) % 2 ^ 11) e.code d.errorRegister
      (bytesLe 1 e.src ++ bytesLe 1 e.cause ++ bytesLe 1 d.mod.st.code ++ bytesLe 2 e.value))
  match c.comm.queue with
  | [] => c
  | e :: rest =>
    if !c.emcyOpen || wait then c
    else if 0 < c.comm.dropped then
      let n := c.comm.dropped
      let c1 := ((c.emcyLog 0x8110 0 0 n).emcyHist 0x8110 0 0).onComm fun q =>
        { q with dropped := 0, events := (emcyBit 0x8110, c.time) :: q.events }
      out ⟨0x8110, 0, 0, n⟩ c1
    else out e (c.onComm fun q => { q with queue := rest })

/-- The producer heartbeat (R454): in every NMT state, from Standby on, but not in Ochre hold (R37). The timer wakes a stopped core (R320). -/
def beat (c : Chip) : Chip :=
  let up := c.served && (match c.mod.st with | .unpowered | .aux | .ochre => false | _ => true)
  if up && decide (0 < c.val (okey 0x1017 0)) then
    let c1 := if c.mc[c.act].core = .stopped then c.wakeAll else c
    c1.send (.can (0x700 + c1.comm.nodeId) (bytesLe 1 c1.comm.nmt))
  else c

/-- The consumer entry k of 1016: node and time, 0 where unused (R454). -/
def consumer (c : Chip) (k : Nat) : Nat × Nat :=
  let v := c.val (okey 0x1016 (k + 1))
  if nfld v 16 8 = 0 ∨ nfld v 0 16 = 0 then (0, 0) else (nfld v 16 8, nfld v 0 16)

/-- A consumed heartbeat arrives. -/
def beatFrom (node : Byte) (c : Chip) : Chip :=
  if !c.served then c
  else if c.mc[c.act].core = .stopped then c.wakeAll
  else each (fins 4) (fun (k : Fin 4) (d : Chip) =>
    if node ≠ 0 ∧ (d.consumer k.val).1 = node.toNat then
      (d.onComm fun q => { q with hbLost := vput q.hbLost k false }).condClear 0x8130 (k.val + 1)
    else d) c

/-- A consumed heartbeat is overdue. -/
def beatLost (k : Fin 4) (c : Chip) : Chip :=
  let n := (c.consumer k.val).1
  if c.served ∧ n ≠ 0 then (c.onComm fun q => { q with hbLost := vput q.hbLost k true }).condRaise 0x8130 (k.val + 1) n 0 else c

/-! ### MCTP control (R455) -/

def pathIx : Path → Option (Fin 3)
  | .i3c => some 0
  | .pcie0 => some 1
  | .pcie1 => some 2
  | _ => none

/-- An MCTP control request on a path, answered there: command code, completion code and data (DSP0236). -/
def mctpControl (path : Path) (cmd : Nat) (dst : Byte) (f : Fin 3 → Chip → Chip × Bytes) (c : Chip) : Chip :=
  match pathIx path with
  | none => c
  | some k => c.reach path fun d =>
    let (e, b) := f k d
    e.send (.mctp path dst ([0, 0] ++ bytesLe 1 cmd ++ b))

/-- Set Endpoint ID: 0x00 and 0xFF are not valid; an accepted ID ends the roles of clients on that path (R480). -/
def setEid (path : Path) (eid : Byte) (c : Chip) : Chip :=
  c.mctpControl path 1 0 fun k d =>
    if eid = 0 ∨ eid = 0xFF then (d, [2, 0, d.comm.eid[k], 0])
    else ((d.onComm fun q => { q with eid := vput q.eid k eid }).endRoles (fun x => decide (x.path = path)) 5, [0, 0, eid, 0])

/-! ### The logbook's writing (R472 to R474) -/

/-- A record enters the ring with the next number; the oldest of 16,384 is overwritten (R466). -/
def LogBook.push (t : Nat) (r : LogRec) (l : LogBook) : LogBook :=
  { l with ring := ({ r with number := l.next } :: l.ring).take 16384, next := l.next + 1, lastAt := t }

/-- A logbook memory failure (R474): a last-gasp request with one serial in three consecutive ticks, bit 0 of 5000.03, EMCY 0xFF60; the other controller records
0x0502. -/
def logFailure (i : Fin 2) (code : Nat) (c : Chip) : Chip :=
  ((c.onNv i fun n => n.logFails i code).emcyEvent 0xFF60 i.val code 0).logAt (other i) 5 0x0502 i.val (bytesLe 1 code) 0xF

/-- One waiting event becomes a record, or is folded into the last one; a drained queue that lost events records 0x0501 (R471, R472). A failed logbook
writes nothing: its events wait and are lost (R474). -/
def logWrite (i : Fin 2) (fail : Option (Fin 5)) (c : Chip) : Chip :=
  let l := c.nv[i].log
  let live := c.alive i
  if !live then c
  else match fail with
    | some k => if l.failed then c else c.logFailure i (k.val + 1)
    | none =>
      if l.failed then c
      else match l.queue with
        | (t, r) :: rest =>
          let folds := match l.ring with
            | q :: _ => sameEvent q r && decide (t - l.lastAt ≤ secs 10) && decide (q.repeat' + 1 + r.repeat' ≤ 0xFFFF)
            | [] => false
          let l1 : LogBook := { l with queue := rest }
          let l2 : LogBook := if folds then
              (match l1.ring with
               | q :: old => { l1 with ring := { q with repeat' := q.repeat' + 1 + r.repeat' } :: old, lastAt := t }
               | [] => l1)
            else LogBook.push t r l1
          c.onNv i fun n => { n with log := l2 }
        | [] =>
          if 0 < l.lostNow then
            let r := c.logRec i 5 0x0501 0 (bytesLe 4 l.lostNow) 0xF
            (c.onNv i fun n => { n with log := { LogBook.push c.time r n.log with lostNow := 0, overrun := false } }).emcyEvent 0xFF61 i.val 0 l.lostNow
          else c

/-- The actuator driver takes a last-gasp request with a good CRC: one record for each serial of a controller (R418, R474). -/
def gaspRequest (i : Fin 2) (serial : W32) (msg : Bytes) (c : Chip) : Chip :=
  let ok := decide (msg.length = 16) && decide (fieldLe msg 12 4 = (crc32 (msg.take 12)).toNat)
  if c.mod.st ≠ .unpowered ∧ ok ∧ !(c.ad.gaspSeen.contains (i.val, serial.toNat)) then
    let c1 := c.gasp 2 (fieldLe msg 0 1) (fieldLe msg 1 1) 0 c.ad.seconds c.ad.cycles
    { c1 with ad := { c1.ad with gaspSeen := (i.val, serial.toNat) :: c1.ad.gaspSeen } }
  else c

end Chip
end Sys2Proof.Machine
end

