-- ==== Sys2Proof/Machine/Attest.lean ====
section
/-!
DEFINITION. Attestation by SPDM and firmware update by PLDM (R475 to R478, R484 to R488). Message codes are those of the DMTF standards that the
spec names (log 14, PRESUMED).
-/
namespace Sys2Proof.Machine
namespace Chip

/-! ### SPDM (R477, R478) -/

/-- Whether a path carries SPDM and PLDM: MCTP over I3C or PCIe (R477, R484). -/
def mctpPath : Path → Bool
  | .i3c | .pcie0 | .pcie1 => true
  | _ => false

/-- An SPDM request reaches the responder (R477). -/
def spdmReq (q : SpdmIn) (f : Chip → Chip) (c : Chip) : Chip := if mctpPath q.client.path then c.reach q.client.path f else c

def spdmError (q : SpdmIn) (code : Nat) (c : Chip) : Chip := c.send (.spdm q.client 0x7F (bytesLe 1 code))

/-- The stage of a requester's connection: 0 none, 1 versions, 2 capabilities, 3 algorithms agreed. -/
def spdmStage (c : Chip) (cl : Client) : Nat :=
  match c.sec.spdm.find? (fun x => decide (x.client = cl) && x.session.isNone) with | some x => x.stage | none => 0
def setStage (cl : Client) (n : Nat) (c : Chip) : Chip :=
  c.onSec fun s => { s with spdm := ⟨cl, n, none, false, c.time⟩ :: s.spdm.filter (fun x => !(decide (x.client = cl) && x.session.isNone)) }

/-- Version, capabilities and algorithms are agreed in order. -/
def spdmStep (q : SpdmIn) (need code : Nat) (data : Bytes) (c : Chip) : Chip :=
  c.spdmReq q fun d => if d.spdmStage q.client < need then d.spdmError q 4 else (d.setStage q.client (need + 1)).send (.spdm q.client code data)

/-- A request that needs agreed algorithms. -/
def spdmReady (q : SpdmIn) (f : Chip → Chip) (c : Chip) : Chip :=
  c.spdmReq q fun d => if d.spdmStage q.client < 3 then d.spdmError q 4 else f d

/-- SHA-384 of the responding controller's chain (R475, R477). -/
def chainDigest (c : Chip) : Bytes := sha384 (Config.certChain c.act.val)

/-- The identity signature of the responding controller over a message (R475): the key identifier, then r and s, 112 bytes. -/
def signed (c : Chip) (msg : Bytes) : Bytes :=
  let i := c.act.val
  keyId (Config.identityKey i) ++ bytesBe 96 (Config.identitySign i (BitVec.ofNat 384 (numBe (sha384 msg)))).toNat
/-- The 32-byte nonce of a response (DSP0274, log 14). -/
def nonce (c : Chip) : Bytes := (wordBytes (Config.random c.free)).take 32

/-- The effective security version of a component at a controller: one-time-programmable, at least as delivered (R487). -/
def secVersion (c : Chip) (i : Fin 2) (k : Fin 4) : Nat := max (Config.securityVersion k.val).toNat c.nv[i].secVer[k]

/-- The measurement blocks (R478); the other controller's digest is the one last received over the pair link. -/
def measurement (c : Chip) (k : Nat) : Bytes :=
  let st := fun (x : Nat) => omGet c.comm.nodeId x c.mc[c.act].stored.val
  if k = 6 then
    sha384 (bytesLe 1 (st (okey 0x5010 1)) ++ (List.range 8).flatMap (fun j => bytesLe 113 (st (okey 0x5011 (j + 1)))) ++ bytesLe 113 (st (okey 0x5021 1)))
  else if k = 7 then sha384 (bytesLe 1 c.sec.ret ++ (fins 4).flatMap (fun j => bytesLe 4 (c.secVersion c.act j)))
  else if k = c.act.val + 1 then c.runningDigest c.act
  else if k = (other c.act).val + 1 then c.mc[c.act].peerMeas
  else if k ≤ 5 then wordBytes (Config.measurement k (c.sec.rxVer.toList.getD (k - 3) 0))
  else wordBytes (Config.measurement 8 0)

/-- GET_MEASUREMENTS (R478): 0 the number of blocks, 0xFF all, 1 to 8 one; signed by the identity key. -/
def spdmMeasure (q : SpdmIn) (c : Chip) : Chip :=
  c.spdmReady q fun d =>
    let m := q.measurement.toNat
    let blocks := fun (l : List Nat) => bytesLe 1 l.length ++ l.flatMap (fun k => bytesLe 1 k ++ d.measurement k)
    let body := if m = 0 then some [8] else if m = 0xFF then some (blocks [1, 2, 3, 4, 5, 6, 7, 8]) else if m ≤ 8 then some (blocks [m]) else none
    match body with
    | some b => d.draw.send (.spdm q.client 0x60 (b ++ d.nonce ++ d.signed (b ++ d.nonce)))
    | none => d.spdmError q 1

def slotZero (q : SpdmIn) (f : Chip → Chip) (c : Chip) : Chip := c.spdmReady q fun d => if q.slot = 0 then f d else d.spdmError q 1

/-- KEY_EXCHANGE opens one of four sessions; the response states the heartbeat period of 10 s (R477). -/
def spdmKey (q : SpdmIn) (c : Chip) : Chip :=
  c.slotZero q fun d =>
    match (List.range 4).find? (fun k => !d.sec.spdm.any (fun x => x.session == some k)) with
    | some k =>
      let b := bytesLe 1 10 ++ bytesLe 2 k ++ wordBytes (Config.random d.free)
      (d.draw.onSec fun s => { s with spdm := ⟨q.client, 3, some k, false, d.time⟩ :: s.spdm }).send (.spdm q.client 0x64 (b ++ d.signed b))
    | none => d.spdmError q 0xA

/-- A request on an open session of the requester. -/
def spdmSession (q : SpdmIn) (established : Bool) (f : Chip → Chip) (c : Chip) : Chip :=
  c.spdmReq q fun d =>
    if d.sec.spdm.any (fun x => decide (x.client = q.client) && x.session == some q.session.toNat && x.established == established) then f d
    else d.spdmError q 1
def onSession (q : SpdmIn) (f : SpdmConn → SpdmConn) (c : Chip) : Chip :=
  c.onSec fun s => { s with spdm := s.spdm.map (fun x => if x.client = q.client ∧ x.session = some q.session.toNat then f x else x) }

/-- FINISH establishes the session (record 0x0220). -/
def spdmFinish (q : SpdmIn) (c : Chip) : Chip :=
  c.spdmSession q false fun d =>
    ((d.onSession q fun x => { x with established := true, at' := d.time }).logAccess 0x0220 (srcOf q.client) (bytesLe 1 1 ++ bytesLe 1 q.session.toNat) (d.roleOfClient q.client)).send
      (.spdm q.client 0x65 [])
def spdmAlive (q : SpdmIn) (code : Nat) (c : Chip) : Chip :=
  c.spdmSession q true fun d => (d.onSession q fun x => { x with at' := d.time }).send (.spdm q.client code [])
/-- END_SESSION (record 0x0220). -/
def spdmEnd (q : SpdmIn) (c : Chip) : Chip :=
  c.spdmSession q true fun d =>
    ((d.onSec fun s => { s with spdm := s.spdm.filter (fun x => !(decide (x.client = q.client) && x.session == some q.session.toNat)) }).logAccess 0x0220
      (srcOf q.client) (bytesLe 1 2 ++ bytesLe 1 q.session.toNat) (d.roleOfClient q.client)).send (.spdm q.client 0x6C [])

/-! ### PLDM firmware update (R484 to R488) -/

/-- Record 0x0230 of an update step (R469, R488). -/
def updateLog (cl : Client) (step comp v : Nat) (c : Chip) : Chip :=
  c.logConfig 0x0230 (srcOf cl) (bytesLe 1 step ++ bytesLe 1 comp ++ bytesLe 4 v) (c.roleOfClient cl)

/-- A PLDM request of an endpoint; refused while an erasure runs, RequestUpdate with its own code and record (R484, R491). -/
def pldmReq (cl : Client) (cmd : Nat) (f : Chip → Chip) (c : Chip) : Chip :=
  if !mctpPath cl.path then c
  else c.reach cl.path fun d =>
    if d.sec.ret = 1 then (if cmd = 0x10 then (d.updateLog cl 3 0 0x8A).send (.pldm cl cmd 0x8A []) else d.send (.pldm cl cmd 1 []))
    else f (d.touch cl)

def pldmSay (cl : Client) (cmd code : Nat) (data : Bytes) (c : Chip) : Chip := c.send (.pldm cl cmd code data)

/-- A request of the agent of the open update; 0x80 says that the endpoint has none. -/
def pldmOpen (cl : Client) (cmd : Nat) (f : Update → Chip → Chip) (c : Chip) : Chip :=
  c.pldmReq cl cmd fun d =>
    match d.sec.update with
    | some u => if u.agent = cl then f u d else d.pldmSay cl cmd 0x80 []
    | none => d.pldmSay cl cmd 0x80 []

def setUpdate (u : Option Update) (c : Chip) : Chip := c.onSec fun s => { s with update := u }

/-- RequestUpdate (R484): refused without the role, and while another update is open or controller firmware activates. -/
def updateBegin (cl : Client) (c : Chip) : Chip :=
  c.pldmReq cl 0x10 fun d =>
    if d.roleOfClient cl = 0 ∨ d.sec.update.isSome ∨ d.sec.activating ≠ 0 then (d.updateLog cl 3 0 0x8A).pldmSay cl 0x10 0x8A []
    else (d.setUpdate (some { agent := cl, comp := none, version := 0, size := 0, image := [], dropped := false, verified := [] })).pldmSay cl 0x10 0 []

/-- Components of R485. -/
def isComponent (n : Nat) : Bool := 1 ≤ n && n ≤ 4

/-- UpdateComponent announces a component and starts its transfer (R485, R488 step 1); the module asks for the first data (R484). -/
def updateStart (cl : Client) (comp version size : Nat) (c : Chip) : Chip :=
  c.pldmOpen cl 0x14 fun u d =>
    if !isComponent comp then d.pldmSay cl 0x14 0x82 []
    else if u.comp.isSome then d.pldmSay cl 0x14 0x84 []
    else (((d.setUpdate (some { u with comp := some comp, version := version, size := size, image := [], dropped := false })).updateLog cl 1 comp version).pldmSay
      cl 0x14 0 []).pldmSay cl 0x15 0 (bytesLe 4 0 ++ bytesLe 4 (min 1024 size))

/-- Firmware data arrives (R484, R486): at most 1,024 bytes, at the offset the module asked for; the next request or TransferComplete follows. -/
def updateData (cl : Client) (off : Nat) (data : Bytes) (c : Chip) : Chip :=
  c.pldmOpen cl 0x15 fun u d =>
    if u.comp.isNone ∨ off ≠ u.image.length ∨ 1024 < data.length ∨ u.size < off + data.length then d.pldmSay cl 0x15 0x82 []
    else
      let img := u.image ++ data
      let d1 := d.setUpdate (some { u with image := img })
      if img.length = u.size then d1.pldmSay cl 0x16 0 [] else d1.pldmSay cl 0x15 0 (bytesLe 4 img.length ++ bytesLe 4 (min 1024 (u.size - img.length)))

/-- Whether a complete image passes VerifyComplete (R485, R486). -/
def imageOk (c : Chip) (u : Update) (comp : Nat) : Bool :=
  let f := fun off len => fieldLe u.image off len
  let len := u.image.length
  let k : Fin 4 := Fin.ofNat 4 (comp - 1)
  decide (176 ≤ len) && f 0 4 = 0x58465850 && f 4 2 = comp && f 6 2 = 0 && f 16 8 = len && (List.range 40).all (fun j => f (24 + j) 1 = 0) &&
    Config.firmwareKeys.any (fun key => decide (key.take 16 = slice u.image (len - 112) 16) && ecdsaOk key (u.image.take (len - 112)) (u.image.drop (len - 112))) &&
    decide (c.secVersion c.act k ≤ f 12 4) && (comp ≠ 1 || (c.pair.link && !u.dropped))

/-- Verification ends (R486, R488 steps 2, 3): a controller image stands in the inactive bank of both controllers. -/
def updateVerify (cl : Client) (c : Chip) : Chip :=
  c.pldmOpen cl 0x17 fun u d =>
    match u.comp with
    | none => d.pldmSay cl 0x17 0x84 []
    | some comp =>
      if u.image.length ≠ u.size then d.pldmSay cl 0x17 0x84 []
      else
        let ver := fieldLe u.image 8 4
        if d.imageOk u comp then
          let d1 := d.setUpdate (some { u with comp := none, image := [], verified := u.verified ++ [(comp, ver, fieldLe u.image 12 4)] })
          let d2 : Chip := if comp = 1 then
              { d1 with nv := d1.nv.map (fun n => { n with fw := updAll n.fw (fun b v => if (b = 1) = (n.bankB = false) then ver else v) }) }
            else d1
          ((d2.updateLog cl 2 comp ver).pldmSay cl 0x17 0 [0]).pldmSay cl 0x18 0 [0]
        else ((d.setUpdate (some { u with comp := none, image := [] })).updateLog cl 3 comp 1).pldmSay cl 0x17 0 [1]

/-- Whether ActivateFirmware is accepted (R488). -/
def activateOk (c : Chip) : Bool :=
  let a := c.mc[(0 : Fin 2)]
  let b := c.mc[(1 : Fin 2)]
  a.sending && b.sending && c.pair.link && !a.lock && !b.lock && !a.round && !b.round && c.mod.st ≠ .ochre

/-- A controller starts its other bank. -/
def switchBank (i : Fin 2) (c : Chip) : Chip := c.onNv i fun n => { n with bankB := !n.bankB }

/-- ActivateFirmware (R488): receiver images at the next entry to Standby or at once; controller firmware begins with the standby's restart. -/
def updateActivate (cl : Client) (c : Chip) : Chip :=
  c.pldmOpen cl 0x1A fun u d =>
    if u.verified = [] then d.pldmSay cl 0x1A 0x85 []
    else if !d.activateOk then (d.updateLog cl 3 0 0x84).pldmSay cl 0x1A 0x84 []
    else
      let d1 := (d.onSec fun s => { s with update := none, staged := s.staged ++ u.verified }).pldmSay cl 0x1A 0 []
      let d2 := if d1.mod.st = .standby then d1.activateStaged else d1
      if u.verified.any (fun x => x.1 = 1) then
        let sb := other d2.act
        ((d2.onSec fun s => { s with activating := 1 }).switchBank sb).restartCore sb .activation
      else d2

/-- The end of the activation of controller firmware (R488 step 4 or the rollback's step 5). -/
def activationEnd (step : Nat) (c : Chip) : Chip :=
  let e := (c.sec.staged.find? (fun x => x.1 = 1)).getD (1, 0, 0)
  let c1 := c.onSec fun s =>
    { s with activating := 0, staged := s.staged.filter (fun x => x.1 ≠ 1), runSec := if step = 4 then vput s.runSec 0 e.2.2 else s.runSec }
  c1.logConfig 0x0230 (Path.internal.code * 4096) (bytesLe 1 step ++ bytesLe 1 1 ++ bytesLe 4 e.2.1) 0xF

/-- A restart with its cause; for an activation the other, already rejoined controller's turn (R488 step 3): it starts its new bank. -/
def restartWith (i : Fin 2) (cause : RestartCause) (c : Chip) : Chip :=
  match cause with
  | .activation =>
    if c.sec.activating = 2 ∧ (c.mc[i].core = .running ∨ c.mc[i].core = .stopped) then
      (((c.onSec fun s => { s with activating := 3 }).switchBank i).restartCore i .activation)
    else c
  | other' => c.restartCore i other'

/-- A rejoin also advances an activation (R488 steps 2, 4). -/
def rejoinWith (i : Fin 2) (c : Chip) : Chip :=
  let ok := c.mayRejoin i
  let c1 := c.rejoin i
  if ok && c.sec.activating = 1 then c1.onSec fun s => { s with activating := 2 }
  else if ok && c.sec.activating = 3 then c1.activationEnd 4
  else c1

/-- A controller that has not rejoined after 75 s restarts into its previous bank; the update ends (R488 step 5). -/
def rollback (i : Fin 2) (c : Chip) : Chip :=
  if (c.sec.activating = 1 ∨ c.sec.activating = 3) ∧ c.mc[i].core = .rejoining then
    ((((c.switchBank i).onMc i coreLoses).logAt i 1 0x0102 0 (bytesLe 1 (restartCode .rollback)) 0xF).comeUp i c.mc[other i]).activationEnd 5
  else c

/-- The recorded security version rises on both controllers after 1 h of an activated image (R487). -/
def commitSecurity (k : Fin 4) (c : Chip) : Chip :=
  { c with nv := c.nv.map (fun n => { n with secVer := upd n.secVer k (fun v => max v c.sec.runSec[k]) }) }

/-- The state GetStatus reports. -/
def updateState (c : Chip) : Nat :=
  match c.sec.update with
  | none => if c.sec.activating ≠ 0 then 6 else 0
  | some u => if u.comp.isSome then (if u.image.length = u.size then 4 else 3) else if u.verified = [] then 1 else 2

/-! ### Timers of several parts -/

/-- A rejoiner that has not computed within tolerance in 10 s sends nothing and tries again after 60 s (R347). -/
def rejoinLate (i : Fin 2) (c : Chip) : Chip :=
  let near := match c.mc[i].boundary with | some b => decide ((b - c.mc[other i].seq).toNat < 2000) | none => false
  if c.mc[i].core = .rejoining ∧ !near then c.onMc i fun m => { m with sending := false, okTicks := 0, boundary := none, retryAt := c.time + secs 60 } else c

/-- No pulse edge for 25 ms (R371): the next tick finds the input invalid. -/
def pulseStuck (c : Chip) : Chip := { c with mc := c.mc.map (fun (m : Ctrl) => { m with disp := { m.disp with stuck := true } }) }

/-- Both loops Open for 60 s (R396): the permission is withdrawn with cause 5. -/
def leakLost (c : Chip) : Chip :=
  if c.ad.loop[(0 : Fin 2)] = 3 ∧ c.ad.loop[(1 : Fin 2)] = 3 ∧ canDrain c.mod.st then c.withdraw 5 else c

/-- 900 s without an access end a role (R480). -/
def roleIdle (cl : Client) (c : Chip) : Chip :=
  if c.sec.roles.any (fun r => decide (r.client = cl) && decide (r.at' + secs 900 ≤ c.time)) then c.endRoleOf cl 2 else c

end Chip

/-- A leak is confirmed (R395, R413): both loops, one with the other Open, or one for 500 ms. -/
def Mach.leakConfirm (loops : BitVec 2) (reading : W16) (m : Mach) : Mach :=
  let src := if bit loops 0 then 0 else 1
  let o : Fin 2 := if bit loops 0 then 1 else 0
  let cause : Fin 5 := if loops = 3 then 2 else if m.chip.ad.loop[o] = 3 then 3 else 4
  if loops = 0 ∨ m.chip.mod.st = .unpowered then m
  else (m.on fun c => { c with ad := { c.ad with confirmed := true } }).trip cause src reading.toNat

end Sys2Proof.Machine
end

