-- ==== Sys2Proof/Machine/Peer.lean ====
section
/-!
DEFINITION. Peer access: received requests and answers, resends and failures, export windows, fabric commands, shadows, and SIGNAL
(R134, R135, R178, R179, R282 to R292, R302 to R310).
-/
namespace Sys2Proof.Machine
namespace Chip

/-- A routed packet breaks R282 or R283: it is discarded unanswered (R284). -/
def pktBad (typ : Nat) (p : Packet) : Bool :=
  p.crc != pktCrc p || p.typ.toNat != typ || p.dest.toNat == 0 || decide (20480 < p.dest.toNat) || decide (8 ≤ p.flags.toNat) || p.rsv != 0 ||
    decide (256 < p.len.toNat) || p.len.toNat % 16 != 0 || (if typ = 2 then p.len == 0 || !p.payload.isEmpty else p.len.toNat != p.payload.length) ||
    (typ != 0x8F && p.code != 0) || (typ < 0x80 && typ != 4 && p.ref != 0) || (typ == 3 && fld p.addr 9 7 != 0) || (typ == 4 && fld p.addr 8 56 != 0) ||
    ((typ == 1 || typ == 2) && fld p.addr 48 16 != 0)

/-- A twin copy meets the duplicate-discard table (R288): true where it is the first. -/
def twinFirst (p : Packet) (c : Chip) : Chip × Bool :=
  if !bit p.flags 0 then (c, true)
  else
    let live := c.str.twin.filter (fun (e : Nat × W32 × Nat) => decide ((c.time - e.2.2) * 100 ≤ c.str.window))
    if live.any (fun (e : Nat × W32 × Nat) => e.1 == p.src.toNat && e.2.1 == p.seq) then ((c.onStr fun s => { s with twin := live }).strCount 3 1, false)
    else
      let full := decide (65536 ≤ live.length)
      let c1 := c.onStr fun s => { s with twin := (if full then live.drop 1 else live) ++ [(p.src.toNat, p.seq, c.time)] }
      (if full then c1.strErr 5 else c1, true)

/-- A refusal (R284). -/
def refuseReq (p : Packet) (code : Nat) (c : Chip) : Chip := ((c.respond p 0x8F code false []).strErr 4).strCount 5 1

/-- The export windows that hold a whole access, and the first refusal among checks 3 to 5 (R178, R284, R292). -/
def exportCode (c : Chip) (a n : Nat) (write : Bool) : Nat :=
  let hit := c.str.exp.toList.filter (fun (w : Export) => w.enable && decide (w.base ≤ a) && decide (a + n ≤ w.base + w.len))
  if hit.isEmpty then 3
  else if !hit.any (fun (w : Export) => if write then w.wr else w.rd) then 4
  else if !c.rangeMapped a n then 5
  else 0

/-- The refusal of a request, 0 for none (R284). -/
def refusal (c : Chip) (p : Packet) : Nat :=
  if p.dest.toNat ≠ c.str.modId then 1
  else if !(match c.mod.st with | .serving | .draining | .ochre => true | _ => false) then 2
  else if p.typ = 1 then c.exportCode p.addr.toNat p.payload.length true
  else if p.typ = 2 then c.exportCode p.addr.toNat p.len.toNat false
  else match engOf (fld p.addr 4 4) with
    | some e => if c.str.ce[e].valid then 0 else 6
    | none => 6

end Chip

namespace Chip
/-- A failed write is posted at the sender (R179), for its strait, by a skerry; which of the causes that R513 lists for a strait the spec does not say (log 9). -/
def writeFailed (s : Fin 16) (r : Req) (c : Chip) : Chip :=
  (c.faultSummary s 6 (r.last.getD 0).val (1 + (Config.freeByte c.free).toNat % 4)).draw
end Chip

namespace Mach

/-- A routed packet arrives on a strait (R278, R282 to R284, R288). -/
def routedIn (i : Fin 12) (typ : Nat) (p : Packet) (f : Mach → Mach) (m : Mach) : Mach :=
  let st := m.chip.str.link[i].st
  if st ≠ 3 ∧ st ≠ 4 then m
  else
    let m1 := m.on fun c => (c.takeIn i p).strCount 1 1
    if st = 4 ∨ Chip.pktBad typ p then m1.on Chip.badPacket
    else
      let t := Chip.twinFirst p m1.chip
      let m2 := { m1 with chip := t.1 }
      if t.2 then f m2 else m2

/-- A request: refused by name, or served. A refused write that meets a reserved area is reported (R154). -/
def requestIn (i : Fin 12) (typ : Nat) (p : Packet) (f : Mach → Mach) (m : Mach) : Mach :=
  m.routedIn i typ p fun x =>
    let code := x.chip.refusal p
    if code ≠ 0 then x.on fun c => (if typ = 1 ∧ code ≠ 1 then c.refusedWrite p.addr.toNat p.payload.length else c).refuseReq p code else f x

/-- WRITE: applied or held, then acknowledged (R163, R283). -/
def writeIn (i : Fin 12) (p : Packet) (m : Mach) : Mach :=
  m.requestIn i 1 p fun x =>
    let a := p.addr.toNat
    let die := some (Chip.strSkerry i).val
    if x.chip.holds die a p.payload.length then x.store (.packet i p) die a p.payload
    else ((x.store (.packet i p) die a p.payload).markWrite p).on fun c => c.respond p 0x81 0 false []

/-- READ_REQ: answered with the bytes, or with zeros and POISON (R284). A read of a held slice, or one whose routes do not work, waits (R101, R163, log 38). -/
def readIn (i : Fin 12) (p : Packet) (m : Mach) : Mach :=
  let a := p.addr.toNat
  let n := p.len.toNat
  if m.chip.holds (some (Chip.strSkerry i).val) a n then m
  else m.requestIn i 2 p fun x =>
    let x := x.met a n
    let bad := !(x.badUnits a n).isEmpty
    let data := if bad then List.replicate n 0 else x.read a n
    x.on fun c => c.respond p 0x82 0 bad data

/-- Whether a packet for an engine waits at the router of its strait for new routes (R101). -/
def engWaits (m : Mach) (i : Fin 12) (p : Packet) : Bool := (engOf (fld p.addr 4 4)).any fun e => m.chip.mesh.waits (Chip.strSkerry i).val (engSk e).val

/-- COLL_DATA: taken and acknowledged; new data that the engine's full receive buffer cannot take stays unanswered, so that its sender sends it again (R289, R301,
log 42). -/
def collIn (i : Fin 12) (p : Packet) (m : Mach) : Mach :=
  if m.engWaits i p then m
  else m.requestIn i 3 p fun x =>
    match engOf (fld p.addr 4 4) with
    | some e => if x.ceKind e (chunkOf p) = .fresh ∧ x.rxFull e p then x else (x.ceData e p).on fun c => c.respond p 0x83 0 false []
    | none => x
def arriveIn (i : Fin 12) (p : Packet) (m : Mach) : Mach :=
  if m.engWaits i p then m
  else m.requestIn i 4 p fun x =>
    match engOf (fld p.addr 4 4) with
    | some e => (x.ceRaise e (Fin.ofNat 16 (fld p.addr 0 4)) p.ref.toNat).on fun c => c.respond p 0x84 0 false []
    | none => x

/-! ### What an answer does for its owner (R179, R291, R299, R304, R305, R307, R309) -/

/-- Units met or a failure noted for a FABRIC_COPY. -/
def copyNote (cid units status code : Nat) (m : Mach) : Mach :=
  m.on fun c => c.onStr fun s => { s with fcopy := s.fcopy.map (fun e =>
    if e.1 == cid then (e.1, min (e.2.1 + units) 0xFFFFFFFF, if e.2.2.1 = 0 then status else e.2.2.1, if e.2.2.1 = 0 then code else e.2.2.2) else e) }

/-- A piece of a GET arrives; one marked uncorrectable, or failed, gives zeros and the first address of its poison (R120, R179). -/
def getPiece (g : Fin 1024) (key at' : Nat) (data : Bytes) (bad : Bool) (m : Mach) : Mach :=
  match m.chip.tile[g].dm.find? (fun d => d.key == key && d.get) with
  | none => m
  | some d =>
    let a := d.remote + (at' - d.local')
    let m1 := m.stPut g at' data
    if bad then m1.on fun c => c.onTile g fun t => { t with dm := t.dm.map (fun e =>
      if e.key == key then { e with poison := some (match e.poison with | some v => min v a | none => a) } else e) }
    else m1

/-- The record of a shadow begins (R303, R305): the partner's areas are known; descriptor and context are written, every complete page copied. -/
def shadowBegin (cid : Nat) (s : Fin 128) (data : Bytes) (m : Mach) : Mach :=
  match m.chip.cmd? cid with
  | none => m
  | some x =>
    let q := m.chip.seq[s]
    let record := x.f 16 8
    let old := (q.shadow.map (·.syncs)).getD []
    let h : Shadow := { record := record, frameList := fieldLe data 0 8, history := fieldLe data 8 8, serial := 0, pages := 0, asked := 0, tokens := 0, gstate := 0,
                        sentTokens := 0, due := true, syncs := old ++ [(cid, 0, 0x0204)] }
    let body := bytesLe 2 m.chip.str.modId ++ bytesLe 2 0 ++ bytesLe 4 (handleOf s.val q.gen) ++ slice (m.planN q.plan).planId 0 16 ++ bytesLe 8 0 ++
      m.read q.ctx 256 ++ List.replicate 192 0
    ((m.on fun c => c.onSeq s fun y => { y with shadow := some h }).on fun c => c.sendWrites c.str.partner (record + 32) c.str.mShadow body (.shadowData s)).shadowCommit s

/-- A commit word is acknowledged: commands that waited for it complete once nothing newer is due (R304, R309). A result of 2^32 stands for SERIAL. -/
def shadowAcked (s : Fin 128) (serial : Nat) (m : Mach) : Mach :=
  match m.chip.seq[s].shadow with
  | none => m
  | some h =>
    if h.due ∨ h.serial ≠ serial then m
    else m.on fun c => each h.syncs (fun (e : Nat × Nat × Nat) (d : Chip) => d.endCmd e.1 0 (if e.2.1 = 2 ^ 32 then serial else e.2.1))
      (c.onSeq s fun q => { q with shadow := some { h with syncs := [] } })

/-- The entry of a partner page (R304, R305): two words, the plan's frame size. -/
def partnerFrame (m : Mach) (s : Fin 128) (data : Bytes) : Option Nat :=
  let w0 := fieldLe data 0 8
  let frame := w0 % 2 ^ 48
  if w0 / 2 ^ 63 = 1 ∧ frame % 2 ^ m.fshiftOf m.chip.seq[s].plan = 0 then some frame else none

/-- The local frame of a page of a sequence. -/
def localFrame (m : Mach) (s : Fin 128) (page : Nat) : Option Nat :=
  match m.look s (m.ctx s 24 8) (64 * page) (m.fshiftOf m.chip.seq[s].plan) with
  | .ok w => some w.frame
  | .error _ => none

/-- A rebuild is complete: the page points at its new frame (R307). -/
def rebuilt (s : Fin 128) (page frame : Nat) (m : Mach) : Mach :=
  if m.chip.pendingFor (fun o => match o with | .rebuild t p _ _ => t == s && p == page | _ => false) then m
  else match m.leafAt s page with
    | some leaf => (m.on (Chip.uncache s (· == page))).setEntry (leaf + page % 256 * 16) (m.listAt s page) (BitVec.ofNat 64 (2 ^ 63 + 2 ^ 56 + frame)) 0
    | none => m.breakSeq s

/-- A positive answer. `bad` is its POISON. -/
def answered (r : Req) (data : Bytes) (bad : Bool) (m : Mach) : Mach :=
  let shadowBytes := fun (x : Mach) => x.on fun c => c.strCount 7 r.pkt.payload.length
  match r.owner with
  | .tileGet g key at' => m.getPiece g key at' (if bad then List.replicate r.pkt.len.toNat 0 else data) bad
  | .tilePut _ _ => m
  | .copyOut cid => m.copyEnd cid
  | .copyIn cid at' =>
    let n := data.length
    if bad then (m.copyNote cid ((at' + n - 1) / 64 - at' / 64 + 1) 0 0).copyEnd cid
    else if !m.chip.rangeMapped at' n then (m.on (Chip.lostWrite at')).copyEnd cid
    else (m.store (.copy cid) ((r.last).map fun i => (Chip.strSkerry i).val) at' data).copyEnd cid
  | .coll e k serial => m.sendArrive e k serial
  | .arrive e k serial => m.on fun c => c.onCe e k fun s =>
      { s with run := s.run.map (fun o => if o.serial = serial then { o with arriveAcked := true } else o) }
  | .setShadow cid s _ => if bad then (m.on fun c => c.endCmd cid 0x0201 0).stopShadow s else m.shadowBegin cid s data
  | .shadowEntry s page =>
    match m.chip.seq[s].shadow, m.partnerFrame s data, m.localFrame s page with
    | some _, some pf, some lf =>
      let n := 2 ^ m.fshiftOf m.chip.seq[s].plan
      if bad then m.stopShadow s else
        let x := m.met lf n
        if (x.badUnits lf n).isEmpty then x.on fun c => c.sendWrites c.str.partner pf c.str.mShadow (x.read lf n) (.shadowData s) else x.stopShadow s
    | some _, none, _ => m.stopShadow s
    -- a page that cannot be read now is not mirrored: a later commit asks for it again (R304)
    | some h, some _, none => m.on fun c => c.onSeq s fun q => { q with shadow := some { h with asked := min h.asked page } }
    | none, _, _ => m
  | .shadowData _ => shadowBytes m
  | .shadowWord s serial => (shadowBytes m).shadowAcked s serial
  | .rebuildEntry s page frame =>
    match m.partnerFrame s data with
    | some pf =>
      let n := 2 ^ m.fshiftOf m.chip.seq[s].plan
      if bad then m.breakSeq s else m.on fun c => c.sendReads c.str.partner pf n c.str.mShadow (fun o => .rebuild s page frame o)
    | none => m.breakSeq s
  | .rebuild s page frame at' => if bad then m.breakSeq s else (m.write (frame + at') data).rebuilt s page frame

/-- A failed access (R179, R289, R300, R305, R307): `code` is that of a NACK. A lost write is reported with a cause the spec does not give. -/
def failed (r : Req) (code : Option Nat) (m : Mach) : Mach :=
  let m := m.on fun c => c.strErr 3
  let status := if code.isSome then 0x0202 else 0x0201
  match r.owner with
  | .tileGet g key at' => m.getPiece g key at' (List.replicate r.pkt.len.toNat 0) true
  | .tilePut g _ => m.on (Chip.writeFailed (skOf g) r)
  | .copyOut cid => ((m.on (Chip.writeFailed (Chip.strSkerry (r.last.getD 0)) r)).copyNote cid 0 status (code.getD 0)).copyEnd cid
  | .copyIn cid _ => (m.copyNote cid 0 status (code.getD 0)).copyEnd cid
  -- a member's engine refuses: cause 1; without an answer the operation completes late, or its own time limit fails it with cause 2 (R300, R316)
  | .coll e k serial | .arrive e k serial =>
    let m := if r.pkt.typ = 1 then m.on (Chip.writeFailed (engSk e) r) else m
    match m.chip.str.ce[e].slots[k].run with
    | some o =>
      if o.serial ≠ serial then m
      else if code.isSome then m.ceAbort e k 1
      else m.on fun c => c.onCe e k fun s => { s with run := some { o with lost := true } }
    | none => m
  | .setShadow cid s _ =>
    let x := m.on (Chip.endCmd cid status (code.getD 0))
    if x.chip.seq[s].shadow.isSome then x.stopShadow s else x.on fun c => (c.strErr 8).faultSummary (dsqSkerry (dsqOf s)) 6 s.val 0x20
  | .shadowEntry s _ | .shadowData s | .shadowWord s _ => m.stopShadow s
  | .rebuildEntry s _ _ | .rebuild s _ _ _ => m.breakSeq s

/-- Whether an answer waits in its strait's receive buffer: for its route to the unit that asked (R101), or for a held slice that it makes that unit read or write
(R163, log 38). -/
def answerWaits (m : Mach) (i : Fin 12) (r : Req) : Bool :=
  (m.chip.ownerDie r.owner).any (fun d => m.chip.mesh.waits (Chip.strSkerry i).val d) ||
    match r.owner with
    | .shadowEntry s page => m.seqHeld s || (m.localFrame s page).any fun f => m.chip.holds (some (dsqSkerry (dsqOf s)).val) f (2 ^ m.fshiftOf m.chip.seq[s].plan)
    | .setShadow _ s _ | .rebuildEntry s _ _ | .rebuild s _ _ _ => m.seqHeld s
    | _ => false

/-- An answer arrives: it ends the request it names, or is discarded (R289). -/
def answerIn (i : Fin 12) (typ : Nat) (p : Packet) (m : Mach) : Mach :=
  let want := fun (r : Req) => r.pkt.seq == p.ref && r.pkt.dest == p.src && p.dest.toNat == m.chip.str.modId && (typ == 0x8F || r.pkt.typ.toNat + 0x80 == typ) &&
    (typ != 0x82 || p.payload.length == r.pkt.len.toNat)
  if m.chip.str.outst.any fun r => want r && m.answerWaits i r then m
  else m.routedIn i typ p fun x =>
    match x.chip.str.outst.find? want with
    | none => x
    | some r =>
      let x1 := x.on fun c => c.onStr fun s => { s with outst := s.outst.filter (fun y => !want y) }
      let x2 := if typ = 0x8F then (x1.on fun c => c.strCount 4 1).failed r (some p.code.toNat) else x1.answered r p.payload (bit p.flags 2)
      x2.on Chip.releaseWaiting

/-- A request has had no answer (R289): it goes again on the next candidate plane under a new number, or has failed. -/
def resend (seq : W32) (m : Mach) : Mach :=
  match m.chip.str.outst.find? (fun r => r.pkt.seq == seq) with
  | none => m
  | some r =>
    -- the time runs from when the request was sent: one that still stands in a send queue is not sent again (R312)
    if m.chip.str.link.toList.any fun l => l.outReq.any fun p => p.seq == seq then m else
    let rest := fun (c : Chip) => c.onStr fun s => { s with outst := s.outst.filter (fun y => y.pkt.seq != seq) }
    if m.chip.str.retries ≤ r.tries then ((m.on rest).failed r none).on Chip.releaseWaiting
    else m.on fun c =>
      let c1 := (rest c).strCount 2 1
      let dst := Chip.nextFrom (c.candidates r.pkt.dest.toNat) ((r.last.elim 0 (fun i => i.val + 1)))
      let p := { r.pkt with src := BitVec.ofNat 16 c.str.modId, seq := c.str.seqNo, flags := (r.pkt.flags &&& 0xFE) ||| 2 }
      let c2 := c1.onStr fun s => { s with seqNo := s.seqNo + 1, outst := s.outst ++ [{ r with pkt := p, last := dst.or r.last, tries := r.tries + 1 }] }
      (match dst with | some i => c2.emit i p | none => c2).releaseWaiting

/-! ### Export windows and the partner (R292, R302, R311) -/

/-- Where the active CXL windows that join on to one another from an offset end, sixteen at most. -/
def cxlSpan (c : Chip) : Nat → Nat → Nat
  | 0, a => a
  | n + 1, a => match c.winOf a with
    | some w => if c.cxl.win[w].wstate = 1 then cxlSpan c n (c.areaOf' a).2 else a
    | none => a

/-- Whether every byte of a range can be exported: it lies in one area of R178, or in CXL windows that join on to one another (R178, R292). -/
def spanMapped (c : Chip) (a n : Nat) : Bool := if regionOf a == .cxl then decide (a + n ≤ cxlSpan c 16 a) else c.rangeMapped a n

/-- A write of STR_EXPORT_BASE. -/
def exportBase (w : Fin 16) (v : W64) (m : Mach) : Mach :=
  m.on fun c =>
    let x := c.str.exp[w]
    let put := fun (y : Export) (d : Chip) => d.onStr fun s => { s with exp := vput s.exp w y }
    if x.enable then (if bit v 63 then c else put { x with enable := false } c)
    else
      let y := { x with rd := bit v 62, wr := bit v 61, base := fld v 16 32 * 65536 }
      if !bit v 63 then put y c
      else if y.len ≠ 0 ∧ spanMapped c y.base y.len then put { y with enable := true } c
      else (put y c).strErr 9

/-- A write of STR_PARTNER (R302). -/
def partnerReg (v : W32) (m : Mach) : Mach :=
  m.on fun c =>
    let p := fld v 0 16
    let ok := decide (1 ≤ p) && decide (p ≤ 20480) && p != c.str.modId
    c.onStr fun s => { s with partner := p, partnerEn := bit v 31 && ok }

/-! ### Fabric commands (R309) -/

/-- FABRIC_COPY. -/
def fabricCopy (m : Mach) (x : Cmd) : Except Nat (Mach → Mach) :=
  let ua := x.f 16 8
  let n := x.f 24 8
  let mode := x.f 33 1
  let dest := ua / 2 ^ 48
  if n < 16 ∨ 2 ^ 32 < n ∨ n % 16 ≠ 0 ∨ 2 < mode then .error 2
  else match m.chip.localOf (x.f 8 8) with
    | none => .error 7
    | some a =>
      if !m.chip.rangeMapped a n ∨ (m.chip.localOf ua).isSome ∨ a % 16 ≠ 0 ∨ ua % 16 ≠ 0 ∨ 2 ^ 48 < ua % 2 ^ 48 + n then .error 7
      else if m.chip.str.modId = 0 then .error 0x0200
      else if !m.chip.reachable dest then .error 0x0201
      else .ok fun m =>
        let m1 := m.on fun c => c.onStr fun s => { s with fcopy := s.fcopy ++ [(x.id, 0, 0, 0)] }
        if x.f 32 1 = 1 then m1.on fun c => c.sendReads dest (ua % 2 ^ 48) n mode (fun o => .copyIn x.id (a + o))
        else
          let m1 := m1.met a n
          let m2 := m1.copyNote x.id (m1.badUnits a n).length 0 0
          each (Chip.pieces (ua % 2 ^ 48) n) (fun (p : Nat × Nat) (y : Mach) =>
            let bad := !(y.badUnits (a + p.1) p.2).isEmpty
            let data := if bad then List.replicate p.2 0 else y.read (a + p.1) p.2
            y.on fun c => c.submit { pkt := { Chip.mkPkt 1 dest (ua % 2 ^ 48 + p.1) p.2 0 data with flags := if bad then 4 else 0 }, mode := mode, last := none, tries := 0,
                                     owner := .copyOut x.id }) m2

/-- FIRE_SLOT (R293, R310). -/
def fireSlot (m : Mach) (x : Cmd) : Except Nat (Mach → Mach) :=
  match engOf (x.f 8 1) with
  | none => .error 0x0205
  | some e =>
    if 15 < x.f 9 1 ∨ !m.chip.str.ce[e].valid then .error 0x0205
    else .ok fun m => (m.ceRaise e (Fin.ofNat 16 (x.f 9 1)) (x.f 12 4)).done x 0

/-- SET_SHADOW (R302 to R305, R309, R310). -/
def setShadow (m : Mach) (x : Cmd) : Except Nat (Mach → Mach) :=
  m.onSeqOf x fun s =>
    let record := x.f 16 8
    if record % 512 ≠ 0 ∨ 2 ^ 48 < record + 512 then .error 2
    else if m.chip.seq[s].st ≠ .idle then .error 0x0100
    else if record = 0 then .ok fun m =>
      let l := match m.chip.seq[s].shadow with | some h => h.syncs | none => []
      (m.on fun c => each l (fun (e : Nat × Nat × Nat) (d : Chip) => d.endCmd e.1 e.2.2 (if e.2.2 = 0 then e.2.1 else 0))
        (c.onSeq s fun q => { q with shadow := none })).done x 0
    else if m.chip.str.modId = 0 then .error 0x0200
    else if !m.chip.str.partnerEn then .error 0x0203
    else if !m.chip.reachable m.chip.str.partner then .error 0x0201
    else .ok fun m => m.on fun c => c.submit
      { pkt := Chip.mkPkt 2 c.str.partner (record + 16) 16 0 [], mode := c.str.mShadow, last := none, tries := 0, owner := .setShadow x.id s 0 }

/-- SHADOW_SYNC (R309). -/
def shadowSync (m : Mach) (x : Cmd) : Except Nat (Mach → Mach) :=
  m.onSeqOf x fun s =>
    match m.chip.seq[s].shadow with
    | none => .error 0x0203
    | some h =>
      if !m.chip.str.partnerEn then .error 0x0203
      else .ok fun m =>
        let busy := h.due || m.shadowBusy s || m.chip.pendingFor (fun o => match o with | .shadowWord t _ => t == s | _ => false)
        if busy then m.on fun c => c.onSeq s fun q => { q with shadow := some { h with syncs := h.syncs ++ [(x.id, 2 ^ 32, 0x0204)] } }
        else m.done x h.serial

/-! ### SIGNAL (R134, R135) -/

/-- Whether a SIGNAL's target exists. -/
def signalOk (c : Chip) (kind target cnt : Nat) : Bool :=
  if kind = 0 then decide (target < 1024) && cnt != 0 && decide (c.sk[(Fin.ofNat 16 (target / 64))].st ≠ .failed)
  else if kind = 1 then decide (target < 16) && cnt != 0 && decide (c.sk[(Fin.ofNat 16 target)].st ≠ .failed)
  else if kind = 2 then decide (target < 4)
  else (engOf target).isSome

/-- The packets of a SIGNAL of kinds 0 to 2: to a tile, to every tile of a skerry, to a decode sequencer (R134). A sequencer knows events 1, 2 and 3; another
has no effect there but EVENT_BAD (R251), and no packet is kept for it. -/
def signalPkts (g : Fin 1024) (kind target cnt : Nat) (v : W32) : List MeshPkt :=
  match kind with
  | 0 => [⟨.tile g, .tile (Fin.ofNat 1024 target), .add (Fin.ofNat 16 cnt) v⟩]
  | 1 => (tilesOf (Fin.ofNat 16 target)).map fun h => ⟨.tile g, .tile h, .add (Fin.ofNat 16 cnt) v⟩
  | _ => if cnt = 0 ∨ 4 ≤ cnt then [] else [⟨.tile g, .dsq (Fin.ofNat 4 target), .event (Fin.ofNat 16 cnt) v⟩]

/-- SIGNAL leaves once every earlier PUT of the tile is acknowledged. -/
def doSignal (g : Fin 1024) (m : Mach) : Mach :=
  match m.ready g (fun _ _ => noUse) (isOp 6 0) with
  | none => m
  | some w =>
    let kind := fld w 54 2
    let target := fld w 44 10
    let cnt := fld w 40 4
    let v := fld w 0 32
    if !signalOk m.chip kind target cnt then m.refuse g 8 g.val
    else if m.chip.tile[g].dm.any (fun d => !d.get) then m
    else
      let m1 := m.issued g id
      match kind with
      | 3 => match engOf target with
        | some e => m1.signal ⟨.tile g, .ce e, .raise' (Fin.ofNat 16 cnt) (BitVec.ofNat 32 v)⟩ (ceRaise e (Fin.ofNat 16 cnt) v)
        | none => m1
      | _ => m1.on fun c =>
          let c1 := c.onMesh (Mesh.post (signalPkts g kind target cnt (BitVec.ofNat 32 v)))
          if kind = 2 ∧ (cnt = 0 ∨ 4 ≤ cnt) then c1.dsqErr (Fin.ofNat 4 target) 7 else c1

end Mach

def execSignal (g : Fin 1024) (s : State) : Host.Outcome State Fault Refusal := onMach (Mach.doSignal g) s
def execWrite (i : Fin 12) (pkt : Packet) (s : State) : Host.Outcome State Fault Refusal := onMach (Mach.writeIn i pkt) s
def execReadReq (i : Fin 12) (pkt : Packet) (s : State) : Host.Outcome State Fault Refusal := onMach (Mach.readIn i pkt) s
def execCollData (i : Fin 12) (pkt : Packet) (s : State) : Host.Outcome State Fault Refusal := onMach (Mach.collIn i pkt) s
def execArrive (i : Fin 12) (pkt : Packet) (s : State) : Host.Outcome State Fault Refusal := onMach (Mach.arriveIn i pkt) s
def execWriteAck (i : Fin 12) (pkt : Packet) (s : State) : Host.Outcome State Fault Refusal := onMach (Mach.answerIn i 0x81 pkt) s
def execReadResp (i : Fin 12) (pkt : Packet) (s : State) : Host.Outcome State Fault Refusal := onMach (Mach.answerIn i 0x82 pkt) s
def execCollAck (i : Fin 12) (pkt : Packet) (s : State) : Host.Outcome State Fault Refusal := onMach (Mach.answerIn i 0x83 pkt) s
def execArriveAck (i : Fin 12) (pkt : Packet) (s : State) : Host.Outcome State Fault Refusal := onMach (Mach.answerIn i 0x84 pkt) s
def execNack (i : Fin 12) (pkt : Packet) (s : State) : Host.Outcome State Fault Refusal := onMach (Mach.answerIn i 0x8F pkt) s
def execResendTimeout (seq : W32) (s : State) : Host.Outcome State Fault Refusal := onMach (Mach.resend seq) s
def execStrExportEnable (w : Fin 16) (value : W64) (s : State) : Host.Outcome State Fault Refusal :=
  onMach (fun m => if m.chip.railsOn then m.exportBase w value else m) s
def execStrPartnerEnable (value : W32) (s : State) : Host.Outcome State Fault Refusal := onMach (fun m => if m.chip.railsOn then m.partnerReg value else m) s
/-- FABRIC_COPY; one that is refused for its local range, where that meets a reserved area, is reported as a discarded write (R154). -/
def execFabricCopy (cid : Nat) (s : State) : Host.Outcome State Fault Refusal :=
  onMach (fun m => match m.chip.take 0x80 cid with
    | some x =>
      if m.cmdHeld x then m
      else match m.fabricCopy x with
        | .error 7 => m.on fun c => (if x.f 32 1 = 1 then match c.localOf (x.f 8 8) with | some a => c.refusedWrite a (x.f 24 8) | none => c else c).endCmd cid 7 0
        | r => m.runCmd x r
    | none => m) s
def execFireSlot (cid : Nat) (s : State) : Host.Outcome State Fault Refusal := onTakenM 0x81 cid Mach.fireSlot s
def execSetShadow (cid : Nat) (s : State) : Host.Outcome State Fault Refusal := onTakenM 0x82 cid Mach.setShadow s
def execShadowSync (cid : Nat) (s : State) : Host.Outcome State Fault Refusal := onTakenM 0x83 cid Mach.shadowSync s
def execShadowCommitWord (q : Fin 128) (s : State) : Host.Outcome State Fault Refusal := onMach (Mach.shadowWord q) s

end Sys2Proof.Machine
end

