-- ==== Sys2Proof/Machine/PowerCmds.lean ====
section
/-!
DEFINITION. The commands of module state, power, hot plug and the madder path (R24 to R40, R91, R413 to R438).
-/
namespace Sys2Proof.Machine
namespace Chip

/-- The grant of object 2400.03 once after an entry to Standby from Aux, when every check passes (R427). -/
def autoGrant (c : Chip) : Chip :=
  let target := c.val (okey 0x2400 3)
  if c.mod.st = .standby ∧ !c.mod.autoDone ∧ target ≠ 0 ∧ c.sec.ret = 0 ∧ c.permitChecks then c.openPath target else c

/-- The rail sequence again, 10 s after a rail fault in Package-on (R431). -/
def railRetry (c : Chip) : Chip :=
  if c.mod.st = .packageOn ∧ c.pwr.phase = .waitRetry then c.packageReset.railsStart.sendPolicy else c

/-- Serving is entered once every step of R432 has completed (R32). -/
def startUp (c : Chip) : Chip :=
  if c.mod.st = .packageOn ∧ c.mod.stopReq.isNone ∧ c.pendingStep c.str.discDone = 0 ∧ c.pwr.laser then c.setState .serving else c

/-- 30 s in Package-on (R33): the module stays there and goes on trying. The step that has not completed is what object 2400.04 reads in Package-on all
along (`pendingStep`, R430, R432), so nothing more changes. -/
def startUpLate (c : Chip) : Chip := c

/-- The hot-swap switch closes behind its pre-charge (R421): the presence contact is made and the busbar within 44–60 V. The boost rail
follows (R398). -/
def swapClose (volts : Nat) (c : Chip) : Chip :=
  if c.mod.st ≠ .unpowered ∧ !c.pwr.hotSwap ∧ 4400 ≤ volts ∧ volts ≤ 6000 then
    ({ c with pins := { c.pins with presence := true, busbar := volts } }.onPwr fun p => { p with hotSwap := true }).boostUp.blowersFed
  else c

/-- A raw change of the removal-request switch wakes a stopped core (R320, R424). -/
def switchChange (pressed : Bool) (c : Chip) : Chip :=
  { c with pins := { c.pins with pressed := pressed } }.wakeAll

/-- The lock's release command ends; in Ochre hold channel 8 stays at its last command (R36, R37, R425). -/
def unlock (c : Chip) : Chip := if c.mod.st = .ochre then c else c.deenergise 8

/-- A switch held for 10 s after its request is ignored from then on (R425). -/
def requestIgnored (c : Chip) : Chip :=
  if c.pins.request then { c with pins := { c.pins with request := false, ignored := true } }.unlock else c

/-- The switch is accepted as released (R425): the lock's release command ends, and later requests are taken again. -/
def switchReleased (c : Chip) : Chip :=
  { c with pins := { c.pins with pressed := false, request := false, ignored := false } }.unlock

/-- A rail sequence that waits at its last step goes on once the conditions of R24 hold (R430). -/
def railWait (c : Chip) : Chip := if c.pwr.phase = .up 5 ∧ !bit c.pwr.enabled 5 ∧ c.interlock then c.nextRail 5 else c

/-- Both engagement contacts are made, and with them the interlock of R24 holds (order 5 and 6 of R423): a rail sequence that waits at its last step
goes on (R430). -/
def engageMade (c : Chip) : Chip :=
  { c with pins := { c.pins with engageA := true, engageB := true, ejector := true } }.railWait

/-- The thermal clamp engages at 105 °C, or when no sensor reports (R91, R414). -/
def clampOn (s : Fin 16) (j : Fin 8) (reading : W16) (c : Chip) : Chip :=
  let tj := vput c.sk[s].tj j reading
  let hot := tj.toList.map (fun (w : W16) => sgn 16 w.toNat)
  let top := hot.foldl max (-32768)
  if bit c.pwr.good 1 && !c.sk[s].clamp && (decide (1680 ≤ sgn 16 reading.toNat) || hot.all (fun x => x == -32768)) then
    let c1 := ((c.onSk s fun k => { k with tj := tj, clamp := true, fault := setBit k.fault 0 true }).reclock s).condRaise 0x4210 s.val 0 (unsgn 16 top)
    { c1 with ad := { c1.ad with clamps := satAdd 32 c1.ad.clamps 1 } }
  else c

/-- Whether the sensors of a die let its clamp go: every one that reports reads below 100 °C, and one does (R414). -/
def cooled (k : Skerry) : Bool :=
  let hot := (k.tj.toList.map (fun (w : W16) => sgn 16 w.toNat)).filter (fun x => x != -32768)
  !hot.isEmpty && hot.all (fun x => decide (x < 1600))

/-- The clamp is released once the die has cooled (R414). -/
def clampOff (s : Fin 16) (c : Chip) : Chip :=
  if c.sk[s].clamp && cooled c.sk[s] then ((c.onSk s fun k => { k with clamp := false }).reclock s).condClear 0x4210 s.val else c

end Chip

/-- The rail's power-good, and after the core rail the tile self-test: a tile that fails it is faulted with cause 0x05 (R83, R430). -/
def Mach.railGood (rail : Fin 6) (fails : List (Fin 16 × Fin 68)) (m : Mach) : Mach :=
  let on := m.chip.pwr.phase = .up rail.val ∧ bit m.chip.pwr.enabled rail.val
  let m1 := m.on (Chip.railGood rail)
  if rail.val = 1 ∧ on then each fails (fun (x : Fin 16 × Fin 68) (y : Mach) => y.tileFault x.1 x.2 5) m1 else m1

/-- The hot-swap switch opens (R421): a loss of the busbar, or with the auxiliary supply the loss of everything (R34, R40). -/
def Mach.swapOpen (cause : SwapCause) (reading : Nat) (m : Mach) : Mach :=
  if !m.chip.pwr.hotSwap then m
  else
    let m1 := m.on fun c => c.onPwr fun p => { p with hotSwap := false }
    match cause with
    | .auxLost => m1.auxLost
    | .presence => (m1.on fun c => { c with pins := { c.pins with presence := false } }).busbarLost
    | .underVoltage => (m1.on fun c => { c with pins := { c.pins with busbar := reading } }).busbarLost
    | .overVoltage => (m1.on fun c => { c with pins := { c.pins with busbar := reading } }.emcyEvent 0x3110 0 0 reading).busbarLost
    | .overCurrent => (m1.on fun c => c.emcyEvent 0x2310 0 0 reading).busbarLost

/-- The presence contact breaks (R434): the switch opens, and the busbar is lost. -/
def Mach.presenceLost (m : Mach) : Mach :=
  let m1 := m.on fun c => { c with pins := { c.pins with presence := false } }
  if m1.chip.pwr.hotSwap then (m1.on fun c => c.onPwr fun p => { p with hotSwap := false }).busbarLost else m1

/-- Every laser source stops when a condition of R24 is false (R25): with the light every strait and CXL port goes down, a fault of each (R308). The laser rail is
enabled only while the conditions hold (R430): before it has come up the sequence waits for them; once it was up, a new sequence alone enables it again (R25). -/
def Mach.lightCheck (m : Mach) : Mach :=
  if bit m.chip.pwr.enabled 5 && !m.chip.interlock then
    let off := m.on fun c => c.onPwr fun p => { p with good := setBit p.good 5 false, enabled := setBit p.enabled 5 false }
    if !m.chip.pwr.laser then off
    else
      let a := off.on fun c => each (fins 12) (fun (i : Fin 12) (d : Chip) => d.loseStrait i 0 2) c
      let b := each (fins 4) (fun (p : Fin 4) (x : Mach) => if x.chip.cxl.port[p].st = 0 then x else x.cxlDown p 1) a
      (b.on Chip.lightGone).reachChanged
  else m.on Chip.railWait

/-- An engagement contact breaks (R25, R308, R426): the lasers go dark; in Package-on and Serving the permission is withdrawn with cause 3. With both contacts
broken the ejector, which opens before them, is open (R423). -/
def Mach.engageLost (contact : Fin 2) (m : Mach) : Mach :=
  let m0 := m.on fun c =>
    let p := if contact.val = 0 then { c.pins with engageA := false } else { c.pins with engageB := false }
    { c with pins := { p with ejector := p.ejector && (p.engageA || p.engageB) } }
  let m1 := m0.lightCheck
  match m1.chip.mod.st with
  | .packageOn | .serving => m1.on (Chip.askStop 3)
  | _ => m1.on Chip.openWatch

open Chip

def execAuxPowerValid (pos : BitVec 6) (badAreas : Vector (BitVec 11) 2) (logBad : BitVec 2) (s : State) : Host.Outcome State Fault Refusal :=
  onChip (auxValid pos badAreas logBad) s
def execAuxPowerLost (s : State) : Host.Outcome State Fault Refusal := onMach Mach.auxLost s
def execDictionaryReady (mc : Mc) (s : State) : Host.Outcome State Fault Refusal := onChip (dictReady mc.ix) s
def execAutomaticGrant (s : State) : Host.Outcome State Fault Refusal := onChip autoGrant s
/-- A write of the target to object 2400.02 (R427). -/
def execPermissionGrant (cl : Client) (target : Byte) (s : State) : Host.Outcome State Fault Refusal := onChip (clientWrite cl 0x2400 2 [target] true) s
/-- A write of 0 to object 2400.02 (R427). -/
def execPermissionWithdraw (cl : Client) (s : State) : Host.Outcome State Fault Refusal := onChip (clientWrite cl 0x2400 2 [0] true) s
def execFillDetected (dp : Int) (s : State) : Host.Outcome State Fault Refusal := onChip (fillDone dp) s
def execDecayHoldEnd (dp : Int) (s : State) : Host.Outcome State Fault Refusal := onChip (holdEnd dp) s
def execRailPowerGood (rail : Fin 6) (testFails : List (Fin 16 × Fin 68)) (s : State) : Host.Outcome State Fault Refusal :=
  onMach (Mach.railGood rail testFails) s
def execRailFault (rail : Fin 6) (cause : RailCause) (s : State) : Host.Outcome State Fault Refusal :=
  onMach (Mach.railFault rail (match cause with | .lost => 1 | .notReached => 2 | .overCurrent => 3)) s
def execRailSequenceRetry (s : State) : Host.Outcome State Fault Refusal := onChip railRetry s
def execStartUpComplete (s : State) : Host.Outcome State Fault Refusal := onChip startUp s
def execStartUpOverdue (s : State) : Host.Outcome State Fault Refusal := onChip startUpLate s
def execHotSwapClose (volts : Nat) (s : State) : Host.Outcome State Fault Refusal := onChip (swapClose volts) s
def execHotSwapOpen (cause : SwapCause) (reading : Nat) (s : State) : Host.Outcome State Fault Refusal := onMach (Mach.swapOpen cause reading) s
def execPresenceLost (s : State) : Host.Outcome State Fault Refusal := onMach Mach.presenceLost s
def execEjectorSwitchChange (pressed : Bool) (s : State) : Host.Outcome State Fault Refusal := onChip (switchChange pressed) s
def execRemovalRequest (s : State) : Host.Outcome State Fault Refusal := onChip removalRequest s
def execRemovalRequestIgnored (s : State) : Host.Outcome State Fault Refusal := onChip requestIgnored s
def execDrainTimeExpiry (s : State) : Host.Outcome State Fault Refusal := onMach Mach.drainEnd s
def execOpticalEngagementLost (contact : Fin 2) (s : State) : Host.Outcome State Fault Refusal := onMach (Mach.engageLost contact) s
def execOpticalEngagementMade (s : State) : Host.Outcome State Fault Refusal := onChip engageMade s
def execOrphanTimeout (r : Receiver) (s : State) : Host.Outcome State Fault Refusal := onChip (orphanTimeout r) s
/-- The madder path trips where the condition of the cause holds (R413). -/
def execMadderTrip (cause : Fin 5) (source : Byte) (reading : W16) (s : State) : Host.Outcome State Fault Refusal :=
  onMach (fun m => if m.chip.tripHolds cause reading then m.trip cause source.toNat reading.toNat else m) s
/-- A write of 1 to object 3800.02 (R417). -/
def execTripAcknowledge (cl : Client) (s : State) : Host.Outcome State Fault Refusal := onChip (clientWrite cl 0x3800 2 [1] true) s
def execThermalClampEngage (sk : Fin 16) (sensor : Fin 8) (reading : W16) (s : State) : Host.Outcome State Fault Refusal := onChip (clampOn sk sensor reading) s
def execThermalClampRelease (sk : Fin 16) (s : State) : Host.Outcome State Fault Refusal := onChip (clampOff sk) s
def execRemovalSwitchReleased (s : State) : Host.Outcome State Fault Refusal := onChip switchReleased s

end Sys2Proof.Machine
end

