-- ==== Sys2Proof/Machine/CoolantCmds.lean ====
section
/-!
DEFINITION. The commands of coolant sensing, leak detection, the actuator driver and the blowers (R386 to R412).
-/
namespace Sys2Proof.Machine
open Chip

/-- An outlet element has been implausible for its time (R389). -/
def execOutletElementFault (which : Fin 2) (s : State) : Host.Outcome State Fault Refusal :=
  onChip (outletFault which) s

/-- Inlet elements have differed for 10 s (R390). -/
def execInletElementFault (s : State) : Host.Outcome State Fault Refusal :=
  onChip inletFault s

/-- FQ and the DP estimate have disagreed for 5 s (R391). -/
def execFlowSensorFault (s : State) : Host.Outcome State Fault Refusal :=
  onChip flowFault s

/-- The actuator driver confirms a leak (R395). -/
def execLeakConfirm (loops : BitVec 2) (reading : W16) (s : State) : Host.Outcome State Fault Refusal :=
  onMach (Mach.leakConfirm loops reading) s

/-- Both leak loops have been Open for 60 s (R396). -/
def execLeakDetectionLost (s : State) : Host.Outcome State Fault Refusal :=
  onChip leakLost s

/-- A peak ends (R400, R405). -/
def execPeakEnd (ch : Fin 10) (result : PeakResult) (s : State) : Host.Outcome State Fault Refusal :=
  onMach (fun m => (m.on fun c => ((c.endPeak ch result).openPeak ch).lockWatch).lightCheck) s

/-- A peak has waited 5 ms for the boost rail (R405). -/
def execBoostWaitTimeout (ch : Fin 10) (s : State) : Host.Outcome State Fault Refusal :=
  onChip (fun c => (c.boostTimeout ch).openPeak ch) s

/-- A 10 µs boundary of a shared supply switch (R402). -/
def execSupplySwitchBoundary (hs : Fin 2) (s : State) : Host.Outcome State Fault Refusal :=
  onChip (if hs = 0 then switchBoundary 4 5 else switchBoundary 6 7) s

/-- A pulse period begins (R403). -/
def execTrimPeriodStart (ch : Fin 10) (s : State) : Host.Outcome State Fault Refusal :=
  onChip (periodStart ch) s

/-- The energised part of a pulse period ends (R403). -/
def execTrimPeriodDeenergise (ch : Fin 10) (s : State) : Host.Outcome State Fault Refusal :=
  onChip (periodOff ch) s

/-- A channel exceeds 8 A (R398, R406). -/
def execChannelOverCurrent (ch : Fin 10) (s : State) : Host.Outcome State Fault Refusal :=
  onChip (fun c => (c.overCurrent ch).openPeak ch) s

/-- A position probe ends with its current (R407). -/
def execPositionProbe (ch : Fin 10) (ma10 : Nat) (s : State) : Host.Outcome State Fault Refusal :=
  onMach (fun m => (m.on fun c => (((c.probe ch ma10).openClosed ch).drainClosed).lockWatch).lightCheck) s

/-- A write of object 3020.0D (R405). -/
def execClearChannelFaults (cl : Client) (value : W16) (s : State) : Host.Outcome State Fault Refusal :=
  onChip (clientWrite cl 0x3020 0xD (wordBytes value) true) s

/-- No tach pulse within 2 s of a start (R410). -/
def execBlowerStall (b : Fin 2) (s : State) : Host.Outcome State Fault Refusal :=
  onChip (blowerStall b) s

/-- A stalled blower is retried (R410). -/
def execBlowerRetry (b : Fin 2) (s : State) : Host.Outcome State Fault Refusal :=
  onChip (blowerRetry b) s

/-- A tach gap of 1 s (R411). -/
def execTachGap (b : Fin 2) (percent : Nat) (s : State) : Host.Outcome State Fault Refusal :=
  onChip (tachGap b percent) s

/-- A channel's decay ends (R401). -/
def execChannelDecayEnd (ch : Fin 10) (s : State) : Host.Outcome State Fault Refusal :=
  onChip (endDecay ch) s

/-- The boost rail reaches 80 V (R398). -/
def execBoostRailUp (s : State) : Host.Outcome State Fault Refusal :=
  onChip boostUp s

end Sys2Proof.Machine
end

