-- ==== Sys2Proof/Machine/DictCmds.lean ====
section
/-!
DEFINITION. The commands of the object dictionary, CANopen and MCTP (R440 to R460).
-/
namespace Sys2Proof.Machine
open Chip

/-- A write of an object (R443). -/
def execObjectWrite (cl : Client) (index : W16) (sub : Byte) (data : Bytes) (s : State) : Host.Outcome State Fault Refusal :=
  onChip (clientWrite cl index.toNat sub.toNat data true) s

/-- A dictionary read over MCTP (R456). -/
def execDictionaryReadRequest (path : Path) (eid : Byte) (msg : Bytes) (s : State) : Host.Outcome State Fault Refusal :=
  onChip (dictMessage path eid msg) s

/-- A dictionary write over MCTP (R456). -/
def execDictionaryWriteRequest (path : Path) (eid : Byte) (msg : Bytes) (s : State) : Host.Outcome State Fault Refusal :=
  onChip (dictMessage path eid msg) s

/-- A USDO upload (R445). -/
def execUsdoUpload (node : Byte) (index : W16) (sub : Byte) (s : State) : Host.Outcome State Fault Refusal :=
  onChip (usdoRead node index.toNat sub.toNat) s

/-- A USDO download (R445). -/
def execUsdoDownload (node : Byte) (index : W16) (sub : Byte) (complete : Bool) (data : Bytes) (s : State) : Host.Outcome State Fault Refusal :=
  onChip (usdoWrite node index.toNat sub.toNat complete data) s

/-- A segment is overdue (R445). -/
def execUsdoSegmentTimeout (node : Byte) (s : State) : Host.Outcome State Fault Refusal :=
  onChip (usdoTimeout node) s

/-- NMT start (R447). -/
def execNmtStart (node : Byte) (s : State) : Host.Outcome State Fault Refusal :=
  onChip (nmtFor node (setNmt 5)) s

/-- NMT stop (R447). -/
def execNmtStop (node : Byte) (s : State) : Host.Outcome State Fault Refusal :=
  onChip (nmtFor node (setNmt 4)) s

/-- NMT enter pre-operational (R447). -/
def execNmtEnterPreOperational (node : Byte) (s : State) : Host.Outcome State Fault Refusal :=
  onChip (nmtFor node (setNmt 127)) s

/-- NMT reset communication (R447). -/
def execNmtResetCommunication (node : Byte) (pos : BitVec 6) (s : State) : Host.Outcome State Fault Refusal :=
  onChip (nmtFor node (nmtReset pos)) s

/-- NMT reset node acts as reset communication (R447). -/
def execNmtResetNode (node : Byte) (pos : BitVec 6) (s : State) : Host.Outcome State Fault Refusal :=
  onChip (nmtFor node (nmtReset pos)) s

/-- A received RPDO (R450). -/
def execRpdoReceive (n : Fin 8) (data : Bytes) (s : State) : Host.Outcome State Fault Refusal :=
  onChip (rpdoTake n data) s

/-- An RPDO missing for its event timer (R450). -/
def execRpdoTimeout (n : Fin 8) (s : State) : Host.Outcome State Fault Refusal :=
  onChip (rpdoLate n) s

/-- A TPDO is due (R450). -/
def execTpdoTransmit (n : Fin 8) (s : State) : Host.Outcome State Fault Refusal :=
  onChip (tpdoSend n) s

/-- A waiting EMCY may be sent (R452). -/
def execEmcySend (s : State) : Host.Outcome State Fault Refusal :=
  onChip emcySend s

/-- The producer heartbeat timer (R454). -/
def execHeartbeatProduce (s : State) : Host.Outcome State Fault Refusal :=
  onChip beat s

/-- A consumed node's heartbeat (R454). -/
def execHeartbeatReceive (node : Byte) (s : State) : Host.Outcome State Fault Refusal :=
  onChip (beatFrom node) s

/-- A consumed heartbeat is overdue (R454). -/
def execHeartbeatLoss (k : Fin 4) (s : State) : Host.Outcome State Fault Refusal :=
  onChip (beatLost k) s

/-- A write of object 1010 (R458). -/
def execStore (cl : Client) (sub : Byte) (value : W32) (memOk : Bool) (s : State) : Host.Outcome State Fault Refusal :=
  onChip (clientWrite cl 0x1010 sub.toNat (wordBytes value) memOk) s

/-- A write of object 1011 (R459). -/
def execRestore (cl : Client) (sub : Byte) (value : W32) (memOk : Bool) (s : State) : Host.Outcome State Fault Refusal :=
  onChip (clientWrite cl 0x1011 sub.toNat (wordBytes value) memOk) s

/-- A write of object 1003.00 (R453). -/
def execErrorHistoryClear (cl : Client) (value : Byte) (s : State) : Host.Outcome State Fault Refusal :=
  onChip (clientWrite cl 0x1003 0 [value] true) s

/-- MCTP Set Endpoint ID (R455, R480). -/
def execSetEndpointId (path : Path) (eid : Byte) (s : State) : Host.Outcome State Fault Refusal :=
  onChip (setEid path eid) s

/-- MCTP Get Endpoint ID (R455). -/
def execGetEndpointId (path : Path) (requester : Byte) (s : State) : Host.Outcome State Fault Refusal :=
  onChip (mctpControl path 2 requester fun k d => (d, [0, d.comm.eid[k], 0, 0])) s

/-- MCTP Get MCTP Version Support: the types of R455 are known. -/
def execGetMctpVersionSupport (path : Path) (requester : Byte) (typ : Byte) (s : State) : Host.Outcome State Fault Refusal :=
  onChip (mctpControl path 4 requester fun _ d =>
    (d, if typ = 0xFF ∨ typ = 0 ∨ typ = 1 ∨ typ = 5 ∨ typ = 0x7E then [0, 1] ++ wordBytes (Config.mctpVersion typ) else [0x80])) s

/-- MCTP Get Message Type Support: PLDM, SPDM, vendor-defined PCI (R455). -/
def execGetMessageTypeSupport (path : Path) (requester : Byte) (s : State) : Host.Outcome State Fault Refusal :=
  onChip (mctpControl path 5 requester fun _ d => (d, [0, 3, 1, 5, 0x7E])) s

/-- MCTP Get Vendor Defined Message Support: one set, Plovxia's PCI vendor ID (R455). -/
def execGetVendorDefinedMessageSupport (path : Path) (requester : Byte) (selector : Byte) (s : State) : Host.Outcome State Fault Refusal :=
  onChip (mctpControl path 6 requester fun _ d =>
    (d, if selector = 0 then [0, 0xFF, 0] ++ bytesBe 2 Config.pciVendor.toNat ++ [0, 0] else [2])) s

end Sys2Proof.Machine
end

