-- ==== Sys2Proof/Machine/Engines.lean ====
section
/-!
DEFINITION. Optical engines that fail (R23, R308, R315), and what a base die loses with its last mesh link (R100 to R102).
-/
namespace Sys2Proof.Machine

/-- The skerry beside an optical engine (R23): 0 to 5 for OF0 to OF5, 6 and 7 for OH0 and OH1. -/
def engineDie (k : Fin 8) : Fin 16 := if k.val < 6 then Fin.ofNat 16 (engSkerry k.val) else if k = 6 then 8 else 11

namespace Mach

/-- What an optical engine carries goes down: two straits, or a host port with its host and two CXL ports with their windows (R23, R170, R233, R308, R315). -/
def engineGone (k : Fin 8) (m : Mach) : Mach :=
  if k.val < 6 then
    (m.on fun c => (c.straitGone (Fin.ofNat 12 (2 * k.val))).straitGone (Fin.ofNat 12 (2 * k.val + 1))).reachChanged
  else
    let n := k.val - 6
    let m1 := (m.hostFail (Fin.ofNat 2 n)).on (Chip.portLost (Fin.ofNat 2 n))
    (m1.windowDown (Fin.ofNat 4 (2 * n)) 1).windowDown (Fin.ofNat 4 (2 * n + 1)) 1

/-- An optical engine fails: its summary is posted, and it works no more (R308, R513). Only replacement of the module mends it. -/
def engineFail (k : Fin 8) (m : Mach) : Mach :=
  if !m.chip.railsOn || bit m.chip.pwr.engFailed k.val then m
  else (m.on fun c => (c.onPwr fun p => { p with engFailed := setBit p.engFailed k.val true }).faultSummary (engineDie k) 7 k.val 1).engineGone k

/-- A decode sequencer fails with its base die: its step is gone, and the GENERATEs of its sequences complete with SKERRY_FAILED (R102, log 45). -/
def dsqFail (n : Fin 4) (m : Mach) : Mach :=
  let m1 := m.on fun c => c.onDsq n fun d => { d with failed := true, run := none }
  each (fins 128) (fun (s : Fin 128) (x : Mach) => if dsqOf s = n ∧ x.chip.seq[s].st = .generating then x.on (Chip.forceEnd s 0x15) else x) m1

/-- A collective engine fails with its base die: its operations fail with cause 2 (R102, R316, log 45). -/
def ceGone (e : Fin 6) (m : Mach) : Mach :=
  let m1 := m.on fun c => c.onEng e fun x => { x with failed := true, slots := x.slots.map fun s => { s with queued := none } }
  each (fins 16) (fun (k : Fin 16) (x : Mach) => x.ceAbort e k 2) m1

/-- A base die without a working link (R102): its skerry fails as in R88, and every block of R21 on it fails with what stands behind it: GDDR7 devices
(R164), a decode sequencer, a collective engine with the straits beside it, a host interface with its CXL ports. The ports
stay failed. -/
def isolate (s : Fin 16) (m : Mach) : Mach :=
  if !m.chip.mesh.isolated s then m
  else
    let m1 := each (fins 24) (fun (d : Fin 24) (x : Mach) => if devSkerry d.val = s then x.deviceRetire d 4 else x) (m.skerryFail s 3)
    let m2 := each (fins 4) (fun (n : Fin 4) (x : Mach) => if dsqSkerry n = s then x.dsqFail n else x) m1
    let m3 := each (fins 6) (fun (e : Fin 6) (x : Mach) => if engSk e = s then x.ceGone e else x) m2
    each (fins 8) (fun (k : Fin 8) (x : Mach) => if engineDie k = s then (x.engineGone k).on (Chip.onMesh fun y => { y with cut := setBit y.cut k.val true }) else x) m3

/-- A lane of a mesh link fails: a spare lane is switched in and the flits in flight, a free number, are sent again (R100, R104). On the third fault the link
goes down, and the routes are computed anew (R101); SPARED stays set then (DESIGN CHOICE, log 52: R104 does not say). -/
def meshFault (l : Fin 42) (m : Mach) : Mach :=
  let k := m.chip.mesh.link[l]
  let a : Fin 16 := Fin.ofNat 16 (linkEnds l).1
  let b : Fin 16 := Fin.ofNat 16 (linkEnds l).2
  if k.st ≠ 1 then m
  else if k.used < 2 then
    m.on fun c =>
      let c1 := c.onMesh fun x => { x with link := vput x.link l { k with used := k.used + 1, spared := true }, err := setBit x.err 1 true }
      (c1.meshRetry l (Config.meshFlits c.free)).draw.faultSummary a 3 l.val 1
  else
    let m1 := m.on fun c =>
      (c.onMesh fun x => { x with link := vput x.link l { k with st := 0 }, err := setBit x.err 2 true, reroute := true }).faultSummary a 3 l.val 2
    (m1.isolate a).isolate b

end Mach

def execMeshLaneFault (link : Fin 42) (s : State) : Host.Outcome State Fault Refusal := onMach (Mach.meshFault link) s
/-- A strait goes down: by itself, or with its engine (R308). -/
def execStraitDown (i : StraitLoss) (s : State) : Host.Outcome State Fault Refusal :=
  if i.engine then onMach (Mach.engineFail (Fin.ofNat 8 (i.strait.val / 2))) s else onLinkChange (Chip.straitGone i.strait) s
/-- A host fails: by itself, or cut off by its engine (R232, R315). -/
def execHostFailure (p : HostLoss) (s : State) : Host.Outcome State Fault Refusal :=
  onMach (if p.engine then Mach.engineFail (Fin.ofNat 8 (6 + p.port.val)) else Mach.hostFail p.port) s

end Sys2Proof.Machine
end

