-- ==== Sys2Proof/Machine/LoopCmds.lean ====
section
/-!
DEFINITION. The commands of the loop engine (R352 to R385).
-/
namespace Sys2Proof.Machine
open Chip

/-- A write of object 4020.01 (R353). -/
def execCreateSlot (cl : Client) (cls : Byte) (s : State) : Host.Outcome State Fault Refusal :=
  onChip (clientWrite cl 0x4020 1 [cls] true) s

/-- A write of object 4020.03 (R353). -/
def execDestroySlot (cl : Client) (handle : W32) (s : State) : Host.Outcome State Fault Refusal :=
  onChip (clientWrite cl 0x4020 3 (wordBytes handle) true) s

/-- Start, written to B+0.03 (R354). -/
def execSlotStart (cl : Client) (n : Fin 32) (s : State) : Host.Outcome State Fault Refusal :=
  onChip (clientWrite cl (slotBase n.val) 3 [1] true) s

/-- Stop, written to B+0.03 (R353). -/
def execSlotStop (cl : Client) (n : Fin 32) (s : State) : Host.Outcome State Fault Refusal :=
  onChip (clientWrite cl (slotBase n.val) 3 [2] true) s

/-- Freeze, written to B+0.03 (R353, R379). -/
def execSlotFreeze (cl : Client) (n : Fin 32) (s : State) : Host.Outcome State Fault Refusal :=
  onChip (clientWrite cl (slotBase n.val) 3 [3] true) s

/-- Release, written to B+0.03 (R353, R379). -/
def execSlotRelease (cl : Client) (n : Fin 32) (s : State) : Host.Outcome State Fault Refusal :=
  onChip (clientWrite cl (slotBase n.val) 3 [4] true) s

/-- A write of B+0.04 (R376). -/
def execClearFault (cl : Client) (n : Fin 32) (value : Byte) (s : State) : Host.Outcome State Fault Refusal :=
  onChip (clientWrite cl (slotBase n.val) 4 [value] true) s

/-- A write of 1 to B+7.08 (R382). -/
def execTestStartCommand (cl : Client) (n : Fin 32) (s : State) : Host.Outcome State Fault Refusal :=
  onChip (clientWrite cl (slotBase n.val + 7) 8 [1] true) s

/-- The scheduled sample of a test is reached (R382). -/
def execTestStart (n : Fin 32) (s : State) : Host.Outcome State Fault Refusal :=
  onChip (testBegin n) s

/-- A write of 2 to B+7.08 (R382). -/
def execTestAbort (cl : Client) (n : Fin 32) (s : State) : Host.Outcome State Fault Refusal :=
  onChip (clientWrite cl (slotBase n.val + 7) 8 [2] true) s

/-- Capture command 1 (R383). -/
def execCaptureArm (cl : Client) (s : State) : Host.Outcome State Fault Refusal :=
  onChip (clientWrite cl 0x4600 4 [1] true) s

/-- Capture command 2 (R383). -/
def execCaptureStart (cl : Client) (s : State) : Host.Outcome State Fault Refusal :=
  onChip (clientWrite cl 0x4600 4 [2] true) s

/-- Capture command 3 (R383). -/
def execCaptureStop (cl : Client) (s : State) : Host.Outcome State Fault Refusal :=
  onChip (clientWrite cl 0x4600 4 [3] true) s

/-- The hold time of an invalid dispatch input ends (R373). -/
def execDispatchHoldExpiry (s : State) : Host.Outcome State Fault Refusal :=
  onChip dispHoldEnd s

/-- The dispatch input has been valid for 1 s (R373). -/
def execDispatchRecovery (s : State) : Host.Outcome State Fault Refusal :=
  onChip dispRecover s

/-- No pulse edge for 25 ms (R371). -/
def execPulseInputStuck (s : State) : Host.Outcome State Fault Refusal :=
  onChip pulseStuck s

end Sys2Proof.Machine
end

