-- ==== Sys2Proof/Machine/PairCmds.lean ====
section
/-!
DEFINITION. The commands of the controllers, their frames and their pair (R318 to R351, R361).
-/
namespace Sys2Proof.Machine
open Chip

/-- The 100 µs base tick (R361). -/
def execControlTick (x : TickIn) (s : State) : Host.Outcome State Fault Refusal :=
  onChip (controlTick x) s

/-- A sample misses its 80 µs deadline (R363). -/
def execDeadlineMiss (mc : Mc) (slot : Fin 32) (s : State) : Host.Outcome State Fault Refusal :=
  onChip (deadlineMissed mc.ix slot) s

/-- The following-error timer reaches its time (R374). -/
def execFollowingErrorExpiry (mc : Mc) (slot : Fin 32) (s : State) : Host.Outcome State Fault Refusal :=
  onChip (followingError mc.ix slot) s

/-- A control frame reaches a receiver (R331). -/
def execControlFrame (r : Receiver) (port : Mc) (frame : Bytes) (s : State) : Host.Outcome State Fault Refusal :=
  onMach (Mach.controlFrame r port frame) s

/-- A status frame reaches a controller (R329). -/
def execStatusFrame (mc : Mc) (frame : Bytes) (s : State) : Host.Outcome State Fault Refusal :=
  onChip (statusFrame mc.ix frame) s

/-- A persistent disagreement starts a self-test round (R341). -/
def execSelfTestRound (s : State) : Host.Outcome State Fault Refusal :=
  onChip selfTestRound s

/-- A self-test round ends with its results (R342). -/
def execSelfTestEnd (failA : BitVec 7) (failB : BitVec 7) (s : State) : Host.Outcome State Fault Refusal :=
  onChip (selfTestEnd failA failB) s

/-- 60 s pass without a persistent disagreement (R342). -/
def execDivergenceAlarmClear (s : State) : Host.Outcome State Fault Refusal :=
  onChip alarmClear s

/-- MC-B takes the active role (R340). -/
def execTakeover (s : State) : Host.Outcome State Fault Refusal :=
  onChip takeover s

/-- A controller sees no status frame for three ticks and stops sending (R337). -/
def execSegmentFailed (mc : Mc) (s : State) : Host.Outcome State Fault Refusal :=
  onChip (segmentFailed mc.ix) s

/-- The pair link goes down (R325). -/
def execPairLinkDown (s : State) : Host.Outcome State Fault Refusal :=
  onChip linkDown s

/-- A silent controller restarts its core (R343). -/
def execSilentRestart (mc : Mc) (s : State) : Host.Outcome State Fault Refusal :=
  onChip (silentRestart mc.ix) s

/-- A controller core restarts (R349). -/
def execControllerRestart (mc : Mc) (cause : RestartCause) (s : State) : Host.Outcome State Fault Refusal :=
  onChip (restartWith mc.ix cause) s

/-- A rejoiner reaches its boundary and sends (R347). -/
def execRejoin (mc : Mc) (s : State) : Host.Outcome State Fault Refusal :=
  onChip (rejoinWith mc.ix) s

/-- A rejoiner that has not computed within tolerance in 10 s sends nothing (R347). -/
def execRejoinTimeout (mc : Mc) (s : State) : Host.Outcome State Fault Refusal :=
  onChip (rejoinLate mc.ix) s

/-- An idle core stops (R319). -/
def execCoreStop (mc : Mc) (s : State) : Host.Outcome State Fault Refusal :=
  onChip (coreStop mc.ix) s

/-- A wake request starts a stopped core (R320). -/
def execCoreWake (mc : Mc) (_src : WakeSource) (s : State) : Host.Outcome State Fault Refusal :=
  onChip (wake mc.ix) s

/-- A write of object 4801.03 (R343). -/
def execReleaseSilenceLock (cl : Client) (value : Byte) (s : State) : Host.Outcome State Fault Refusal :=
  onChip (clientWrite cl 0x4801 3 [value] true) s

/-- A message arrives on the pair link (R325). -/
def execPairLinkMessage (dst : Mc) (msg : PairMsg) (s : State) : Host.Outcome State Fault Refusal :=
  onChip (pairMsg dst.ix msg) s

/-- The standby's hourly image check (R348). -/
def execStandbyImageCheck (ok : Bool) (s : State) : Host.Outcome State Fault Refusal :=
  onChip (imageCheck ok) s

end Sys2Proof.Machine
end

