-- ==== Sys2Proof/Machine/TileCmds.lean ====
section
/-!
DEFINITION. The tile's commands: control, data movement, matrix, vector, special-function, conversion and synchronisation instructions but SIGNAL (R110 to
R138), their completions, HALT, RESUME, Nap (R92 to R94, R143), a reserved word (R110).
-/
namespace Sys2Proof.Machine

/-! ### Control (R115 to R117, R137) -/

namespace Mach

/-- The result of ALU for a function code; `none` for a reserved one (R115). -/
def aluFn (fn : Nat) (a b : W64) : Option W64 :=
  match fn with
  | 0 => some (a + b)
  | 1 => some (a - b)
  | 2 => some (a &&& b)
  | 3 => some (a ||| b)
  | 4 => some (a ^^^ b)
  | 5 => some (a <<< (b.toNat % 64))
  | 6 => some (a >>> (b.toNat % 64))
  | 7 => some (a.sshiftRight (b.toNat % 64))
  | 8 => some (a * b)
  | 9 => some (if a.toInt < b.toInt then a else b)
  | 10 => some (if a.toInt < b.toInt then b else a)
  | 11 => some (if a.toInt < b.toInt then 1 else 0)
  | 12 => some (if a.toNat < b.toNat then 1 else 0)
  | _ => none

/-- NOP (R117). -/
def doNop (g : Fin 1024) (m : Mach) : Mach :=
  match m.ready g (fun _ _ => noUse) (isOp 0 0) with
  | none => m
  | some _ => m.issued g id

/-- END (R137): the step in progress is over for this tile; the next start is taken, or the tile waits. -/
def doEnd (g : Fin 1024) (m : Mach) : Mach :=
  match m.ready g (fun _ _ => noUse) (isOp 0 1) with
  | none => m
  | some _ =>
    let m1 := m.endReached g
    if 1 ≤ cget m1.chip.tile[g] 0 then m1.takeStart g else m1.startWait g

/-- ALU (R115). -/
def doAlu (g : Fin 1024) (m : Mach) : Mach :=
  match m.ready g (fun w _ => ⟨[.x (iXa w), .x (iXb w)], [.x (iXd w)]⟩) (isOp 0 2) with
  | none => m
  | some w =>
    let x := m.chip.tile[g].x
    match aluFn (iXc w) (xget x (iXa w)) (xget x (iXb w) + (BitVec.ofNat 32 (fld w 0 32)).signExtend 64) with
    | none => m.illegal g w
    | some v => m.issued g fun t => { t with x := xset t.x (iXd w) v }

/-- LIH (R115). -/
def doLih (g : Fin 1024) (m : Mach) : Mach :=
  match m.ready g (fun w _ => ⟨[.x (iXd w)], [.x (iXd w)]⟩) (isOp 0 3) with
  | none => m
  | some w => m.issued g fun t =>
      { t with x := xset t.x (iXd w) (BitVec.ofNat 64 (fld w 0 32 * 2 ^ 32 + low32 (xget t.x (iXd w)))) }

/-- Whether a branch is taken (R116); for the loop, on the value after the decrement. `none` for a reserved condition. -/
def brTaken (cond : Nat) (a b : W64) (isX0 : Bool) : Option Bool :=
  match cond with
  | 0 => some true
  | 1 => some (a == b)
  | 2 => some (a != b)
  | 3 => some (decide (a.toInt < b.toInt))
  | 4 => some (decide (b.toInt ≤ a.toInt))
  | 5 => some (decide (a.toNat < b.toNat))
  | 6 => some (decide (b.toNat ≤ a.toNat))
  | 7 => some (!isX0 && a - 1 != 0)
  | _ => none

/-- BR (R116). A taken branch beyond the loaded words has no effect but its exception (R141). -/
def doBr (g : Fin 1024) (m : Mach) : Mach :=
  match m.ready g (fun w _ => ⟨[.x (iXa w), .x (iXb w)], if iXd w = 7 then [.x (iXa w)] else []⟩) (isOp 0 4) with
  | none => m
  | some w =>
    let x := m.chip.tile[g].x
    let loop := fun (t : Tile) => if iXd w = 7 then { t with x := xset t.x (iXa w) (xget t.x (iXa w) - 1) } else t
    match brTaken (iXd w) (xget x (iXa w)) (xget x (iXb w)) (iXa w == 0) with
    | none => m.illegal g w
    | some false => m.issued g loop
    | some true =>
      let target := fld w 0 13
      if (m.chip.progOf g).length ≤ target then m.refuse g 2 target
      else m.on fun c => c.onTile g fun t => { loop t with pc := target, ord := t.ord + 1 }

/-- FLAGS is in program order with the units: it is read and cleared once no earlier unit instruction is unfinished (R117, log 37). -/
def flagsBusy (w : W64) (t : Tile) : Bool := fld w 0 8 == 3 && (t.mat.isSome || t.vec.isSome || t.sfu.isSome)

/-- The content of a special register (R107) but CLOCKS. -/
def sprRead (g : Fin 1024) (t : Tile) (n : Nat) : Option Nat :=
  match n with
  | 0 => some g.val
  | 1 => some t.entry
  | 3 => some t.flags.toNat
  | 4 => some t.trap.toNat
  | 5 => some t.seed.toNat
  | 6 => some t.ctr.toNat
  | _ =>
    if 8 ≤ n ∧ n ≤ 11 then some ((t.step.toList.getD (n - 8) 0).toNat)
    else if 16 ≤ n ∧ n ≤ 31 then some (cget t (n - 16))
    else none

/-- A free advance of RUN_CLOCKS, which counts tile clocks the model has none of (log 3). -/
def freeClocks (c : Chip) : Nat := (Config.freeWord c.free).toNat + 2 ^ 32 * (Config.freeWord (c.free + 1)).toNat

/-- MFS (R107, R117). -/
def doMfs (g : Fin 1024) (m : Mach) : Mach :=
  match m.ready g (fun w _ => ⟨[], [.x (iXd w)]⟩) (isOp 0 5) with
  | none => m
  | some w =>
    let t := m.chip.tile[g]
    if flagsBusy w t then m
    else if fld w 0 8 = 2 then
      let v := (t.clocks + freeClocks m.chip) % 2 ^ 64
      (m.on fun c => c.draw.draw).issued g fun t => { t with clocks := v, x := xset t.x (iXd w) (BitVec.ofNat 64 v) }
    else match sprRead g t (fld w 0 8) with
      | none => m.illegal g w
      | some v => m.issued g fun t => { t with x := xset t.x (iXd w) (BitVec.ofNat 64 v) }

/-- MTS (R107, R117). -/
def doMts (g : Fin 1024) (m : Mach) : Mach :=
  match m.ready g (fun w _ => ⟨[.x (iXa w)], []⟩) (isOp 0 6) with
  | none => m
  | some w =>
    let v := xget m.chip.tile[g].x (iXa w)
    if flagsBusy w m.chip.tile[g] then m
    else match fld w 0 8 with
      | 3 => m.issued g fun t => { t with flags := t.flags &&& ~~~(v.setWidth 6) }
      | 4 => m.issued g fun t => { t with trap := v.setWidth 6 }
      | 5 => m.issued g fun t => { t with seed := v }
      | 6 => m.issued g fun t => { t with ctr := v }
      | _ => m.illegal g w

/-- FENCE (R121): waits for every transfer before it; a PUT counts until it is acknowledged. -/
def doFence (g : Fin 1024) (m : Mach) : Mach :=
  match m.ready g (fun _ _ => noUse) (isOp 1 2) with
  | none => m
  | some _ => if m.chip.tile[g].dm.isEmpty then m.issued g id else m

/-- WAIT (R136). -/
def doWait (g : Fin 1024) (m : Mach) : Mach :=
  match m.ready g (fun _ _ => noUse) (isOp 6 1) with
  | none => m
  | some w =>
    let have' := cget m.chip.tile[g] (iXc w)
    let want := fld w 0 32
    if want ≤ have' then m.issued g (fun t => cset (iXc w) (have' - want) t) else m.startWait g

/-- A word whose class or operation is reserved (R110). -/
def doReserved (g : Fin 1024) (m : Mach) : Mach :=
  match m.ready g (fun _ _ => noUse) isReserved with
  | none => m
  | some w => m.illegal g w

/-! ### HALT, RESUME, Nap (R92 to R94, R143) -/

/-- RESUME: only a halted tile continues (R142, R143). A tile in Nap continues once it is awake. -/
def doResume (g : Fin 1024) (m : Mach) : Mach :=
  m.on fun c => c.onTile g fun t => if t.exec = .halted then Chip.Tile.call c.time (Chip.Tile.ungate { t with exec := .running }) else t

/-- A Gated tile enters Nap, unless the delay its Gated period goes by is 0 (R92, R93, log 38). -/
def doNap (g : Fin 1024) (m : Mach) : Mach :=
  let t := m.chip.tile[g]
  if t.idle = 1 ∧ t.napHeld.getD m.chip.sk[skOf g].nap ≠ 0 then m.on fun c => c.onTile g fun t => { t with idle := 2, woken := none } else m

/-- Whether a tile in Nap waits behind another: tiles woken together leave in ascending logical order (R94), so one that a wake event has not reached later than
this one goes first. -/
def behind (m : Mach) (g : Fin 1024) : Bool :=
  let now := m.chip.tile[g].woken.getD m.chip.time
  (tilesOf (skOf g)).any fun h => decide (h < g) && decide (m.chip.tile[h].idle = 2) && (m.chip.tile[h].woken.any fun t => decide (t ≤ now))

/-- A tile leaves Gated or Nap; with nothing to issue it is Gated again. The supervisor announces the power step before the first of a group leaves
Nap (R94, log 38). -/
def doWake (g : Fin 1024) (m : Mach) : Mach :=
  let t := m.chip.tile[g]
  let s := skOf g
  if (t.idle ≠ 1 ∧ t.idle ≠ 2) ∨ (t.idle = 2 ∧ m.behind g = true) then m
  else
    let m1 := if t.idle = 2 ∧ !(m.chip.sk[s].posts.toList.any (fun l => l.any (fun p => p.2.2 == 2))) then
        m.on fun c => (c.announce s (sgn 16 (Config.freeWord c.free).toNat) ((Config.freeWord (c.free + 1)).toNat % 65536) 2).draw.draw
      else m
    match t.exec with
    | .running => m1.on fun c => c.onTile g fun t => { t with idle := 0, woken := none }
    | .waiting => (m1.on fun c => c.onTile g Chip.Tile.rest).retest g
    | _ => m1.on fun c => c.onTile g Chip.Tile.rest

end Mach


def execNop (g : Fin 1024) (s : State) : Host.Outcome State Fault Refusal := onMach (Mach.doNop g) s
def execEndStep (g : Fin 1024) (s : State) : Host.Outcome State Fault Refusal := onMach (Mach.doEnd g) s
def execAlu (g : Fin 1024) (s : State) : Host.Outcome State Fault Refusal := onMach (Mach.doAlu g) s
def execLih (g : Fin 1024) (s : State) : Host.Outcome State Fault Refusal := onMach (Mach.doLih g) s
def execBr (g : Fin 1024) (s : State) : Host.Outcome State Fault Refusal := onMach (Mach.doBr g) s
def execMfs (g : Fin 1024) (s : State) : Host.Outcome State Fault Refusal := onMach (Mach.doMfs g) s
def execMts (g : Fin 1024) (s : State) : Host.Outcome State Fault Refusal := onMach (Mach.doMts g) s
def execGet (g : Fin 1024) (s : State) : Host.Outcome State Fault Refusal := onMach (Mach.issueDm g true) s
def execPut (g : Fin 1024) (s : State) : Host.Outcome State Fault Refusal := onMach (Mach.issueDm g false) s
def execGetComplete (g : Fin 1024) (faults : List ReadFault) (s : State) : Host.Outcome State Fault Refusal := onMach (Mach.getDone g faults) s
def execPutAcknowledged (g : Fin 1024) (s : State) : Host.Outcome State Fault Refusal := onMach (Mach.putDone g) s
def execFence (g : Fin 1024) (s : State) : Host.Outcome State Fault Refusal := onMach (Mach.doFence g) s
def execMma (g : Fin 1024) (s : State) : Host.Outcome State Fault Refusal := onMach (Mach.issueUnit g 2 0) s
def execMst (g : Fin 1024) (s : State) : Host.Outcome State Fault Refusal := onMach (Mach.issueUnit g 2 1) s
def execMld (g : Fin 1024) (s : State) : Host.Outcome State Fault Refusal := onMach (Mach.issueUnit g 2 2) s
def execMz (g : Fin 1024) (s : State) : Host.Outcome State Fault Refusal := onMach (Mach.issueUnit g 2 3) s
def execVadd (g : Fin 1024) (s : State) : Host.Outcome State Fault Refusal := onMach (Mach.issueUnit g 3 0) s
def execVsub (g : Fin 1024) (s : State) : Host.Outcome State Fault Refusal := onMach (Mach.issueUnit g 3 1) s
def execVmul (g : Fin 1024) (s : State) : Host.Outcome State Fault Refusal := onMach (Mach.issueUnit g 3 2) s
def execVfma (g : Fin 1024) (s : State) : Host.Outcome State Fault Refusal := onMach (Mach.issueUnit g 3 3) s
def execVmax (g : Fin 1024) (s : State) : Host.Outcome State Fault Refusal := onMach (Mach.issueUnit g 3 4) s
def execVmin (g : Fin 1024) (s : State) : Host.Outcome State Fault Refusal := onMach (Mach.issueUnit g 3 5) s
def execVdiv (g : Fin 1024) (s : State) : Host.Outcome State Fault Refusal := onMach (Mach.issueUnit g 3 6) s
def execVabs (g : Fin 1024) (s : State) : Host.Outcome State Fault Refusal := onMach (Mach.issueUnit g 3 7) s
def execVrsum (g : Fin 1024) (s : State) : Host.Outcome State Fault Refusal := onMach (Mach.issueUnit g 3 8) s
def execVrmax (g : Fin 1024) (s : State) : Host.Outcome State Fault Refusal := onMach (Mach.issueUnit g 3 9) s
def execVcpy (g : Fin 1024) (s : State) : Host.Outcome State Fault Refusal := onMach (Mach.issueUnit g 3 10) s
def execSexp (g : Fin 1024) (s : State) : Host.Outcome State Fault Refusal := onMach (Mach.issueUnit g 4 0) s
def execSlog (g : Fin 1024) (s : State) : Host.Outcome State Fault Refusal := onMach (Mach.issueUnit g 4 1) s
def execSrsq (g : Fin 1024) (s : State) : Host.Outcome State Fault Refusal := onMach (Mach.issueUnit g 4 2) s
def execStanh (g : Fin 1024) (s : State) : Host.Outcome State Fault Refusal := onMach (Mach.issueUnit g 4 3) s
def execSsig (g : Fin 1024) (s : State) : Host.Outcome State Fault Refusal := onMach (Mach.issueUnit g 4 4) s
def execCvto (g : Fin 1024) (s : State) : Host.Outcome State Fault Refusal := onMach (Mach.issueUnit g 5 0) s
def execCvfr (g : Fin 1024) (s : State) : Host.Outcome State Fault Refusal := onMach (Mach.issueUnit g 5 1) s
def execWait (g : Fin 1024) (s : State) : Host.Outcome State Fault Refusal := onMach (Mach.doWait g) s
def execUnitComplete (g : Fin 1024) (u : Fin 3) (s : State) : Host.Outcome State Fault Refusal := onMach (Mach.finishUnit g u.val) s
def execReservedInstructionIssue (g : Fin 1024) (s : State) : Host.Outcome State Fault Refusal := onMach (Mach.doReserved g) s
def execHalt (g : Fin 1024) (s : State) : Host.Outcome State Fault Refusal := onMach (fun m => m.on (Chip.haltTile g)) s
def execResume (g : Fin 1024) (s : State) : Host.Outcome State Fault Refusal := onMach (Mach.doResume g) s
def execNapEntry (g : Fin 1024) (s : State) : Host.Outcome State Fault Refusal := onMach (Mach.doNap g) s
def execTileWake (g : Fin 1024) (s : State) : Host.Outcome State Fault Refusal := onMach (Mach.doWake g) s

end Sys2Proof.Machine
end

