-- ==== Sys2Proof/Machine/Regs.lean ====
section
/-!
DEFINITION. The registers that host ports reach through BAR0 and BAR4: where each lies, what it reads as, what a write of it does, and the rules of widths and
halves (R8 to R14, R103, R104, R144, R180 to R182, R187 to R189, R196, R206, R234, R271, R311).
-/
namespace Sys2Proof.Machine

/-- The registers, each under its own name. -/
inductive Reg where
  | hifId | hifModule | hifSelf | hifQueues | hifErr
  | hifPort (p : Fin 2) | hifErrCount (k : Fin 8)
  | hifAsq (p : Fin 2) | hifAcq (p : Fin 2) | hifAqCfg (p : Fin 2) | hifAsqTail (p : Fin 2) | hifAcqHead (p : Fin 2)
  | skrId (s : Fin 16) | skrStatus (s : Fin 16) | skrClock (s : Fin 16) | skrIdle (s : Fin 16) | skrFault (s : Fin 16) | skrFaultInfo (s : Fin 16)
  | skrRemap (s : Fin 16) | skrReset (s : Fin 16) | skrTj (s : Fin 16) (half : Fin 2) | skrPower (s : Fin 16) | skrEcc (s : Fin 16)
  | skrTileMap (s : Fin 16) (t : Fin 64) | skrPhys (s : Fin 16) (p : Fin 68)
  | tCtrl (g : Fin 1024) | tStatus (g : Fin 1024) | tFlags (g : Fin 1024) | tTrap (g : Fin 1024) | tCount (g : Fin 1024) | tExc (g : Fin 1024)
  | meshConfig | meshStatus | meshErr | meshLink (l : Fin 42)
  | gmcStatus | gmcErr | gmcUeAddr | gmcScrub | gmcRetire | gmcDev (d : Fin 24)
  | cxpPort (p : Fin 4) | cxpErr (p : Fin 4) | cxpWinBase (w : Fin 16) | cxpWinCfg (w : Fin 16) | cxpCfgAddr | cxpCfgData
  | dsqStatus (n : Fin 4) | dsqLoad (n : Fin 4) | dsqErr (n : Fin 4) | dsqWalk (n : Fin 4) | dsqPool (n : Fin 4) | dsqSample (n : Fin 4)
  | dsqCount (n : Fin 4) (k : Fin 4) | dsqSeq (n : Fin 4) (i : Fin 32)
  | strStatus | strDomain | strMode | strResend | strTwin | strPartner | strErr | strCount (k : Fin 8) | strLink (i : Fin 12)
  | strExportBase (w : Fin 16) | strExportLen (w : Fin 16) | strCeTable (e : Fin 6) | strCeStatus (e : Fin 6)
  | sqDoorbell (slot : BitVec 18) | cqDoorbell (slot : BitVec 18)
deriving DecidableEq, Repr

/-- Whether a register is 64 bits wide. -/
def Reg.wide : Reg → Bool
  | .hifAsq _ | .hifAcq _ | .skrTj _ _ | .tCount _ | .tExc _ | .meshLink _ | .gmcUeAddr | .gmcDev _ | .cxpWinBase _ | .cxpWinCfg _ | .cxpCfgAddr | .dsqWalk _
  | .dsqCount _ _ | .strCount _ | .strLink _ | .strExportBase _ | .strExportLen _ | .strCeTable _ => true
  | _ => false

/-- An array element: index of an offset in an array of `n` at `base` with a stride. -/
def arr (off base stride n : Nat) : Option Nat :=
  if base ≤ off ∧ off < base + stride * n ∧ (off - base) % stride = 0 then some ((off - base) / stride) else none

/-- The first register that an offset inside its block starts; a block's other offsets hold none. -/
def pick (l : List (Option Reg)) : Option Reg := l.findSome? id

/-- HIF_ (R234). -/
def hifAt (o : Nat) : Option Reg :=
  let one := fun (a : Nat) (r : Reg) => if o = a then some r else none
  pick ([one 0 .hifId, one 4 .hifModule, one 8 .hifSelf, one 0xC .hifQueues, one 0x10 .hifErr,
    (arr o 0x20 4 2).map (fun k => .hifPort (Fin.ofNat 2 k)), (arr o 0x100 4 8).map (fun k => .hifErrCount (Fin.ofNat 8 k))] ++
    [(0 : Fin 2), 1].flatMap (fun p =>
      let b := 0x200 + 0x40 * p.val
      [one b (.hifAsq p), one (b + 8) (.hifAcq p), one (b + 0x10) (.hifAqCfg p), one (b + 0x18) (.hifAsqTail p), one (b + 0x1C) (.hifAcqHead p)]))

/-- SKR_ of a skerry (R103, R144, R182). -/
def skrAt (s : Fin 16) (o : Nat) : Option Reg :=
  let one := fun (a : Nat) (r : Reg) => if o = a then some r else none
  let g := fun (k : Nat) => Fin.ofNat 1024 (64 * s.val + k)
  pick [one 0 (.skrId s), one 4 (.skrStatus s), one 8 (.skrClock s), one 0xC (.skrIdle s), one 0x10 (.skrFault s), one 0x14 (.skrFaultInfo s),
    one 0x18 (.skrRemap s), one 0x1C (.skrReset s), one 0x20 (.skrTj s 0), one 0x28 (.skrTj s 1), one 0x30 (.skrPower s), one 0x34 (.skrEcc s),
    (arr o 0x100 4 64).map (fun k => .skrTileMap s (Fin.ofNat 64 k)), (arr o 0x200 4 68).map (fun k => .skrPhys s (Fin.ofNat 68 k)),
    (arr o 0x1000 0x40 64).map (fun k => .tCtrl (g k)), (arr o 0x1004 0x40 64).map (fun k => .tStatus (g k)),
    (arr o 0x1008 0x40 64).map (fun k => .tFlags (g k)), (arr o 0x100C 0x40 64).map (fun k => .tTrap (g k)),
    (arr o 0x1010 0x40 64).map (fun k => .tCount (g k)), (arr o 0x1018 0x40 64).map (fun k => .tExc (g k))]

/-- GMC_ and CXP_ (R180, R181). -/
def gmcAt (o : Nat) : Option Reg :=
  let one := fun (a : Nat) (r : Reg) => if o = a then some r else none
  pick [one 0 .gmcStatus, one 4 .gmcErr, one 8 .gmcUeAddr, one 0x10 .gmcScrub, one 0x14 .gmcRetire,
    (arr o 0x100 8 24).map (fun k => .gmcDev (Fin.ofNat 24 k))]
def cxpAt (o : Nat) : Option Reg :=
  let one := fun (a : Nat) (r : Reg) => if o = a then some r else none
  pick [(arr o 0 4 4).map (fun k => .cxpPort (Fin.ofNat 4 k)), (arr o 0x10 4 4).map (fun k => .cxpErr (Fin.ofNat 4 k)),
    (arr o 0x100 16 16).map (fun k => .cxpWinBase (Fin.ofNat 16 k)), (arr o 0x108 16 16).map (fun k => .cxpWinCfg (Fin.ofNat 16 k)),
    one 0x200 .cxpCfgAddr, one 0x208 .cxpCfgData]

/-- DSQ_ of a sequencer (R271). -/
def dsqAt (n : Fin 4) (o : Nat) : Option Reg :=
  let one := fun (a : Nat) (r : Reg) => if o = a then some r else none
  pick [one 0 (.dsqStatus n), one 4 (.dsqLoad n), one 8 (.dsqErr n), one 0x10 (.dsqWalk n), one 0x18 (.dsqPool n), one 0x1C (.dsqSample n),
    (arr o 0x20 8 4).map (fun k => .dsqCount n (Fin.ofNat 4 k)), (arr o 0x100 4 32).map (fun k => .dsqSeq n (Fin.ofNat 32 k))]

/-- STR_ (R311). -/
def strAt (o : Nat) : Option Reg :=
  let one := fun (a : Nat) (r : Reg) => if o = a then some r else none
  pick [one 0 .strStatus, one 4 .strDomain, one 8 .strMode, one 0xC .strResend, one 0x10 .strTwin, one 0x14 .strPartner, one 0x18 .strErr,
    (arr o 0x20 8 8).map (fun k => .strCount (Fin.ofNat 8 k)), (arr o 0x100 8 12).map (fun k => .strLink (Fin.ofNat 12 k)),
    (arr o 0x200 16 16).map (fun k => .strExportBase (Fin.ofNat 16 k)), (arr o 0x208 16 16).map (fun k => .strExportLen (Fin.ofNat 16 k)),
    (arr o 0x300 8 6).map (fun k => .strCeTable (Fin.ofNat 6 k)), (arr o 0x340 4 6).map (fun k => .strCeStatus (Fin.ofNat 6 k))]

/-- MESH_ (R104). -/
def meshAt (o : Nat) : Option Reg :=
  let one := fun (a : Nat) (r : Reg) => if o = a then some r else none
  pick [one 0 .meshConfig, one 4 .meshStatus, one 8 .meshErr, (arr o 0x100 8 42).map (fun k => .meshLink (Fin.ofNat 42 k))]

/-- The register that starts at a BAR0 offset (R187, R188). -/
def regAt (off : Nat) : Option Reg :=
  if off < 0x100000 then hifAt off
  else if off < 0x200000 then skrAt (Fin.ofNat 16 ((off - 0x100000) / 0x10000)) (off % 0x10000)
  else if off < 0x300000 then meshAt (off - 0x200000)
  else if off < 0x380000 then gmcAt (off - 0x300000)
  else if off < 0x400000 then cxpAt (off - 0x380000)
  else if off < 0x440000 then dsqAt (Fin.ofNat 4 ((off - 0x400000) / 0x10000)) (off % 0x10000)
  else if 0x500000 ≤ off ∧ off < 0x600000 then strAt (off - 0x500000)
  else if 0x10000000 ≤ off ∧ off < 0x10200000 then
    let slot := BitVec.ofNat 18 ((off - 0x10000000) / 8)
    if off % 8 = 0 then some (.sqDoorbell slot) else if off % 8 = 4 then some (.cqDoorbell slot) else none
  else none

/-- The listed ranges of the register region (R188). -/
def listed (off : Nat) : Bool :=
  decide (off < 0x600000) || (decide (0x8000000 ≤ off) && decide (off < 0xC000000)) || (decide (0x10000000 ≤ off) && decide (off < 0x10200000)) ||
    (decide (0x40000000 ≤ off) && decide (off < 0x50000000))

namespace Chip

/-- Fields put together: value, width pairs from bit 0 upwards. -/
def pack (l : List (Nat × Nat)) : Nat := l.foldr (fun x a => x.1 % 2 ^ x.2 + 2 ^ x.2 * a) 0

/-- What a register reads as through port `hp` (R8, R10: reserved and WO fields read zero). TJ_MAX of a highest reading below 0 °C is its byte in two's complement
(DESIGN CHOICE, log 52: R103 gives the unsigned field no such value). -/
def regRead (hp : Fin 2) (c : Chip) : Reg → Nat
  | .hifId => 0xB0014016
  | .hifModule => pack [(c.mod.st.code, 4), (0, 4), (b2n (c.mod.permit == 2), 1), (0, 7), (c.str.modId, 16)]
  | .hifSelf => hp.val
  | .hifQueues => 0x40000 - c.hif.queues.length
  | .hifErr => c.hif.err.toNat
  | .hifPort p => let x := c.hif.port[p]; pack [(x.st, 3), (0, 8), (x.width, 5), (x.speed, 4)]
  | .hifErrCount k => c.hif.cnt[k]
  | .hifAsq p => c.hif.port[p].aq.asq.toNat
  | .hifAcq p => c.hif.port[p].aq.acq.toNat
  | .hifAqCfg p => let a := c.hif.port[p].aq; pack [(a.vector, 11), (0, 5), (a.sqLog, 4), (a.cqLog, 4), (0, 6), (b2n a.ready, 1), (b2n a.enable, 1)]
  | .hifAsqTail _ | .hifAcqHead _ | .sqDoorbell _ | .cqDoorbell _ | .tCtrl _ | .skrReset _ | .gmcRetire => 0
  | .skrId s =>
    let isIn := fun (l : List Nat) => b2n (l.contains s.val)
    pack [(s.val % 4, 2), (s.val / 4, 2), (s.val, 4), (0, 4), (isIn ((List.range 24).map (fun d => (devSkerry d).val)), 1),
      (isIn ((fins 4).map (fun n => (dsqSkerry n).val)), 1), (isIn ((List.range 6).map engSkerry), 1), (isIn ((List.range 4).map (fun p => (cxlSkerry p).val)), 1),
      (0, 8), (0xB0, 8)]
  | .skrStatus s =>
    let k := c.sk[s]
    let hot := (k.tj.toList.map (fun (w : W16) => sgn 16 w.toNat)).foldl max (-32768)
    let ceil := ceilCode k
    pack [(match k.st with | .off => 0 | .resetting => 1 | .ready => 2 | .failed => 3, 4), (0, 3), (b2n (k.st != .off && decide (ceil < k.req) && k.applied == ceil), 1),
      (if hot = -32768 then 0 else unsgn 8 (hot / 16), 8), (b2n k.clamp, 1), (b2n k.loading.isSome, 1), (sparesFree k, 2)]
  | .skrClock s => let k := c.sk[s]; pack [(k.req, 8), (if k.st = .off then 0 else clockLimit k, 8), (k.applied, 8)]
  | .skrIdle s => c.sk[s].nap.toNat
  | .skrFault s => c.sk[s].fault.toNat
  | .skrFaultInfo s => let k := c.sk[s]; pack [(k.fiLog, 8), (k.fiPhys, 8), (k.fiCount, 8), (k.fiCause, 8)]
  | .skrRemap s => let k := c.sk[s]; pack [(k.remapTile, 6), (0, 25), (b2n k.auto, 1)]
  | .skrTj s half => let t := c.sk[s].tj.toList; pack ((List.range 4).map (fun j => ((t.getD (4 * half.val + j) 0).toNat, 16)))
  | .skrPower s => let k := c.sk[s]; pack [(k.power, 16), (k.ceil, 16)]
  | .skrEcc s => let e := c.ecc[s]; pack [(b2n e.spareLow, 1), (0, 7), (e.repairs, 8), (e.ceCount, 16)]
  | .skrTileMap s t => let e := c.sk[s].map[t]; pack [(e.phys, 7), (0, 23), (b2n e.spare, 1), (b2n e.valid, 1)]
  | .skrPhys s p => let e := c.sk[s].phys[p]; pack [(if e.1 = 5 then 2 else e.1, 3), (0, 5), (e.2, 8)]
  | .tStatus g =>
    let t := c.tile[g]
    pack [(match t.exec with | .idle => 0 | .running => 1 | .waiting => 2 | .halted => 3 | .exception => 4 | .faulted => 5, 4), (0, 4), (t.idle, 4), (0, 4), (t.pc, 13)]
  | .tFlags g => c.tile[g].flags.toNat
  | .tTrap g => c.tile[g].trap.toNat
  | .tCount g => c.tile[g].clocks % 2 ^ 64
  | .tExc g => let t := c.tile[g]; pack [(t.excCode, 8), (t.excCount, 8), (t.excPc, 13), (0, 3), (t.excDetail, 32)]
  | .meshConfig => 0x2A14
  | .meshStatus =>
    let l := c.mesh.link.toList
    let down := if c.sk[(0 : Fin 16)].st = .off then 0 else (l.filter (fun x => x.st == 0)).length
    pack [(b2n (decide (0 < down) || l.any (fun x => x.spared)), 1), (b2n c.mesh.reroute, 1), (0, 6), (down, 8)]
  | .meshErr => c.mesh.err.toNat
  | .meshLink l =>
    let x := c.mesh.link[l]
    pack [(x.st, 2), (if l.val < 12 then 0 else if l.val < 24 then 1 else if l.val < 33 then 2 else 3, 2), (b2n x.spared, 1), (0, 3),
      ((Mach.linkEnds l).1, 4), ((Mach.linkEnds l).2, 4), (0, 16), (x.retries, 32)]
  | .gmcStatus =>
    pack (c.gmc.dev.toList.map (fun d => (b2n (d.st == 3), 1)) ++ [(0, 5), (b2n c.gmc.copyGap, 1), (b2n c.gmc.mirrorGap, 1), (b2n c.gmc.trainDone, 1)])
  | .gmcErr => c.gmc.err.toNat
  | .gmcUeAddr => pack [(c.gmc.ueAddr, 48), (c.gmc.ueDev, 5), (0, 10), (b2n c.gmc.ueValid, 1)]
  | .gmcScrub => pack [(c.gmc.scrubHours, 16), (0, 15), (b2n c.gmc.scrubOn, 1)]
  | .gmcDev d => let g := c.gmc.dev[d]; pack [(g.st, 4), (g.cause, 4), (g.wrMargin, 8), (g.rdMargin, 8), (g.retries, 16), (g.ue, 8), (g.ce, 16)]
  | .cxpPort p => let x := c.cxl.port[p]; pack [(x.st, 3), (x.width, 5), (x.speed, 4), (b2n x.flit, 1), (b2n x.lopt, 1), (0, 10), (x.devices, 8)]
  | .cxpErr p => c.cxl.port[p].err.toNat
  | .cxpWinBase w => let x := c.cxl.win[w]; pack [(0, 30), (x.base / gib, 14), (0, 17), (x.wstate, 2), (b2n x.enable, 1)]
  | .cxpWinCfg w => let x := c.cxl.win[w]; pack [(x.ports, 8), (x.ways, 2), (0, 2), (x.gran, 4), (0, 16), (x.size, 15)]
  | .cxpCfgAddr => let x := c.cxl; pack [(0, 2), (x.cfgDword, 10), (0, 28), (x.cfgBdf, 16), (x.cfgPort, 2), (0, 2), (b2n x.cfgErr, 1), (b2n x.cfgBusy, 1), (b2n x.cfgWrite, 1)]
  | .cxpCfgData => c.cxl.cfgData.toNat
  | .dsqStatus n =>
    let mine := (fins 32).map (fun (i : Fin 32) => c.seq[(⟨32 * n.val + i.val, by omega⟩ : Fin 128)].st)
    let count := fun (st : SeqSt) => (mine.filter (fun x => x == st)).length
    pack [(count .free, 6), (count .generating, 6), (count .broken, 6)]
  | .dsqLoad n => let d := c.dsq[n]; pack [(d.lead, 16), (0, 15), (b2n d.loadEn, 1)]
  | .dsqErr n => c.dsq[n].err.toNat
  | .dsqWalk n => let d := c.dsq[n]; pack [(d.wiPos, 20), (0, 12), (d.wiSlot, 8), (d.wiCode, 8), (0, 15), (b2n d.wiValid, 1)]
  | .dsqPool n => let d := c.dsq[n]; pack [(d.sramFrames.length + d.gddrFrames.length, 17), (d.leaves.length, 13)]
  | .dsqSample n => let d := c.dsq[n]; pack [(d.lastNs, 16), (d.maxNs, 16)]
  | .dsqCount n k => c.dsq[n].count[k] % 2 ^ 64
  | .dsqSeq n i =>
    let q := c.seq[(⟨32 * n.val + i.val, by omega⟩ : Fin 128)]
    pack [(match q.st with | .free => 0 | .idle => 1 | .generating => 2 | .broken => 3, 3), (0, 5), (q.plan, 4), (0, 6), (q.gen, 14)]
  | .strStatus =>
    pack [(b2n (c.str.modId != 0), 1), (b2n c.str.discDone, 1), (0, 6), ((c.str.link.toList.filter (fun l => l.st == 3)).length, 4), (0, 4), (c.str.modId, 16)]
  | .strDomain => c.str.domain
  | .strMode => let s := c.str; pack [(s.mTile, 2), (s.mSmall, 2), (s.mShadow, 2), (0, 10), (s.smallMax, 8)]
  | .strResend => pack [(c.str.timeout, 16), (c.str.retries, 4)]
  | .strTwin => c.str.window
  | .strPartner => pack [(c.str.partner, 16), (0, 15), (b2n c.str.partnerEn, 1)]
  | .strErr => c.str.err.toNat
  | .strCount k => c.str.count[k] % 2 ^ 64
  | .strLink i =>
    let l := c.str.link[i]
    pack [(l.st, 3), (0, 5), (popCount l.lanes, 4), (l.plane, 4), (l.replays, 8), (l.lanes.toNat, 8), (l.port, 8), (l.switch, 24)]
  | .strExportBase w => let x := c.str.exp[w]; pack [(0, 16), (x.base / 65536, 32), (0, 13), (b2n x.wr, 1), (b2n x.rd, 1), (b2n x.enable, 1)]
  | .strExportLen w => c.str.exp[w].len / 65536
  | .strCeTable e => let x := c.str.ce[e]; pack [(0, 10), (x.table / 1024, 38), (0, 15), (b2n x.valid, 1)]
  | .strCeStatus e =>
    let x := c.str.ce[e]
    pack ([(x.lastCause, 4), (x.lastSlot, 4), (x.fails, 8)] ++ x.slots.toList.map (fun s => (b2n s.run.isSome, 1)))

end Chip

/-- The bits of a W1C field that a write leaves (R10). -/
def w1c {n : Nat} (old : BitVec n) (v : Nat) : BitVec n := old &&& ~~~ BitVec.ofNat n v
/-- A field that keeps its value when the written one is a reserved encoding (R9). -/
def keepIf (ok : Bool) (new old : Nat) : Nat := if ok then new else old

namespace Mach

/-- A write of a register through port `hp` (R9, R10, R14): `v` holds the written bits, zero elsewhere, and `full` what the register holds with them in
place. Registers that have commands of their own do what those commands do. -/
def regWrite (hp : Fin 2) (r : Reg) (v full : Nat) (m : Mach) : Mach :=
  let w32 := BitVec.ofNat 32 v
  let w64 := BitVec.ofNat 64 full
  let f := fun (lo len : Nat) => nfld full lo len
  match r with
  | .hifErr => m.on fun c => c.onHif fun h => { h with err := w1c h.err v }
  | .hifAsq p => m.on (Chip.perPort hp p fun c => c.onPort p fun x => if x.aq.enable then x else { x with aq := { x.aq with asq := BitVec.ofNat 64 (f 12 52 * 4096) } })
  | .hifAcq p => m.on (Chip.perPort hp p fun c => c.onPort p fun x => if x.aq.enable then x else { x with aq := { x.aq with acq := BitVec.ofNat 64 (f 12 52 * 4096) } })
  | .hifAqCfg p => m.on (Chip.perPort hp p (Chip.aqCfg p w32))
  | .hifAsqTail p => m.on (Chip.doorbell hp (.admin p) true w32)
  | .hifAcqHead p => m.on (Chip.doorbell hp (.admin p) false w32)
  | .sqDoorbell s => m.on (Chip.doorbell hp (.io s) true w32)
  | .cqDoorbell s => m.on (Chip.doorbell hp (.io s) false w32)
  | .skrClock s => m.on fun c => (c.onSk s fun k => { k with req := keepIf (8 ≤ f 0 8 && f 0 8 ≤ 38) (f 0 8) k.req }).reclock s
  | .skrIdle s => m.on fun c =>
      -- a Gated period that runs goes by the delay it began with (R93)
      each (tilesOf s) (fun (g : Fin 1024) (d : Chip) => d.onTile g fun t =>
        if t.idle = 1 ∧ t.napHeld.isNone then { t with napHeld := some c.sk[s].nap } else t) (c.onSk s fun k => { k with nap := BitVec.ofNat 16 v })
  | .skrFault s => m.on fun c => c.onSk s fun k => { k with fault := w1c k.fault v }
  | .skrRemap s => m.remapCtrl s w32
  | .skrReset s => m.skrReset s w32
  | .skrEcc s => m.on fun c => c.onEcc s fun e => { e with spareLow := e.spareLow && !nbit v 0 }
  | .tCtrl g => if nbit v 1 then m.on (Chip.haltTile g) else if nbit v 0 then m.doResume g else m
  | .tFlags g => m.on fun c => c.onTile g fun t => { t with flags := w1c t.flags v }
  | .tTrap g => m.on fun c => c.onTile g fun t => { t with trap := BitVec.ofNat 6 v }
  | .meshErr => m.on fun c => { c with mesh := { c.mesh with err := w1c c.mesh.err v } }
  | .gmcErr => m.on fun c => c.onGmc fun g => { g with err := w1c g.err v }
  | .gmcUeAddr => m.on fun c => c.onGmc fun g => { g with ueValid := g.ueValid && !nbit v 63 }
  | .gmcScrub => m.on fun c => c.onGmc fun g => { g with scrubOn := nbit v 31, scrubHours := keepIf (1 ≤ f 0 16 && f 0 16 ≤ 168) (f 0 16) g.scrubHours }
  | .gmcRetire => m.retireCtrl w32
  | .cxpErr p => m.on fun c => { c with cxl := { c.cxl with port := upd c.cxl.port p fun x => { x with err := w1c x.err v } } }
  | .cxpWinBase w => m.on (Chip.winBase w w64)
  | .cxpWinCfg w => m.on fun c => { c with cxl := { c.cxl with win := upd c.cxl.win w fun x =>
      if x.enable then x
      else { x with size := keepIf (1 ≤ f 32 15 && f 32 15 ≤ 16384) (f 32 15) x.size, gran := keepIf (f 12 4 ≤ 6) (f 12 4) x.gran,
                    ways := keepIf (f 8 2 ≤ 2) (f 8 2) x.ways, ports := f 0 8 } } }
  | .cxpCfgAddr => m.on (Chip.cfgAddr w64)
  | .cxpCfgData => m.on fun c => { c with cxl := { c.cxl with cfgData := w32 } }
  | .dsqLoad n => m.on fun c => c.onDsq n fun d => { d with loadEn := nbit v 31, lead := keepIf (f 0 16 ≤ 10000) (f 0 16) d.lead }
  | .dsqErr n => m.on fun c => c.onDsq n fun d => { d with err := w1c d.err v }
  | .dsqWalk n => m.on fun c => c.onDsq n fun d => { d with wiValid := d.wiValid && !nbit v 63 }
  | .strMode => m.on fun c => c.onStr fun s =>
      { s with smallMax := keepIf (f 16 8 ≤ 16) (f 16 8) s.smallMax, mShadow := keepIf (f 4 2 ≤ 2) (f 4 2) s.mShadow,
               mSmall := keepIf (f 2 2 ≤ 2) (f 2 2) s.mSmall, mTile := keepIf (f 0 2 ≤ 2) (f 0 2) s.mTile }
  | .strResend => m.on fun c => c.onStr fun s =>
      { s with retries := keepIf (f 16 4 ≤ 7) (f 16 4) s.retries, timeout := keepIf (30 ≤ f 0 16 && f 0 16 ≤ 1000) (f 0 16) s.timeout }
  | .strTwin => m.on fun c => c.onStr fun s => { s with window := keepIf (40 ≤ f 0 16 && f 0 16 ≤ 1000) (f 0 16) s.window }
  | .strPartner => m.partnerReg w32
  | .strErr => m.on fun c => c.onStr fun s => { s with err := w1c s.err v }
  | .strExportBase w => m.exportBase w w64
  | .strExportLen w => m.on fun c => c.onStr fun s => { s with exp := upd s.exp w fun x => if x.enable then x else { x with len := f 0 32 * 65536 } }
  | .strCeTable e => m.ceTable e w64
  | .hifId | .hifModule | .hifSelf | .hifQueues | .hifPort _ | .hifErrCount _ | .skrId _ | .skrStatus _ | .skrFaultInfo _ | .skrTj _ _ | .skrPower _
  | .skrTileMap _ _ | .skrPhys _ _ | .tStatus _ | .tCount _ | .tExc _ | .meshConfig | .meshStatus | .meshLink _ | .gmcStatus | .gmcDev _ | .cxpPort _ | .dsqStatus _
  | .dsqPool _ | .dsqSample _ | .dsqCount _ _ | .dsqSeq _ _ | .strStatus | .strDomain | .strCount _ | .strLink _ | .strCeStatus _ => m

/-- An aligned 32-bit write: a 32-bit register, or one half of a 64-bit one (R13). -/
def write32 (hp : Fin 2) (off v : Nat) (m : Mach) : Mach :=
  let w := v % 2 ^ 32
  let half := fun (r : Reg) (lo : Nat) =>
    let old := m.chip.regRead hp r
    m.regWrite hp r (w * 2 ^ lo) (old - nfld old lo 32 * 2 ^ lo + w * 2 ^ lo)
  match regAt off with
  | some r => half r 0
  | none =>
    if 4 ≤ off then
      match regAt (off - 4) with
      | some r => if r.wide then half r 32 else m
      | none => m
    else m

/-- An aligned 64-bit write: a whole 64-bit register, or two 32-bit accesses, the lower first (R13). -/
def write64 (hp : Fin 2) (off v : Nat) (m : Mach) : Mach :=
  let two := (m.write32 hp off v).write32 hp (off + 4) (v / 2 ^ 32)
  match regAt off with
  | some r => if r.wide then m.regWrite hp r v v else two
  | none => two

/-- A write that meets the host ports dark: while the package rails are sequencing down, one of SKR_RESET is refused and counted (R438). -/
def darkWrite (off size v : Nat) (m : Mach) : Mach :=
  if m.chip.railsOn && m.chip.pwr.darkened && Chip.aligned off size then
    match regAt off with
    | some (.skrReset s) => m.skrReset s (BitVec.ofNat 32 v)
    | _ => m
  else m

/-- A write through BAR0 (R13, R168, R187 to R189): narrow and unaligned ones are counted, as are unmapped offsets; apertures and the staging window
behave as their rules say. A narrow or unaligned access of an unmapped offset counts as unmapped alone: R13 and R189 both cover it and the spec orders neither
before the other (DESIGN CHOICE, log 39). -/
def bar0Write (hp : Fin 2) (off size v : Nat) (m : Mach) : Mach :=
  if !m.chip.portUp hp then m.darkWrite off size v
  else if !listed off then m.on Chip.unmapped
  else if !Chip.aligned off size then m.on Chip.narrow
  else if 0x8000000 ≤ off ∧ off < 0xC000000 then m.on (Chip.aperture hp (off - 0x8000000) size (some (bytesLe size v)) [])
  else if 0x40000000 ≤ off then
    let a := stagingBase + (off - 0x40000000)
    if m.chip.rangeHeld a size || m.chip.mapped a then m.store .bar (some (portSkerry hp).val) a (bytesLe size v) else m.on Chip.unmapped
  else if size = 8 then m.write64 hp off v
  else m.write32 hp off v

/-- The aligned 32 bits at an offset (R8, R10, R13): a register, or one half of a 64-bit one; zero where a block has none there. -/
def read32 (hp : Fin 2) (off : Nat) (c : Chip) : Nat :=
  match regAt off with
  | some r => nfld (c.regRead hp r) 0 32
  | none =>
    if 4 ≤ off then
      match regAt (off - 4) with
      | some r => if r.wide then nfld (c.regRead hp r) 32 32 else 0
      | none => 0
    else 0

/-- A read through BAR0 (R13, R189): narrow and unaligned ones are counted and return zero, unmapped ones are counted and return all ones (both at once: log 39);
a device aperture is read by its own row. -/
def bar0Read (hp : Fin 2) (off size : Nat) (m : Mach) : Mach :=
  let give := fun (b : Bytes) (y : Mach) => y.on (Chip.send (.barRead hp b false))
  if !m.chip.portUp hp then m
  else if !listed off then give (List.replicate size 0xFF) (m.on Chip.unmapped)
  else if !Chip.aligned off size then give (List.replicate size 0) (m.on Chip.narrow)
  else if 0x8000000 ≤ off ∧ off < 0xC000000 then m
  else if 0x40000000 ≤ off then m.barRead hp (stagingBase + (off - 0x40000000)) size []
  else give (bytesLe 4 (read32 hp off m.chip) ++ if size = 8 then bytesLe 4 (read32 hp (off + 4) m.chip) else []) m

end Mach

namespace Chip

/-- A read through BAR4 (R187, R206): the MSI-X table, the pending bits from 0x8000 on, zero elsewhere and for narrow or unaligned reads. -/
def bar4Read (hp : Fin 2) (off size : Nat) (c : Chip) : Chip :=
  let x := c.hif.port[hp]
  let byte := fun (a : Nat) =>
    if a < 0x8000 then BitVec.ofNat 8 (fld (spGet (BitVec.ofNat 128 (2 ^ 96)) (a / 16) x.msix) (8 * (a % 16)) 8)
    else if a < 0x8100 then BitVec.ofNat 8 (pack ((List.range 8).map fun k => (b2n (x.pba.contains (8 * (a - 0x8000) + k)), 1))) else 0
  if !c.portUp hp then c
  else c.send (.barRead hp (if aligned off size then (List.range size).map fun k => byte (off + k) else List.replicate size 0) false)

/-- A write of the MSI-X table through BAR4 (R187, R206): an entry is 16 bytes; unmasking a pending vector sends it. The pending-bit array and other
offsets take no write. -/
def bar4Write (hp : Fin 2) (off size v : Nat) (c : Chip) : Chip :=
  if !c.portUp hp || !aligned off size || decide (0x8000 ≤ off) then c
  else
    let k := off / 16
    let dflt := BitVec.ofNat 128 (2 ^ 96)
    let old := spGet dflt k c.hif.port[hp].msix
    let bytes := wordBytes old
    let new := numLe (bytes.take (off % 16) ++ bytesLe size v ++ bytes.drop (off % 16 + size))
    let ent := BitVec.ofNat 128 (nfld new 0 97)
    let c1 := c.onPort hp fun x => { x with msix := spSet dflt k ent x.msix }
    if !bit ent 96 && c1.hif.port[hp].fn.msixOn && c1.hif.port[hp].pba.contains k then
      (c1.onPort hp fun x => { x with pba := x.pba.filter (fun i => i != k) }).msiX hp k
    else c1

end Chip

/-- An access of a register through a port's BAR0 or BAR4 (R13, R187, log 39): a write of the value given, or without one the read that R13 governs with it. -/
def execRegisterWrite (hp : Fin 2) (bar4 : Bool) (offset : W32) (size : Nat) (value : Option W64) (s : State) : Host.Outcome State Fault Refusal :=
  onMach (fun m => match value with
    | some v => if bar4 then m.on (Chip.bar4Write hp offset.toNat size v.toNat) else m.bar0Write hp offset.toNat size v.toNat
    | none => if bar4 then m.on (Chip.bar4Read hp offset.toNat size) else m.bar0Read hp offset.toNat size) s

end Sys2Proof.Machine
end

