-- ==== Sys2Proof/Machine/SecurityCmds.lean ====
section
/-!
DEFINITION. The commands of the logbook, roles, return state, attestation and firmware update (R466 to R493).
-/
namespace Sys2Proof.Machine
open Chip

/-- A waiting event is written, or the memory fails (R472, R474). -/
def execLogRecordWrite (mc : Mc) (fail : Option (Fin 5)) (s : State) : Host.Outcome State Fault Refusal :=
  onChip (logWrite mc.ix fail) s

/-- A last-gasp request reaches the actuator driver (R474). -/
def execLastGaspRequest (mc : Mc) (serial : W32) (msg : Bytes) (s : State) : Host.Outcome State Fault Refusal :=
  onChip (gaspRequest mc.ix serial msg) s

/-- A read of object 5020.01 (R479). -/
def execRoleChallenge (cl : Client) (s : State) : Host.Outcome State Fault Refusal :=
  onChip (clientRead cl 0x5020 1) s

/-- A write of object 5020.02 (R479). -/
def execRoleProof (cl : Client) (proof : Bytes) (s : State) : Host.Outcome State Fault Refusal :=
  onChip (clientWrite cl 0x5020 2 proof true) s

/-- A write of object 5020.04 (R480). -/
def execEndRole (cl : Client) (value : Byte) (s : State) : Host.Outcome State Fault Refusal :=
  onChip (clientWrite cl 0x5020 4 [value] true) s

/-- 900 s without an access of the client (R480). -/
def execRoleInactivityTimeout (cl : Client) (s : State) : Host.Outcome State Fault Refusal :=
  onChip (roleIdle cl) s

/-- A write of object 5021.01 (R481). -/
def execInstallerCredential (cl : Client) (key : Bytes) (s : State) : Host.Outcome State Fault Refusal :=
  onChip (clientWrite cl 0x5021 1 key true) s

/-- A write of object 5011 (R476). -/
def execPlanKey (cl : Client) (k : Fin 8) (key : Bytes) (s : State) : Host.Outcome State Fault Refusal :=
  onChip (clientWrite cl 0x5011 (k.val + 1) key true) s

/-- The host interface receives policy and keys (R483). -/
def execPlanPolicyUpdate (s : State) : Host.Outcome State Fault Refusal :=
  onChip (fun c => if c.railsOn && c.served then c.sendPolicy else c) s

/-- A write of object 5040.01 (R468). -/
def execCalendarTimeSet (cl : Client) (value : W64) (s : State) : Host.Outcome State Fault Refusal :=
  onChip (clientWrite cl 0x5040 1 (wordBytes value) true) s

/-- A write of object 5030.01 (R489). -/
def execReturnStateRequest (cl : Client) (value : W32) (s : State) : Host.Outcome State Fault Refusal :=
  onChip (clientWrite cl 0x5030 1 (wordBytes value) true) s

/-- The erasure of R492 is complete (R490). -/
def execErasureComplete (s : State) : Host.Outcome State Fault Refusal :=
  onChip eraseDone s

/-- A maker command leaves return state (R493). -/
def execReturnStateExit (cl : Client) (s : State) : Host.Outcome State Fault Refusal :=
  onChip (fun c => c.reach cl.path (returnExit cl)) s

/-- SPDM GET_VERSION: version 1.3 (R477). -/
def execGetVersion (q : SpdmIn) (s : State) : Host.Outcome State Fault Refusal :=
  onChip (spdmStep q 0 0x04 [0, 1, 0, 0x13]) s

/-- SPDM GET_CAPABILITIES: the capabilities of R477. -/
def execGetCapabilities (q : SpdmIn) (s : State) : Host.Outcome State Fault Refusal :=
  onChip (spdmStep q 1 0x61 (bytesLe 4 0x62D6)) s

/-- SPDM NEGOTIATE_ALGORITHMS: SHA-384 measurements, ECDSA P-384, SHA-384, secp384r1, AES-256-GCM (R477). -/
def execNegotiateAlgorithms (q : SpdmIn) (s : State) : Host.Outcome State Fault Refusal :=
  onChip (spdmStep q 2 0x63 (bytesLe 4 4 ++ bytesLe 4 0x80 ++ bytesLe 4 2 ++ bytesLe 2 0x10 ++ bytesLe 2 2)) s

/-- SPDM GET_DIGESTS: slot 0 alone holds a chain (R477). -/
def execGetDigests (q : SpdmIn) (s : State) : Host.Outcome State Fault Refusal :=
  onChip (spdmReady q fun d => d.send (.spdm q.client 0x01 ([1] ++ d.chainDigest))) s

/-- SPDM GET_CERTIFICATE: the responding controller's chain (R475, R477). -/
def execGetCertificate (q : SpdmIn) (s : State) : Host.Outcome State Fault Refusal :=
  onChip (slotZero q fun d => d.send (.spdm q.client 0x02 (Config.certChain d.act.val))) s

/-- SPDM CHALLENGE: the chain digest, a nonce and a signature of the identity key (R477). -/
def execChallenge (q : SpdmIn) (s : State) : Host.Outcome State Fault Refusal :=
  onChip (slotZero q fun d => d.draw.send (.spdm q.client 0x03
    (d.chainDigest ++ d.nonce ++ d.signed (d.chainDigest ++ d.nonce)))) s

/-- SPDM GET_MEASUREMENTS (R478). -/
def execGetMeasurements (q : SpdmIn) (s : State) : Host.Outcome State Fault Refusal :=
  onChip (spdmMeasure q) s

/-- SPDM KEY_EXCHANGE opens a session (R477). -/
def execKeyExchange (q : SpdmIn) (s : State) : Host.Outcome State Fault Refusal :=
  onChip (spdmKey q) s

/-- SPDM FINISH establishes the session (R477). -/
def execFinish (q : SpdmIn) (s : State) : Host.Outcome State Fault Refusal :=
  onChip (spdmFinish q) s

/-- SPDM HEARTBEAT (R477). -/
def execHeartbeat (q : SpdmIn) (s : State) : Host.Outcome State Fault Refusal :=
  onChip (spdmAlive q 0x68) s

/-- SPDM KEY_UPDATE (R477). -/
def execKeyUpdate (q : SpdmIn) (s : State) : Host.Outcome State Fault Refusal :=
  onChip (spdmAlive q 0x69) s

/-- SPDM END_SESSION (R477). -/
def execEndSession (q : SpdmIn) (s : State) : Host.Outcome State Fault Refusal :=
  onChip (spdmEnd q) s

/-- PLDM QueryDeviceIdentifiers: the PCI vendor ID (R484). -/
def execQueryDeviceIdentifiers (cl : Client) (s : State) : Host.Outcome State Fault Refusal :=
  onChip (pldmReq cl 0x01 fun d => d.pldmSay cl 0x01 0 (bytesLe 2 Config.pciVendor.toNat)) s

/-- PLDM GetFirmwareParameters: the four components with their versions (R484, R485). -/
def execGetFirmwareParameters (cl : Client) (s : State) : Host.Outcome State Fault Refusal :=
  onChip (pldmReq cl 0x02 fun d =>
    d.pldmSay cl 0x02 0 ((List.range 4).flatMap fun k => bytesLe 2 (k + 1) ++ bytesLe 4 (if k = 0 then d.fwVersion d.act else
      (let v := d.sec.rxVer.toList.getD (k - 1) 0; if v = 0 then (Config.firmware (k + 1)).toNat else v)))) s

/-- PLDM RequestUpdate (R484). -/
def execRequestUpdate (cl : Client) (s : State) : Host.Outcome State Fault Refusal :=
  onChip (updateBegin cl) s

/-- PLDM PassComponentTable: components of R485 are known. -/
def execPassComponentTable (cl : Client) (comp : W16) (s : State) : Host.Outcome State Fault Refusal :=
  onChip (pldmOpen cl 0x13 fun _ d => d.pldmSay cl 0x13 (if isComponent comp.toNat then 0 else 0x82) []) s

/-- PLDM UpdateComponent (R485). -/
def execUpdateComponent (cl : Client) (comp : W16) (version : W32) (size : Nat) (s : State) : Host.Outcome State Fault Refusal :=
  onChip (updateStart cl comp.toNat version.toNat size) s

/-- A response to RequestFirmwareData arrives (R486). -/
def execRequestFirmwareData (cl : Client) (offset : Nat) (data : Bytes) (s : State) : Host.Outcome State Fault Refusal :=
  onChip (updateData cl offset data) s

/-- Verification of a component ends (R486). -/
def execVerifyComplete (cl : Client) (s : State) : Host.Outcome State Fault Refusal :=
  onChip (updateVerify cl) s

/-- PLDM ActivateFirmware (R488). -/
def execActivateFirmware (cl : Client) (s : State) : Host.Outcome State Fault Refusal :=
  onChip (updateActivate cl) s

/-- PLDM GetStatus (R484). -/
def execGetStatus (cl : Client) (s : State) : Host.Outcome State Fault Refusal :=
  onChip (pldmReq cl 0x1B fun d => d.pldmSay cl 0x1B 0 (bytesLe 1 d.updateState)) s

/-- PLDM CancelUpdateComponent: the component transfer is aborted (R484, R488). -/
def execCancelUpdateComponent (cl : Client) (s : State) : Host.Outcome State Fault Refusal :=
  onChip (pldmOpen cl 0x1C fun u d =>
    ((d.setUpdate (some { u with comp := none, image := [] })).updateLog cl 6 (u.comp.getD 0) u.version).pldmSay cl 0x1C 0 []) s

/-- PLDM CancelUpdate ends the update (R484). -/
def execCancelUpdate (cl : Client) (s : State) : Host.Outcome State Fault Refusal :=
  onChip (pldmOpen cl 0x1D fun u d => ((d.setUpdate none).updateLog cl 6 (u.comp.getD 0) u.version).pldmSay cl 0x1D 0 []) s

/-- A controller that has not rejoined after 75 s reverts (R488). -/
def execFirmwareRollback (mc : Mc) (s : State) : Host.Outcome State Fault Refusal :=
  onChip (rollback mc.ix) s

/-- An activated image has run for 1 h (R487). -/
def execSecurityVersionCommit (comp : Fin 4) (s : State) : Host.Outcome State Fault Refusal :=
  onChip (commitSecurity comp) s

end Sys2Proof.Machine
end

