-- ==== Sys2Proof/Machine/Signals.lean ====
section
/-!
DEFINITION. Synchronisation packets that arrive (R98, R99, R134 to R137, R142, R251), and what goes on once new routes exist (R101).
-/
namespace Sys2Proof.Machine
namespace Mach

/-- The effect of a packet for which the table has no arrival row; `none` for one that has a row of its own. -/
def rowless (p : MeshPkt) : Option (Mach → Mach) :=
  match p.body, p.src, p.dst with
  | .add cnt v, .dsq _, .tile g | .add cnt v, .ce _, .tile g => some (addCounter g cnt v.toNat 0xFFFFFFFF)
  | .raise' k v, _, .ce e => some (ceRaise e k v.toNat)
  | .exception k, .tile g, _ => some (planStop k 0x0F g.val)
  | _, _, _ => none

/-- The oldest packet without an arrival row that can arrive now. -/
def nextRowless (m : Mach) : Option (MeshPkt × (Mach → Mach)) :=
  m.chip.mesh.sync.findSome? fun p => if m.chip.mesh.due p then (rowless p).map fun f => (p, f) else none

def drainN : Nat → Mach → Mach
  | 0, m => m
  | n + 1, m =>
    match m.nextRowless with
    | some (p, f) => drainN n (f (m.on (Chip.onMesh fun x => x.took p)))
    | none => m

/-- Packets without an arrival row follow as soon as nothing stands before them (R99, log 44). -/
def drain (m : Mach) : Mach := drainN m.chip.mesh.sync.length m

/-- A packet arrives in its order and has its effect; one that is not the oldest of its pair, or that waits, does not arrive. -/
def arrive (p : MeshPkt) (f : Mach → Mach) (m : Mach) : Mach :=
  if m.chip.mesh.due p then (f (m.on (Chip.onMesh fun x => x.took p))).drain else m

/-- Whether a tile's expert request waits for its plan's table in a held slice (R163). -/
def expertWaits (m : Mach) (g : Fin 1024) : Bool :=
  match m.chip.tile[g].plan with
  | some k => m.expertHeld m.chip.hif.plans[k]
  | none => false

end Mach

/-- A signal of a tile arrives (R134, R136). -/
def execSignalArrival (g : Fin 1024) (cnt : Fin 16) (value : W32) (sender : Fin 1024) (s : State) : Host.Outcome State Fault Refusal :=
  onMach (Mach.arrive ⟨.tile sender, .tile g, .add cnt value⟩ (Mach.addCounter g cnt value.toNat sender.val)) s
/-- A step start arrives from the unit that runs the plan (R137). -/
def execStepStart (g : Fin 1024) (words : Vector W64 4) (s : State) : Host.Outcome State Fault Refusal :=
  onMach (fun m => match m.startDue g words with
    | some p => m.arrive p (Mach.addStart g words)
    | none => m) s
def execLogitsReady (n : Fin 4) (tile : Fin 1024) (value : W32) (s : State) : Host.Outcome State Fault Refusal :=
  onMach (Mach.arrive ⟨.tile tile, .dsq n, .event 1 value⟩ (Mach.stepEvent n tile (fun r => { r with ready := r.ready ++ [(tile.val, value.toNat)] }))) s
def execTreeReady (n : Fin 4) (tile : Fin 1024) (value : W32) (s : State) : Host.Outcome State Fault Refusal :=
  onMach (Mach.arrive ⟨.tile tile, .dsq n, .event 2 value⟩ (Mach.stepEvent n tile (fun r => { r with treeN := some value.toNat }))) s
def execExpertReq (n : Fin 4) (tile : Fin 1024) (value : W32) (s : State) : Host.Outcome State Fault Refusal :=
  onMach (fun m => if m.expertWaits tile then m else m.arrive ⟨.tile tile, .dsq n, .event 3 value⟩ (Mach.expertReq n tile value.toNat)) s
/-- The new routes avoid every link that is down now, and what waited for them goes on (R101). -/
def execRerouteDone (s : State) : Host.Outcome State Fault Refusal :=
  onMach (fun m => if m.chip.mesh.reroute then
    (((m.on (Chip.onMesh fun x => { x with reroute := false, avoid := x.down, err := setBit x.err 3 true })).applyHeld).on Chip.releaseWaiting).drain else m) s

end Sys2Proof.Machine
end

