-- ==== Sys2Proof/Machine/Dispatch.lean ====
section
/-!
DEFINITION. Which meaning each command has: one arm per row of the opcode table.
-/
namespace Sys2Proof.Machine

def exec (i : Instr) (s : State) : Host.Outcome State Fault Refusal :=
  match i with
  | .auxPowerValid pos badAreas logBad => Sys2Proof.Machine.execAuxPowerValid pos badAreas logBad s
  | .auxPowerLost => Sys2Proof.Machine.execAuxPowerLost s
  | .dictionaryReady mc => Sys2Proof.Machine.execDictionaryReady mc s
  | .automaticGrant => Sys2Proof.Machine.execAutomaticGrant s
  | .permissionGrant cl target => Sys2Proof.Machine.execPermissionGrant cl target s
  | .permissionWithdraw cl => Sys2Proof.Machine.execPermissionWithdraw cl s
  | .fillDetected dp => Sys2Proof.Machine.execFillDetected dp s
  | .decayHoldEnd dp => Sys2Proof.Machine.execDecayHoldEnd dp s
  | .railPowerGood rail testFails => Sys2Proof.Machine.execRailPowerGood rail testFails s
  | .railFault rail cause => Sys2Proof.Machine.execRailFault rail cause s
  | .railSequenceRetry => Sys2Proof.Machine.execRailSequenceRetry s
  | .startUpComplete => Sys2Proof.Machine.execStartUpComplete s
  | .startUpOverdue => Sys2Proof.Machine.execStartUpOverdue s
  | .hotSwapClose volts => Sys2Proof.Machine.execHotSwapClose volts s
  | .hotSwapOpen cause reading => Sys2Proof.Machine.execHotSwapOpen cause reading s
  | .presenceLost => Sys2Proof.Machine.execPresenceLost s
  | .ejectorSwitchChange pressed => Sys2Proof.Machine.execEjectorSwitchChange pressed s
  | .removalRequest => Sys2Proof.Machine.execRemovalRequest s
  | .removalRequestIgnored => Sys2Proof.Machine.execRemovalRequestIgnored s
  | .drainTimeExpiry => Sys2Proof.Machine.execDrainTimeExpiry s
  | .opticalEngagementLost contact => Sys2Proof.Machine.execOpticalEngagementLost contact s
  | .orphanTimeout r => Sys2Proof.Machine.execOrphanTimeout r s
  | .madderTrip cause source reading => Sys2Proof.Machine.execMadderTrip cause source reading s
  | .tripAcknowledge cl => Sys2Proof.Machine.execTripAcknowledge cl s
  | .thermalClampEngage sk sensor reading => Sys2Proof.Machine.execThermalClampEngage sk sensor reading s
  | .thermalClampRelease sk => Sys2Proof.Machine.execThermalClampRelease sk s
  | .tileFault sk phys cause => Sys2Proof.Machine.execTileFault sk phys cause s
  | .tileWatchdogExpiry g => Sys2Proof.Machine.execTileWatchdogExpiry g s
  | .remapReloadDone sk => Sys2Proof.Machine.execRemapReloadDone sk s
  | .remapGo port sk value => Sys2Proof.Machine.execRemapGo port sk value s
  | .napEntry g => Sys2Proof.Machine.execNapEntry g s
  | .tileWake g => Sys2Proof.Machine.execTileWake g s
  | .halt g => Sys2Proof.Machine.execHalt g s
  | .resume g => Sys2Proof.Machine.execResume g s
  | .skrReset port sk value => Sys2Proof.Machine.execSkrReset port sk value s
  | .skerryResetRelease sk testFails => Sys2Proof.Machine.execSkerryResetRelease sk testFails s
  | .skerryResetDone sk => Sys2Proof.Machine.execSkerryResetDone sk s
  | .supvReset sk => Sys2Proof.Machine.execSupvReset sk s
  | .meshLaneFault link => Sys2Proof.Machine.execMeshLaneFault link s
  | .rerouteDone => Sys2Proof.Machine.execRerouteDone s
  | .sramRowRepair g row => Sys2Proof.Machine.execSramRowRepair g row s
  | .sramPatrolScrub sk faults => Sys2Proof.Machine.execSramPatrolScrub sk faults s
  | .nop g => Sys2Proof.Machine.execNop g s
  | .endStep g => Sys2Proof.Machine.execEndStep g s
  | .alu g => Sys2Proof.Machine.execAlu g s
  | .lih g => Sys2Proof.Machine.execLih g s
  | .br g => Sys2Proof.Machine.execBr g s
  | .mfs g => Sys2Proof.Machine.execMfs g s
  | .mts g => Sys2Proof.Machine.execMts g s
  | .get g => Sys2Proof.Machine.execGet g s
  | .put g => Sys2Proof.Machine.execPut g s
  | .getComplete g faults => Sys2Proof.Machine.execGetComplete g faults s
  | .putAcknowledged g => Sys2Proof.Machine.execPutAcknowledged g s
  | .fence g => Sys2Proof.Machine.execFence g s
  | .mma g => Sys2Proof.Machine.execMma g s
  | .mst g => Sys2Proof.Machine.execMst g s
  | .mld g => Sys2Proof.Machine.execMld g s
  | .mz g => Sys2Proof.Machine.execMz g s
  | .vadd g => Sys2Proof.Machine.execVadd g s
  | .vsub g => Sys2Proof.Machine.execVsub g s
  | .vmul g => Sys2Proof.Machine.execVmul g s
  | .vfma g => Sys2Proof.Machine.execVfma g s
  | .vmax g => Sys2Proof.Machine.execVmax g s
  | .vmin g => Sys2Proof.Machine.execVmin g s
  | .vdiv g => Sys2Proof.Machine.execVdiv g s
  | .vabs g => Sys2Proof.Machine.execVabs g s
  | .vrsum g => Sys2Proof.Machine.execVrsum g s
  | .vrmax g => Sys2Proof.Machine.execVrmax g s
  | .vcpy g => Sys2Proof.Machine.execVcpy g s
  | .sexp g => Sys2Proof.Machine.execSexp g s
  | .slog g => Sys2Proof.Machine.execSlog g s
  | .srsq g => Sys2Proof.Machine.execSrsq g s
  | .stanh g => Sys2Proof.Machine.execStanh g s
  | .ssig g => Sys2Proof.Machine.execSsig g s
  | .cvto g => Sys2Proof.Machine.execCvto g s
  | .cvfr g => Sys2Proof.Machine.execCvfr g s
  | .signal g => Sys2Proof.Machine.execSignal g s
  | .wait g => Sys2Proof.Machine.execWait g s
  | .signalArrival g cnt value sender => Sys2Proof.Machine.execSignalArrival g cnt value sender s
  | .stepStart g words => Sys2Proof.Machine.execStepStart g words s
  | .unitComplete g u => Sys2Proof.Machine.execUnitComplete g u s
  | .gddr7TrainingDone d rdEye wrEye completed => Sys2Proof.Machine.execGddr7TrainingDone d rdEye wrEye completed s
  | .deviceRetire d => Sys2Proof.Machine.execDeviceRetire d s
  | .gmcRetireCtrl value => Sys2Proof.Machine.execGmcRetireCtrl value s
  | .mirrorRebuildDone => Sys2Proof.Machine.execMirrorRebuildDone s
  | .planCopyRebuild plan => Sys2Proof.Machine.execPlanCopyRebuild plan s
  | .gddr7ScrubPass faults => Sys2Proof.Machine.execGddr7ScrubPass faults s
  | .cxpWinEnable w value => Sys2Proof.Machine.execCxpWinEnable w value s
  | .cxlWindowDown port cause => Sys2Proof.Machine.execCxlWindowDown port cause s
  | .cxlRetrain port => Sys2Proof.Machine.execCxlRetrain port s
  | .cxpCfgAccess value => Sys2Proof.Machine.execCxpCfgAccess value s
  | .cxpCfgDone err data => Sys2Proof.Machine.execCxpCfgDone err data s
  | .cxlApertureAccess hp offset size wr answer => Sys2Proof.Machine.execCxlApertureAccess hp offset size wr answer s
  | .registerWrite hp bar4 offset size value => Sys2Proof.Machine.execRegisterWrite hp bar4 offset size value s
  | .bar2Access hp offset size wr faults => Sys2Proof.Machine.execBar2Access hp offset size wr faults s
  | .commandFetch p entry => Sys2Proof.Machine.execCommandFetch p entry s
  | .completionWrite cid => Sys2Proof.Machine.execCompletionWrite cid s
  | .interruptTimerExpiry q => Sys2Proof.Machine.execInterruptTimerExpiry q s
  | .submissionTailDoorbell hp q value => Sys2Proof.Machine.execSubmissionTailDoorbell hp q value s
  | .completionHeadDoorbell hp q value => Sys2Proof.Machine.execCompletionHeadDoorbell hp q value s
  | .aqEnable hp p value => Sys2Proof.Machine.execAqEnable hp p value s
  | .aqDisable hp p value => Sys2Proof.Machine.execAqDisable hp p value s
  | .queueStop q => Sys2Proof.Machine.execQueueStop q s
  | .queueFreed q => Sys2Proof.Machine.execQueueFreed q s
  | .identify cid => Sys2Proof.Machine.execIdentify cid s
  | .createQueue cid => Sys2Proof.Machine.execCreateQueue cid s
  | .destroyQueue cid => Sys2Proof.Machine.execDestroyQueue cid s
  | .registerRegion cid => Sys2Proof.Machine.execRegisterRegion cid s
  | .releaseRegion cid => Sys2Proof.Machine.execReleaseRegion cid s
  | .loadPlan cid head table => Sys2Proof.Machine.execLoadPlan cid head table s
  | .planImageReadDone image => Sys2Proof.Machine.execPlanImageReadDone image s
  | .planLoadComplete => Sys2Proof.Machine.execPlanLoadComplete s
  | .unloadPlan cid => Sys2Proof.Machine.execUnloadPlan cid s
  | .unloadComplete plan => Sys2Proof.Machine.execUnloadComplete plan s
  | .restartPlan cid => Sys2Proof.Machine.execRestartPlan cid s
  | .setPermission cid => Sys2Proof.Machine.execSetPermission cid s
  | .abort cid => Sys2Proof.Machine.execAbort cid s
  | .eventRequest cid => Sys2Proof.Machine.execEventRequest cid s
  | .ioNop cid => Sys2Proof.Machine.execIoNop cid s
  | .copy cid => Sys2Proof.Machine.execCopy cid s
  | .runPlan cid => Sys2Proof.Machine.execRunPlan cid s
  | .runnerStepStart plan => Sys2Proof.Machine.execRunnerStepStart plan s
  | .runnerStepComplete plan => Sys2Proof.Machine.execRunnerStepComplete plan s
  | .runPlanTimeout plan => Sys2Proof.Machine.execRunPlanTimeout plan s
  | .hostFailure p => Sys2Proof.Machine.execHostFailure p s
  | .hostCleanupDone p => Sys2Proof.Machine.execHostCleanupDone p s
  | .hostLinkUp p width fn => Sys2Proof.Machine.execHostLinkUp p width fn s
  | .createSequence cid => Sys2Proof.Machine.execCreateSequence cid s
  | .destroySequence cid => Sys2Proof.Machine.execDestroySequence cid s
  | .generate cid => Sys2Proof.Machine.execGenerate cid s
  | .stopSequence cid => Sys2Proof.Machine.execStopSequence cid s
  | .setSampler cid => Sys2Proof.Machine.execSetSampler cid s
  | .submitTree cid data => Sys2Proof.Machine.execSubmitTree cid data s
  | .forkSequence cid => Sys2Proof.Machine.execForkSequence cid s
  | .trimSequence cid => Sys2Proof.Machine.execTrimSequence cid s
  | .setPages cid data => Sys2Proof.Machine.execSetPages cid data s
  | .addFrames cid data => Sys2Proof.Machine.execAddFrames cid data s
  | .takeFrames cid => Sys2Proof.Machine.execTakeFrames cid s
  | .dsqStepStart n => Sys2Proof.Machine.execDsqStepStart n s
  | .logitsReady n tile value => Sys2Proof.Machine.execLogitsReady n tile value s
  | .treeReady n tile value => Sys2Proof.Machine.execTreeReady n tile value s
  | .expertReq n tile value => Sys2Proof.Machine.execExpertReq n tile value s
  | .expertPageInDone n expert => Sys2Proof.Machine.execExpertPageInDone n expert s
  | .sampleRow n ns => Sys2Proof.Machine.execSampleRow n ns s
  | .dsqStepEnd n => Sys2Proof.Machine.execDsqStepEnd n s
  | .ringHeadPoll sq => Sys2Proof.Machine.execRingHeadPoll sq s
  | .logitsMissing n => Sys2Proof.Machine.execLogitsMissing n s
  | .stepTimeout n => Sys2Proof.Machine.execStepTimeout n s
  | .laneRemove k lane => Sys2Proof.Machine.execLaneRemove k lane s
  | .straitDown k => Sys2Proof.Machine.execStraitDown k s
  | .flitReceive k flit => Sys2Proof.Machine.execFlitReceive k flit s
  | .replayRequest k => Sys2Proof.Machine.execReplayRequest k s
  | .straitTrained k lanes => Sys2Proof.Machine.execStraitTrained k lanes s
  | .hello k => Sys2Proof.Machine.execHello k s
  | .helloAck k pkt => Sys2Proof.Machine.execHelloAck k pkt s
  | .assign k pkt => Sys2Proof.Machine.execAssign k pkt s
  | .reach k pkt => Sys2Proof.Machine.execReach k pkt s
  | .keepalive k pkt => Sys2Proof.Machine.execKeepalive k pkt s
  | .keepaliveSend k => Sys2Proof.Machine.execKeepaliveSend k s
  | .keepaliveLoss k => Sys2Proof.Machine.execKeepaliveLoss k s
  | .discoveryTimeout k => Sys2Proof.Machine.execDiscoveryTimeout k s
  | .straitRetrain k => Sys2Proof.Machine.execStraitRetrain k s
  | .write k pkt => Sys2Proof.Machine.execWrite k pkt s
  | .readReq k pkt => Sys2Proof.Machine.execReadReq k pkt s
  | .collData k pkt => Sys2Proof.Machine.execCollData k pkt s
  | .arrive k pkt => Sys2Proof.Machine.execArrive k pkt s
  | .writeAck k pkt => Sys2Proof.Machine.execWriteAck k pkt s
  | .readResp k pkt => Sys2Proof.Machine.execReadResp k pkt s
  | .collAck k pkt => Sys2Proof.Machine.execCollAck k pkt s
  | .arriveAck k pkt => Sys2Proof.Machine.execArriveAck k pkt s
  | .nack k pkt => Sys2Proof.Machine.execNack k pkt s
  | .resendTimeout seq => Sys2Proof.Machine.execResendTimeout seq s
  | .collectiveComplete e slot => Sys2Proof.Machine.execCollectiveComplete e slot s
  | .collectiveTimeout e slot => Sys2Proof.Machine.execCollectiveTimeout e slot s
  | .strCeTable e value => Sys2Proof.Machine.execStrCeTable e value s
  | .strExportEnable w value => Sys2Proof.Machine.execStrExportEnable w value s
  | .strPartnerEnable value => Sys2Proof.Machine.execStrPartnerEnable value s
  | .fabricCopy cid => Sys2Proof.Machine.execFabricCopy cid s
  | .fireSlot cid => Sys2Proof.Machine.execFireSlot cid s
  | .setShadow cid => Sys2Proof.Machine.execSetShadow cid s
  | .shadowSync cid => Sys2Proof.Machine.execShadowSync cid s
  | .shadowCommitWord sq => Sys2Proof.Machine.execShadowCommitWord sq s
  | .controlTick x => Sys2Proof.Machine.execControlTick x s
  | .deadlineMiss mc slot => Sys2Proof.Machine.execDeadlineMiss mc slot s
  | .followingErrorExpiry mc slot => Sys2Proof.Machine.execFollowingErrorExpiry mc slot s
  | .controlFrame r port frame => Sys2Proof.Machine.execControlFrame r port frame s
  | .statusFrame mc frame => Sys2Proof.Machine.execStatusFrame mc frame s
  | .selfTestRound => Sys2Proof.Machine.execSelfTestRound s
  | .selfTestEnd failA failB => Sys2Proof.Machine.execSelfTestEnd failA failB s
  | .divergenceAlarmClear => Sys2Proof.Machine.execDivergenceAlarmClear s
  | .takeover => Sys2Proof.Machine.execTakeover s
  | .segmentFailed mc => Sys2Proof.Machine.execSegmentFailed mc s
  | .pairLinkDown => Sys2Proof.Machine.execPairLinkDown s
  | .silentRestart mc => Sys2Proof.Machine.execSilentRestart mc s
  | .controllerRestart mc cause => Sys2Proof.Machine.execControllerRestart mc cause s
  | .rejoin mc => Sys2Proof.Machine.execRejoin mc s
  | .rejoinTimeout mc => Sys2Proof.Machine.execRejoinTimeout mc s
  | .coreStop mc => Sys2Proof.Machine.execCoreStop mc s
  | .coreWake mc src => Sys2Proof.Machine.execCoreWake mc src s
  | .releaseSilenceLock cl value => Sys2Proof.Machine.execReleaseSilenceLock cl value s
  | .createSlot cl cls => Sys2Proof.Machine.execCreateSlot cl cls s
  | .destroySlot cl handle => Sys2Proof.Machine.execDestroySlot cl handle s
  | .slotStart cl n => Sys2Proof.Machine.execSlotStart cl n s
  | .slotStop cl n => Sys2Proof.Machine.execSlotStop cl n s
  | .slotFreeze cl n => Sys2Proof.Machine.execSlotFreeze cl n s
  | .slotRelease cl n => Sys2Proof.Machine.execSlotRelease cl n s
  | .clearFault cl n value => Sys2Proof.Machine.execClearFault cl n value s
  | .testStartCommand cl n => Sys2Proof.Machine.execTestStartCommand cl n s
  | .testStart n => Sys2Proof.Machine.execTestStart n s
  | .testAbort cl n => Sys2Proof.Machine.execTestAbort cl n s
  | .captureArm cl => Sys2Proof.Machine.execCaptureArm cl s
  | .captureStart cl => Sys2Proof.Machine.execCaptureStart cl s
  | .captureStop cl => Sys2Proof.Machine.execCaptureStop cl s
  | .dispatchHoldExpiry => Sys2Proof.Machine.execDispatchHoldExpiry s
  | .dispatchRecovery => Sys2Proof.Machine.execDispatchRecovery s
  | .pulseInputStuck => Sys2Proof.Machine.execPulseInputStuck s
  | .outletElementFault which => Sys2Proof.Machine.execOutletElementFault which s
  | .inletElementFault => Sys2Proof.Machine.execInletElementFault s
  | .flowSensorFault => Sys2Proof.Machine.execFlowSensorFault s
  | .leakConfirm loops reading => Sys2Proof.Machine.execLeakConfirm loops reading s
  | .leakDetectionLost => Sys2Proof.Machine.execLeakDetectionLost s
  | .peakEnd ch result => Sys2Proof.Machine.execPeakEnd ch result s
  | .boostWaitTimeout ch => Sys2Proof.Machine.execBoostWaitTimeout ch s
  | .supplySwitchBoundary hs => Sys2Proof.Machine.execSupplySwitchBoundary hs s
  | .trimPeriodStart ch => Sys2Proof.Machine.execTrimPeriodStart ch s
  | .trimPeriodDeenergise ch => Sys2Proof.Machine.execTrimPeriodDeenergise ch s
  | .channelOverCurrent ch => Sys2Proof.Machine.execChannelOverCurrent ch s
  | .positionProbe ch ma10 => Sys2Proof.Machine.execPositionProbe ch ma10 s
  | .clearChannelFaults cl value => Sys2Proof.Machine.execClearChannelFaults cl value s
  | .blowerStall b => Sys2Proof.Machine.execBlowerStall b s
  | .blowerRetry b => Sys2Proof.Machine.execBlowerRetry b s
  | .tachGap b percent => Sys2Proof.Machine.execTachGap b percent s
  | .objectWrite cl index sub data => Sys2Proof.Machine.execObjectWrite cl index sub data s
  | .dictionaryReadRequest path eid msg => Sys2Proof.Machine.execDictionaryReadRequest path eid msg s
  | .dictionaryWriteRequest path eid msg => Sys2Proof.Machine.execDictionaryWriteRequest path eid msg s
  | .usdoUpload node index sub => Sys2Proof.Machine.execUsdoUpload node index sub s
  | .usdoDownload node index sub complete data => Sys2Proof.Machine.execUsdoDownload node index sub complete data s
  | .usdoSegmentTimeout node => Sys2Proof.Machine.execUsdoSegmentTimeout node s
  | .nmtStart node => Sys2Proof.Machine.execNmtStart node s
  | .nmtStop node => Sys2Proof.Machine.execNmtStop node s
  | .nmtEnterPreOperational node => Sys2Proof.Machine.execNmtEnterPreOperational node s
  | .nmtResetCommunication node pos => Sys2Proof.Machine.execNmtResetCommunication node pos s
  | .nmtResetNode node pos => Sys2Proof.Machine.execNmtResetNode node pos s
  | .rpdoReceive n data => Sys2Proof.Machine.execRpdoReceive n data s
  | .rpdoTimeout n => Sys2Proof.Machine.execRpdoTimeout n s
  | .tpdoTransmit n => Sys2Proof.Machine.execTpdoTransmit n s
  | .emcySend => Sys2Proof.Machine.execEmcySend s
  | .heartbeatProduce => Sys2Proof.Machine.execHeartbeatProduce s
  | .heartbeatReceive node => Sys2Proof.Machine.execHeartbeatReceive node s
  | .heartbeatLoss k => Sys2Proof.Machine.execHeartbeatLoss k s
  | .store cl sub value memOk => Sys2Proof.Machine.execStore cl sub value memOk s
  | .restore cl sub value memOk => Sys2Proof.Machine.execRestore cl sub value memOk s
  | .errorHistoryClear cl value => Sys2Proof.Machine.execErrorHistoryClear cl value s
  | .setEndpointId path eid => Sys2Proof.Machine.execSetEndpointId path eid s
  | .getEndpointId path requester => Sys2Proof.Machine.execGetEndpointId path requester s
  | .getMctpVersionSupport path requester typ => Sys2Proof.Machine.execGetMctpVersionSupport path requester typ s
  | .getMessageTypeSupport path requester => Sys2Proof.Machine.execGetMessageTypeSupport path requester s
  | .getVendorDefinedMessageSupport path requester selector => Sys2Proof.Machine.execGetVendorDefinedMessageSupport path requester selector s
  | .logRecordWrite mc fail => Sys2Proof.Machine.execLogRecordWrite mc fail s
  | .lastGaspRequest mc serial msg => Sys2Proof.Machine.execLastGaspRequest mc serial msg s
  | .roleChallenge cl => Sys2Proof.Machine.execRoleChallenge cl s
  | .roleProof cl proof => Sys2Proof.Machine.execRoleProof cl proof s
  | .endRole cl value => Sys2Proof.Machine.execEndRole cl value s
  | .roleInactivityTimeout cl => Sys2Proof.Machine.execRoleInactivityTimeout cl s
  | .installerCredential cl key => Sys2Proof.Machine.execInstallerCredential cl key s
  | .planKey cl k key => Sys2Proof.Machine.execPlanKey cl k key s
  | .planPolicyUpdate => Sys2Proof.Machine.execPlanPolicyUpdate s
  | .calendarTimeSet cl value => Sys2Proof.Machine.execCalendarTimeSet cl value s
  | .returnStateRequest cl value => Sys2Proof.Machine.execReturnStateRequest cl value s
  | .erasureComplete => Sys2Proof.Machine.execErasureComplete s
  | .returnStateExit cl => Sys2Proof.Machine.execReturnStateExit cl s
  | .getVersion q => Sys2Proof.Machine.execGetVersion q s
  | .getCapabilities q => Sys2Proof.Machine.execGetCapabilities q s
  | .negotiateAlgorithms q => Sys2Proof.Machine.execNegotiateAlgorithms q s
  | .getDigests q => Sys2Proof.Machine.execGetDigests q s
  | .getCertificate q => Sys2Proof.Machine.execGetCertificate q s
  | .challenge q => Sys2Proof.Machine.execChallenge q s
  | .getMeasurements q => Sys2Proof.Machine.execGetMeasurements q s
  | .keyExchange q => Sys2Proof.Machine.execKeyExchange q s
  | .finish q => Sys2Proof.Machine.execFinish q s
  | .heartbeat q => Sys2Proof.Machine.execHeartbeat q s
  | .keyUpdate q => Sys2Proof.Machine.execKeyUpdate q s
  | .endSession q => Sys2Proof.Machine.execEndSession q s
  | .queryDeviceIdentifiers cl => Sys2Proof.Machine.execQueryDeviceIdentifiers cl s
  | .getFirmwareParameters cl => Sys2Proof.Machine.execGetFirmwareParameters cl s
  | .requestUpdate cl => Sys2Proof.Machine.execRequestUpdate cl s
  | .passComponentTable cl comp => Sys2Proof.Machine.execPassComponentTable cl comp s
  | .updateComponent cl comp version size => Sys2Proof.Machine.execUpdateComponent cl comp version size s
  | .requestFirmwareData cl offset data => Sys2Proof.Machine.execRequestFirmwareData cl offset data s
  | .verifyComplete cl => Sys2Proof.Machine.execVerifyComplete cl s
  | .activateFirmware cl => Sys2Proof.Machine.execActivateFirmware cl s
  | .getStatus cl => Sys2Proof.Machine.execGetStatus cl s
  | .cancelUpdateComponent cl => Sys2Proof.Machine.execCancelUpdateComponent cl s
  | .cancelUpdate cl => Sys2Proof.Machine.execCancelUpdate cl s
  | .firmwareRollback mc => Sys2Proof.Machine.execFirmwareRollback mc s
  | .securityVersionCommit comp => Sys2Proof.Machine.execSecurityVersionCommit comp s
  | .reservedInstructionIssue g => Sys2Proof.Machine.execReservedInstructionIssue g s
  | .cxlPortTrained port width fast lopt devices unsupported => Sys2Proof.Machine.execCxlPortTrained port width fast lopt devices unsupported s
  | .hostLinkDown p => Sys2Proof.Machine.execHostLinkDown p s
  | .hostDmaCompletion cid data => Sys2Proof.Machine.execHostDmaCompletion cid data s
  | .pairLinkMessage dst msg => Sys2Proof.Machine.execPairLinkMessage dst msg s
  | .standbyImageCheck ok => Sys2Proof.Machine.execStandbyImageCheck ok s
  | .channelDecayEnd ch => Sys2Proof.Machine.execChannelDecayEnd ch s
  | .boostRailUp => Sys2Proof.Machine.execBoostRailUp s
  | .opticalEngagementMade => Sys2Proof.Machine.execOpticalEngagementMade s
  | .removalSwitchReleased => Sys2Proof.Machine.execRemovalSwitchReleased s

end Sys2Proof.Machine
end

