-- ==== Sys2Proof/WellFormed.lean ====
section
/-!
DEFINITION. Which commands are well formed: operands that the surroundings of the block can supply. A command that is not well formed still has a
meaning; nothing is claimed of it beyond the model.
-/
namespace Sys2Proof

/-- A packet whose payload has the length its header states (R282); a READ_REQ has none (R283). -/
def Packet.wf (p : Packet) : Bool := p.payload.length == p.len.toNat

/-- A read error lies in the local offset space (R145); a retried burst was retried at least once (R159). -/
def ReadFault.wf (f : ReadFault) : Bool :=
  decide (f.addr < 2 ^ 48) && (match f.kind with | .retried n => decide (1 ≤ n) | _ => true)

/-- An access of a BAR: a size, and as many bytes as it says (R187, R189). -/
def accessWf (size : Nat) (wr : Option Bytes) : Bool :=
  decide (0 < size) && (match wr with | some d => d.length == size | none => true)

/-- A trained width of a host or CXL port (R167, R234). -/
def widthWf (w : Nat) : Bool := w == 4 || w == 8 || w == 16

/-- What a host sets in the configuration space (R184). -/
def PciFn.wf (f : PciFn) : Bool := (f.payload == 128 || f.payload == 256 || f.payload == 512) && decide (f.readReq ≤ 4096)

/-- What a tick reads (R361): supplies within what the converters can report, periods that hold their high time (R371), errors that lie in the local space. -/
def TickIn.wf (x : TickIn) : Bool :=
  decide (x.volts < 65536) && decide (x.amps < 65536) && decide (x.auxMv < 65536) && decide (x.a.lk < 65536) && decide (x.b.lk < 65536) &&
    x.periods.all (fun p => decide (0 < p.2) && decide (p.1 ≤ p.2)) && x.errors.all ReadFault.wf

/-- Well-formed commands. -/
def Instr.wf : Instr → Bool
  | .hotSwapClose v => decide (v < 65536)
  | .hotSwapOpen _ v => decide (v < 65536)
  | .sramRowRepair _ row => decide (row < 49152)
  | .sramPatrolScrub _ l | .gddr7ScrubPass l | .getComplete _ l => l.all ReadFault.wf
  | .cxlApertureAccess _ _ size wr answer => accessWf size wr && (wr.isSome || answer.length == size)
  | .registerWrite _ _ _ size _ => decide (0 < size) && decide (size ≤ 8)
  | .bar2Access _ _ size wr faults => accessWf size wr && faults.all ReadFault.wf
  | .hostLinkUp _ w fn => widthWf w && fn.wf
  | .cxlPortTrained _ w _ _ d _ => widthWf w && decide (d ≤ 8)
  | .flitReceive _ f => f.length == 512
  | .readReq _ p => p.payload.isEmpty
  | .helloAck _ p | .assign _ p | .reach _ p | .keepalive _ p | .write _ p | .collData _ p | .arrive _ p | .writeAck _ p | .readResp _ p
  | .collAck _ p | .arriveAck _ p | .nack _ p => p.wf
  | .controlTick x => x.wf
  | .sampleRow _ ns => decide (ns < 65536)
  | .rpdoReceive _ d => decide (d.length ≤ 64)
  | .planKey _ _ k | .installerCredential _ k => decide (k.length ≤ 113)
  | .updateComponent _ _ _ n => decide (0 < n)
  | .auxPowerValid _ _ _ | .auxPowerLost | .dictionaryReady _ | .automaticGrant | .permissionGrant _ _ | .permissionWithdraw _ | .fillDetected _
  | .decayHoldEnd _ | .railPowerGood _ _ | .railFault _ _ | .railSequenceRetry | .startUpComplete | .startUpOverdue | .presenceLost
  | .ejectorSwitchChange _ | .removalRequest | .removalRequestIgnored | .drainTimeExpiry | .opticalEngagementLost _ | .orphanTimeout _
  | .madderTrip _ _ _ | .tripAcknowledge _ | .thermalClampEngage _ _ _ | .thermalClampRelease _ | .tileFault _ _ _ | .tileWatchdogExpiry _
  | .remapReloadDone _ | .remapGo _ _ _ | .napEntry _ | .tileWake _ | .halt _ | .resume _ | .skrReset _ _ _ | .skerryResetRelease _ _
  | .skerryResetDone _ | .supvReset _ | .meshLaneFault _ | .rerouteDone | .nop _ | .endStep _ | .alu _ | .lih _ | .br _ | .mfs _ | .mts _ | .get _
  | .put _ | .putAcknowledged _ | .fence _ | .mma _ | .mst _ | .mld _ | .mz _ | .vadd _ | .vsub _ | .vmul _ | .vfma _ | .vmax _ | .vmin _ | .vdiv _
  | .vabs _ | .vrsum _ | .vrmax _ | .vcpy _ | .sexp _ | .slog _ | .srsq _ | .stanh _ | .ssig _ | .cvto _ | .cvfr _ | .signal _ | .wait _
  | .signalArrival _ _ _ _ | .stepStart _ _ | .unitComplete _ _ | .gddr7TrainingDone _ _ _ _ | .deviceRetire _ | .gmcRetireCtrl _
  | .mirrorRebuildDone | .planCopyRebuild _ | .cxpWinEnable _ _ | .cxlWindowDown _ _ | .cxlRetrain _ | .cxpCfgAccess _ | .cxpCfgDone _ _
  | .commandFetch _ _ | .completionWrite _ | .interruptTimerExpiry _ | .submissionTailDoorbell _ _ _ | .completionHeadDoorbell _ _ _
  | .aqEnable _ _ _ | .aqDisable _ _ _ | .queueStop _ | .queueFreed _ | .identify _ | .createQueue _ | .destroyQueue _ | .registerRegion _
  | .releaseRegion _ | .loadPlan _ _ _ | .planImageReadDone _ | .planLoadComplete | .unloadPlan _ | .unloadComplete _ | .restartPlan _
  | .setPermission _ | .abort _ | .eventRequest _ | .ioNop _ | .copy _ | .runPlan _ | .runnerStepStart _ | .runnerStepComplete _ | .runPlanTimeout _
  | .hostFailure _ | .hostCleanupDone _ | .createSequence _ | .destroySequence _ | .generate _ | .stopSequence _ | .setSampler _ | .submitTree _ _
  | .forkSequence _ | .trimSequence _ | .setPages _ _ | .addFrames _ _ | .takeFrames _ | .dsqStepStart _ | .logitsReady _ _ _ | .treeReady _ _ _
  | .expertReq _ _ _ | .expertPageInDone _ _ | .dsqStepEnd _ | .ringHeadPoll _ | .logitsMissing _ | .stepTimeout _ | .laneRemove _ _ | .straitDown _
  | .replayRequest _ | .straitTrained _ _ | .hello _ | .keepaliveSend _ | .keepaliveLoss _ | .discoveryTimeout _ | .straitRetrain _
  | .resendTimeout _ | .collectiveComplete _ _ | .collectiveTimeout _ _ | .strCeTable _ _ | .strExportEnable _ _ | .strPartnerEnable _
  | .fabricCopy _ | .fireSlot _ | .setShadow _ | .shadowSync _ | .shadowCommitWord _ | .deadlineMiss _ _ | .followingErrorExpiry _ _
  | .controlFrame _ _ _ | .statusFrame _ _ | .selfTestRound | .selfTestEnd _ _ | .divergenceAlarmClear | .takeover | .segmentFailed _ | .pairLinkDown
  | .silentRestart _ | .controllerRestart _ _ | .rejoin _ | .rejoinTimeout _ | .coreStop _ | .coreWake _ _ | .releaseSilenceLock _ _
  | .createSlot _ _ | .destroySlot _ _ | .slotStart _ _ | .slotStop _ _ | .slotFreeze _ _ | .slotRelease _ _ | .clearFault _ _ _
  | .testStartCommand _ _ | .testStart _ | .testAbort _ _ | .captureArm _ | .captureStart _ | .captureStop _ | .dispatchHoldExpiry
  | .dispatchRecovery | .pulseInputStuck | .outletElementFault _ | .inletElementFault | .flowSensorFault | .leakConfirm _ _ | .leakDetectionLost
  | .peakEnd _ _ | .boostWaitTimeout _ | .supplySwitchBoundary _ | .trimPeriodStart _ | .trimPeriodDeenergise _ | .channelOverCurrent _
  | .positionProbe _ _ | .clearChannelFaults _ _ | .blowerStall _ | .blowerRetry _ | .objectWrite _ _ _ _ | .dictionaryReadRequest _ _ _
  | .dictionaryWriteRequest _ _ _ | .usdoUpload _ _ _ | .usdoDownload _ _ _ _ _ | .usdoSegmentTimeout _ | .nmtStart _ | .nmtStop _
  | .nmtEnterPreOperational _ | .nmtResetCommunication _ _ | .nmtResetNode _ _ | .rpdoTimeout _ | .tpdoTransmit _ | .emcySend | .heartbeatProduce
  | .heartbeatReceive _ | .heartbeatLoss _ | .store _ _ _ _ | .restore _ _ _ _ | .errorHistoryClear _ _ | .setEndpointId _ _ | .getEndpointId _ _
  | .getMctpVersionSupport _ _ _ | .getMessageTypeSupport _ _ | .getVendorDefinedMessageSupport _ _ _ | .logRecordWrite _ _ | .lastGaspRequest _ _ _
  | .roleChallenge _ | .roleProof _ _ | .endRole _ _ | .roleInactivityTimeout _ | .planPolicyUpdate | .calendarTimeSet _ _ | .returnStateRequest _ _
  | .erasureComplete | .returnStateExit _ | .getVersion _ | .getCapabilities _ | .negotiateAlgorithms _ | .getDigests _ | .getCertificate _
  | .challenge _ | .getMeasurements _ | .keyExchange _ | .finish _ | .heartbeat _ | .keyUpdate _ | .endSession _ | .queryDeviceIdentifiers _
  | .getFirmwareParameters _ | .requestUpdate _ | .passComponentTable _ _ | .requestFirmwareData _ _ _ | .verifyComplete _ | .activateFirmware _
  | .getStatus _ | .cancelUpdateComponent _ | .cancelUpdate _ | .firmwareRollback _ | .securityVersionCommit _ | .reservedInstructionIssue _
  | .tachGap _ _ | .hostLinkDown _ | .hostDmaCompletion _ _ | .pairLinkMessage _ _ | .standbyImageCheck _ | .channelDecayEnd _ | .boostRailUp
  | .opticalEngagementMade | .removalSwitchReleased => true

end Sys2Proof
end

