-- ==== Sys2Proof/Safety.lean ====
section
/-!
DEFINITION. What a safe run is, and the words the statements use: a command that completes, the part of the state it may change, who is served.
-/
namespace Sys2Proof.Machine

/-- A command completes: `exec` answers a next state, and `P` holds of it. -/
def Runs (i : Instr) (s : State) (P : State → Prop) : Prop := ∃ t, exec i s = .next t ∧ P t

/-- A command is safe in a state: the block does not stop on it. -/
def SafeOn (i : Instr) (s : State) : Prop := Runs i s fun _ => True

/-- A state from which the waiting commands can all be taken: none of them stops the block. -/
def Safe (s : State) : Prop := ∀ k r, Sys2Proof.core.run k s ≠ .fault r

/-- The next state differs from the state before at most in the chip's parts that `c` takes from it: memory, poison marks and queue are as before. -/
def OnlyChip (s t : State) (c : Chip) : Prop := t = { s with m := { s.m with chip := c } }

/-- The next state differs at most in the chip's parts that `c` takes from it and in what an announcement changes: logbooks, emergency messages and the
hosts' event queues. -/
def OnlyAnnounced (s t : State) (c : Chip) : Prop :=
  OnlyChip s t { c with nv := t.m.chip.nv, comm := t.m.chip.comm, hif := { c.hif with port := t.m.chip.hif.port, cmds := t.m.chip.hif.cmds } }

/-- A channel of the actuator driver is the only one that may differ. -/
def OnlyChannel (s t : State) (k : Fin 10) : Prop := ∀ j : Fin 10, j ≠ k → t.m.chip.ad.ch[j] = s.m.chip.ad.ch[j]

/-- The next state keeps memory, poison marks and the waiting commands. -/
def KeepsMem (s t : State) : Prop := t.m.mem = s.m.mem ∧ t.m.poison = s.m.poison ∧ t.pending = s.pending

/-- A message leaves the block, and no other does. -/
def Sends (s t : State) (m : Msg) : Prop := t.m.chip.sent = m :: s.m.chip.sent

/-- The dictionary answers on a path and the serving core runs (R31, R440, R447, R455). -/
def Serves (s : State) (p : Path) : Prop := s.m.chip.pathOpen p = true ∧ s.m.chip.coreUp = true

/-- An accepted command is answered and enters the journals (R344): with the pair link up the standby hears of the entry and, at the one that fills the journal, asks for a
snapshot; with the link down the write is unknown to it (R346). -/
def Noted (s t : State) (cl : Client) (i sub v : Nat) : Prop :=
  let c := s.m.chip
  let ser := c.mc[c.act].jserial + 1
  let ask : List Msg := if c.mc[c.act].journal.length = 1023 then [.pair (mcOf (other c.act)) .snapshotRequest] else []
  t.m.chip.sent = .answer cl 0 [] :: (if c.pair.link then ask ++ .pair (mcOf c.act) (.journal ser (okey i sub) v) :: c.sent else c.sent) ∧
    (∀ k : Fin 2, k = c.act ∨ c.pair.link = true →
      t.m.chip.mc[k].jserial = ser ∧ t.m.chip.mc[k].journal = ((ser, okey i sub, v) :: c.mc[k].journal).take 1024) ∧
    (c.pair.link = false → t.m.chip.pair.gapWrites = true)

/-- A chip with what `Noted` speaks of taken from a state. -/
def noted (t : State) (d : Chip) : Chip :=
  { d with
    sent := t.m.chip.sent, pair := { d.pair with gapWrites := t.m.chip.pair.gapWrites },
    mc := Vector.ofFn fun k : Fin 2 => { d.mc[k] with journal := t.m.chip.mc[k].journal, jserial := t.m.chip.mc[k].jserial } }

/-- A write by a client reaches the dictionary and passes every check of R443. -/
def Accepts (s : State) (cl : Client) (i sub : Nat) (data : Bytes) (memOk : Bool) : Prop :=
  Serves s cl.path ∧ (s.m.chip.touch cl).writeCheck cl i sub data memOk = (0, 0)

/-- An NMT command to this node reaches a running core (R447). -/
def NmtHears (s : State) (node : Byte) : Prop :=
  s.m.chip.served = true ∧ s.m.chip.coreUp = true ∧ s.m.chip.mod.st ≠ .unpowered ∧ s.m.chip.mod.st ≠ .aux ∧ s.m.chip.mod.st ≠ .ochre ∧
    (node = 0 ∨ node.toNat = s.m.chip.comm.nodeId)

/-- An object whose accepted write only stores the value: neither a command nor an entry that supervises RPDOs or heartbeats (R443, R450, R454). -/
def PlainObject (i sub : Nat) : Prop := plainObject i sub = true

/-- A control frame that a receiver in power checks further: a good CRC, its kind and length, encodings and reserved bits in order (R327, R330, R331). -/
def GoodFrame (s : State) (r : Receiver) (bytes : Bytes) (f : Frame) : Prop :=
  s.m.chip.mod.st ≠ .unpowered ∧ (∀ k, r = .sup k → bit s.m.chip.pwr.good 1 = true) ∧ parseFrame bytes = some f ∧ f.kind = r.kind ∧
    f.pay.length = payLen r.kind ∧ payloadOk f.kind f.pay = true ∧ bit f.flags 6 = false ∧ bit f.flags 7 = false ∧ f.state ≤ 8 ∧ fieldLe bytes 12 4 = 0

/-- The byte of memory at a local offset. -/
def State.byteAt (s : State) (a : Nat) : Byte := spGet 0 a s.m.mem

/-- A tile is the only part of the block that may differ. -/
def OnlyTile (s t : State) (g : Fin 1024) (y : Tile) : Prop := OnlyChip s t { s.m.chip with tile := vput s.m.chip.tile g y }

/-- No packet that has no arrival row can arrive now (R98, R99). -/
def Still (m : Mesh) : Prop := ∀ p ∈ m.sync, m.due p = true → (Mach.rowless p).isNone = true

/-- Nothing stands before a packet from one end to another: no earlier packet of the pair, and its route works (R99, R101). -/
def Clear (m : Mesh) (a b : MeshEnd) : Prop := (∀ p ∈ m.sync, p.src = a → p.dst ≠ b) ∧ m.waitsFor a b = false

/-- A running tile in Run has a word at its program counter, and its scoreboard holds nothing that keeps the word back (R112, R113). -/
def Issues (s : State) (g : Fin 1024) (w : W64) (u : Use) : Prop :=
  (s.m.chip.tile[g]).exec = .running ∧ (s.m.chip.tile[g]).idle = 0 ∧ (s.m.chip.progOf g)[(s.m.chip.tile[g]).pc]? = some w ∧
    Mach.heldBack (s.m.chip.tile[g]) u = false

/-- The word behind the one at the program counter is loaded (R116). -/
def NextLoaded (s : State) (g : Fin 1024) : Prop := (s.m.chip.tile[g]).pc + 1 < (s.m.chip.progOf g).length

/-- A tile after an instruction has taken its place in program order. -/
def stepped (y : Tile) : Tile := { y with pc := (y.pc + 1) % 8192, ord := y.ord + 1 }

/-- A tile stopped on the first exception since its plan started, at a place in program order and a word (R139, R141, R142). -/
def stoppedBy (y : Tile) (ord pc code detail : Nat) : Tile :=
  Chip.Tile.gate { y with exec := .exception, excCode := code, excDetail := detail % 2 ^ 32, excPc := pc, excCount := min 255 (y.excCount + 1), stopped := some ord }

/-- A word stops its tile at issue: the instruction has no effect but the exception (R141). -/
def StopsAtIssue (s t : State) (g : Fin 1024) (code detail : Nat) : Prop :=
  t.m.chip.tile[g] = stoppedBy (s.m.chip.tile[g]) (s.m.chip.tile[g]).ord (s.m.chip.tile[g]).pc code detail ∧ KeepsMem s t

/-- An instruction that falls through past the last loaded word has its effect and stops its tile: PC_RANGE at its own place, with the word index behind it
(R116; log 36). -/
def FallsOut (s t : State) (g : Fin 1024) (y : Tile) : Prop :=
  t.m.chip.tile[g] = stoppedBy (stepped y) (s.m.chip.tile[g]).ord (s.m.chip.tile[g]).pc 2 ((s.m.chip.tile[g]).pc + 1) ∧ KeepsMem s t

/-- The instructions of the matrix, vector, special-function and conversion classes with their class and operation (R110). -/
def unitInstrs : List ((Fin 1024 → Instr) × Nat × Nat) :=
  [(.mma, 2, 0), (.mst, 2, 1), (.mld, 2, 2), (.mz, 2, 3), (.vadd, 3, 0), (.vsub, 3, 1), (.vmul, 3, 2), (.vfma, 3, 3), (.vmax, 3, 4), (.vmin, 3, 5), (.vdiv, 3, 6),
   (.vabs, 3, 7), (.vrsum, 3, 8), (.vrmax, 3, 9), (.vcpy, 3, 10), (.sexp, 4, 0), (.slog, 4, 1), (.srsq, 4, 2), (.stanh, 4, 3), (.ssig, 4, 4), (.cvto, 5, 0),
   (.cvfr, 5, 1)]

/-- The operand pairings of the matrix unit (R58), and bytes of a block and columns per read of a weight format (R122). -/
def matrixPairs : List (Nat × Nat) :=
  [(9, 9), (8, 8), (1, 1), (2, 2)] ++ [3, 4, 5, 6, 7].flatMap (fun a => [3, 4, 5, 6, 7].map (fun b => (a, b)))
def blockSize : List (Nat × Nat × Nat) :=
  [(1, 64, 4), (2, 64, 4), (3, 32, 8), (4, 32, 8), (5, 24, 10), (6, 24, 10), (7, 16, 16), (8, 32, 8), (9, 16, 16)]

/-- A register that cannot name an FP32 array of some elements (R127). -/
def BadFlat (v : W64) (len : Nat) : Prop := fld v 18 46 ≠ 0 ∨ fld v 0 18 % 4 ≠ 0 ∨ 0x40000 < fld v 0 18 + 4 * len
/-- A register that cannot name a packed array of some elements; `bs` the bytes of a block (R132). -/
def BadPacked (f bs : Nat) (v : W64) (len : Nat) : Prop :=
  if 3 ≤ f then fld v 50 14 ≠ 0 ∨ fld v 18 14 ≠ 0 ∨ fld v 0 18 % 8 ≠ 0 ∨ 0x40000 < fld v 0 18 + (len + 31) / 32 * bs ∨ 0x40000 < fld v 32 18 + (len + 31) / 32
  else fld v 18 46 ≠ 0 ∨ fld v 0 18 % 2 ≠ 0 ∨ 0x40000 < fld v 0 18 + 2 * len

/-- A unit of a tile holds an instruction whose results stop nothing, in a program that is neither gone nor faulted. -/
def Finishes (s : State) (g : Fin 1024) (u : Nat) (f : Flight) : Prop :=
  Mach.inUnit (s.m.chip.tile[g]) u = some f ∧ (s.m.chip.tile[g]).exec ≠ .idle ∧ (s.m.chip.tile[g]).exec ≠ .faulted ∧ f.trap = 0

/-- The staging-file address and the FP32 word `i` of an array that a register of an instruction in a unit names (R127). -/
def arrAddr (f : Flight) (r : Nat) : Nat := fld (xget f.x r) 0 18
def State.stWord (s : State) (g : Fin 1024) (a : Nat) : W32 :=
  BitVec.ofNat 32 (numLe ((List.range 4).map (fun i => s.byteAt (stagingAddr g + a + i))))

/-- The next state holds the bytes of a list from an offset on, and every other byte as before. -/
def Stores (s t : State) (a : Nat) (data : Bytes) : Prop :=
  (∀ i (h : i < data.length), t.byteAt (a + i) = data[i]) ∧ ∀ x, x < a ∨ a + data.length ≤ x → t.byteAt x = s.byteAt x

/-! ### Exact values (R44 to R73)

What the statements hold the arithmetic against: exact rational values, written without the operations that the model rounds with. -/

/-- The magnitude of a code with its exponent field above `mb` fraction bits, the exponents going on without an end (R53, R70). -/
def magnitude (mb bias c : Nat) : Rat :=
  if c / 2 ^ mb = 0 then ((c % 2 ^ mb : Nat) : Rat) * pow2 (1 - (bias : Int) - (mb : Int))
  else ((c % 2 ^ mb + 2 ^ mb : Nat) : Rat) * pow2 (((c / 2 ^ mb : Nat) : Int) - (bias : Int) - (mb : Int))

/-- A code is the one nearest to an exact magnitude, a tie going to the even one (R62, R67): the magnitude lies between the midpoints to its neighbours. -/
def Nearest (mb bias : Nat) (x : Rat) (c : Nat) : Prop :=
  2 * x ≤ magnitude mb bias c + magnitude mb bias (c + 1) ∧ (0 < c → magnitude mb bias (c - 1) + magnitude mb bias c ≤ 2 * x) ∧
    (c % 2 = 1 → 2 * x < magnitude mb bias c + magnitude mb bias (c + 1) ∧ magnitude mb bias (c - 1) + magnitude mb bias c < 2 * x)

/-- The magnitude of a rational. -/
def absRat (x : Rat) : Rat := if x < 0 then -x else x

/-- Classes of FP32 words and the value of a finite one (R57). -/
abbrev Fin32 (a : W32) : Prop := fld a 23 8 ≠ 255
abbrev Inf32 (a : W32) : Prop := fld a 23 8 = 255 ∧ fld a 0 23 = 0
abbrev Nan32 (a : W32) : Prop := fld a 23 8 = 255 ∧ fld a 0 23 ≠ 0
def val32 (a : W32) : Rat := if bit a 31 then -magnitude 23 127 (fld a 0 31) else magnitude 23 127 (fld a 0 31)

/-- The conditions of a rounding to a code of magnitude `x`: NX where it is inexact, UF where the code is below the smallest normal too (R72, R73). -/
def roundFlags (mb bias : Nat) (x : Rat) (c : Nat) : Cond6 :=
  if magnitude mb bias c = x then 0 else if c < 2 ^ mb then cUF ||| cNX else cNX

/-- An exact value rounded once to FP32, to the nearest with ties to even, its sign as given where it is zero (R60, R62, R72, R73). -/
def Rounded (x : Rat) (neg : Bool) (r : W32 × Cond6) : Prop :=
  ∃ c, Nearest 23 127 (absRat x) c ∧
    r = if 0x7F800000 ≤ c then (inf32 neg, cOF ||| cNX) else (pack32 neg c, roundFlags 23 127 (absRat x) c)

/-- The value of a decoded element that is finite. -/
def realOf : Num → Rat
  | .fin neg m e => if neg then -((m : Rat) * pow2 e) else (m : Rat) * pow2 e
  | _ => 0
/-- Its sign. -/
def negOf : Num → Bool
  | .nan => false
  | .inf neg => neg
  | .fin neg _ _ => neg
/-- Whether it is an infinity. -/
def infOf : Num → Bool
  | .inf _ => true
  | _ => false

/-- 0 ≤ a + b √2. -/
def SurdNonneg (a b : Rat) : Prop := (0 ≤ a ∧ 0 ≤ b) ∨ (0 ≤ a ∧ 2 * b * b ≤ a * a) ∨ (0 ≤ b ∧ a * a ≤ 2 * b * b)
/-- The magnitude of a KL4 code as a + b √2 (R48). -/
def klPair (c : Nat) : Rat × Rat :=
  [(0, 0), (1, 0), (0, 1), (2, 0), (0, 2), (4, 0), (0, 4), (8, 0)].getD c (0, 0)

/-- Fraction bits, bias, element bits and largest finite magnitude of the floating element formats (R44, R53 to R55, R70), and the emax of R64, R65. -/
def floatFormats : List (Nat × Nat × Nat × Nat × Rat) :=
  [(1, 7, 127, 16, magnitude 7 127 0x7F7F), (2, 10, 15, 16, 65504), (3, 3, 7, 8, 448), (4, 2, 15, 8, 57344), (5, 2, 3, 6, 28), (6, 3, 1, 6, 15 / 2), (7, 1, 1, 4, 6)]
def emaxOf : List (Nat × Int) := [(3, 8), (4, 15), (5, 4), (6, 2), (7, 2), (8, 0), (9, 2)]

/-- The invariant of the memory: bytes and poison marks stand in their canonical forms. -/
def State.memWf (s : State) : Prop := Memory.wf s.m.mem = true ∧ s.m.poison.Pairwise (· < ·)

end Sys2Proof.Machine
end

