-- ==== Sys2Proof/Certificates/Slice0/Obligations.lean ====
section
/-!
DEFINITION. The statements for the provers.
-/
open Sys2Proof Sys2Proof.Machine Sys2Proof.Machine.Chip

/-- R475, R477, R478: the requester agrees version, capabilities and algorithms in order; with algorithms agreed, slot 0 gives the responding controller's
chain, its digest, and signed answers to CHALLENGE and GET_MEASUREMENTS: a signature is the key identifier and (r, s) over the SHA-384 digest of the message. The
layout of the messages is the model's (log 14). -/
def Obligations.SpdmConnectionAdvances : Prop := ∀ (s : State) (q : SpdmIn),
  mctpPath q.client.path = true → Serves s q.client.path →
  let c := s.m.chip
  let nonce := (wordBytes (Config.random c.free)).take 32
  let sign := fun (b : Bytes) =>
    keyId (Config.identityKey c.act.val) ++ bytesBe 96 (Config.identitySign c.act.val (BitVec.ofNat 384 (numBe (sha384 b)))).toNat
  let withSign := fun (b : Bytes) => b ++ sign b
  let moves := fun (t : State) => OnlyChip s t { c with sent := t.m.chip.sent, sec := { c.sec with spdm := t.m.chip.sec.spdm } }
  let keeps := fun (t : State) => OnlyChip s t { c with sent := t.m.chip.sent, free := t.m.chip.free }
  let agreed := 3 ≤ c.spdmStage q.client
  Runs (.getVersion q) s (fun t => Sends s t (.spdm q.client 0x04 [0, 1, 0, 0x13]) ∧ t.m.chip.spdmStage q.client = 1 ∧ moves t) ∧
  (1 ≤ c.spdmStage q.client → Runs (.getCapabilities q) s fun t =>
    Sends s t (.spdm q.client 0x61 (bytesLe 4 0x62D6)) ∧ t.m.chip.spdmStage q.client = 2 ∧ moves t) ∧
  (2 ≤ c.spdmStage q.client → Runs (.negotiateAlgorithms q) s fun t =>
    Sends s t (.spdm q.client 0x63 (bytesLe 4 4 ++ bytesLe 4 0x80 ++ bytesLe 4 2 ++ bytesLe 2 0x10 ++ bytesLe 2 2)) ∧ t.m.chip.spdmStage q.client = 3 ∧ moves t) ∧
  (agreed → Runs (.getDigests q) s fun t => Sends s t (.spdm q.client 0x01 (1 :: sha384 (Config.certChain c.act.val))) ∧ keeps t) ∧
  (agreed → q.slot = 0 → Runs (.getCertificate q) s fun t => Sends s t (.spdm q.client 0x02 (Config.certChain c.act.val)) ∧ keeps t) ∧
  (agreed → q.slot = 0 → Runs (.challenge q) s fun t =>
    Sends s t (.spdm q.client 0x03 (withSign (sha384 (Config.certChain c.act.val) ++ nonce))) ∧ keeps t) ∧
  (agreed → q.measurement = 0 → Runs (.getMeasurements q) s fun t => Sends s t (.spdm q.client 0x60 (withSign (8 :: nonce))) ∧ keeps t) ∧
  (agreed → ∀ k : Fin 9, k.val ≠ 0 → q.measurement.toNat = k.val → Runs (.getMeasurements q) s fun t =>
    Sends s t (.spdm q.client 0x60 (withSign (1 :: BitVec.ofNat 8 k.val :: c.measurement k.val ++ nonce))) ∧ keeps t) ∧
  (agreed → q.measurement = 0xFF → Runs (.getMeasurements q) s fun t =>
    Sends s t (.spdm q.client 0x60 (withSign ((8 :: (List.range 8).flatMap (fun k => BitVec.ofNat 8 (k + 1) :: c.measurement (k + 1))) ++ nonce))) ∧ keeps t) ∧
  c.measurement 7 = sha384 (bytesLe 1 c.sec.ret ++ (fins 4).flatMap (fun k => bytesLe 4 (max (Config.securityVersion k.val).toNat c.nv[c.act].secVer[k]))) ∧
  c.measurement (c.act.val + 1) = c.runningDigest c.act ∧ c.measurement ((other c.act).val + 1) = c.mc[c.act].peerMeas

/-- R477, R469: KEY_EXCHANGE opens a free one of four sessions, FINISH establishes it with a record 0x0220, HEARTBEAT and KEY_UPDATE answer on it, and
END_SESSION closes it with a record. -/
def Obligations.SpdmSessionsRun : Prop := ∀ (s : State) (q : SpdmIn),
  mctpPath q.client.path = true → Serves s q.client.path →
  let c := s.m.chip
  let held := fun (d : Chip) (k : Nat) => d.sec.spdm.any (fun x => x.session == some k)
  let mine := fun (e : Bool) => c.sec.spdm.any (fun x => decide (x.client = q.client) && x.session == some q.session.toNat && x.established == e)
  (3 ≤ c.spdmStage q.client → q.slot = 0 → (∃ k, k < 4 ∧ held c k = false) → Runs (.keyExchange q) s fun t =>
    (∃ k, k < 4 ∧ held c k = false ∧ t.m.chip.sec.spdm = ⟨q.client, 3, some k, false, c.time⟩ :: c.sec.spdm ∧
      let b := 10 :: bytesLe 2 k ++ wordBytes (Config.random c.free)
      Sends s t (.spdm q.client 0x64 (b ++ c.signed b))) ∧
    OnlyChip s t { c with sent := t.m.chip.sent, free := c.free + 1, sec := { c.sec with spdm := t.m.chip.sec.spdm } }) ∧
  (mine false = true → Runs (.finish q) s fun t =>
    Sends s t (.spdm q.client 0x65 []) ∧ t.m.chip.nv = (c.logAccess 0x0220 (srcOf q.client) (bytesLe 1 1 ++ bytesLe 1 q.session.toNat) (c.roleOfClient q.client)).nv ∧
    t.m.chip.sec.spdm = c.sec.spdm.map (fun x => if x.client = q.client ∧ x.session = some q.session.toNat then
      { x with established := true, at' := c.time } else x) ∧
    OnlyChip s t { c with sent := t.m.chip.sent, nv := t.m.chip.nv, sec := { c.sec with spdm := t.m.chip.sec.spdm } }) ∧
  (mine true = true → Runs (.heartbeat q) s fun t => Sends s t (.spdm q.client 0x68 []) ∧
    OnlyChip s t { c with sent := t.m.chip.sent, sec := { c.sec with spdm := t.m.chip.sec.spdm } }) ∧
  (mine true = true → Runs (.keyUpdate q) s fun t => Sends s t (.spdm q.client 0x69 []) ∧
    OnlyChip s t { c with sent := t.m.chip.sent, sec := { c.sec with spdm := t.m.chip.sec.spdm } }) ∧
  (mine true = true → Runs (.endSession q) s fun t => Sends s t (.spdm q.client 0x6C []) ∧
    (∀ x ∈ t.m.chip.sec.spdm, ¬(x.client = q.client ∧ x.session = some q.session.toNat)) ∧
    OnlyChip s t { c with sent := t.m.chip.sent, nv := t.m.chip.nv, sec := { c.sec with spdm := t.m.chip.sec.spdm } })

/-- R484, R485: the information commands of PLDM answer the endpoint, without effect but the answer and the access time of its role. -/
def Obligations.PldmInformationAnswers : Prop := ∀ (s : State) (cl : Client),
  mctpPath cl.path = true → Serves s cl.path → s.m.chip.sec.ret ≠ 1 →
  let c := s.m.chip
  let keeps := fun (t : State) => OnlyChip s t { c with sent := t.m.chip.sent, sec := { c.sec with roles := t.m.chip.sec.roles } }
  Runs (.queryDeviceIdentifiers cl) s (fun t => Sends s t (.pldm cl 0x01 0 (bytesLe 2 Config.pciVendor.toNat)) ∧ keeps t) ∧
  Runs (.getFirmwareParameters cl) s (fun t =>
    (∃ rest, Sends s t (.pldm cl 0x02 0 (bytesLe 2 1 ++ bytesLe 4 (c.fwVersion c.act) ++ rest))) ∧ keeps t) ∧
  (c.sec.update = none → c.sec.activating = 0 → Runs (.getStatus cl) s fun t => Sends s t (.pldm cl 0x1B 0 [0]) ∧ keeps t)

/-- R484: RequestUpdate by an endpoint with a role opens the update; by one without a role, or while another is open, it is refused with
UNABLE_TO_INITIATE_UPDATE and the update stays as it was. -/
def Obligations.UpdateOpensForRoles : Prop := ∀ (s : State) (cl : Client),
  mctpPath cl.path = true → Serves s cl.path →
  let c := s.m.chip
  (c.sec.ret ≠ 1 → c.roleOfClient cl ≠ 0 → c.sec.update = none → c.sec.activating = 0 → Runs (.requestUpdate cl) s fun t =>
    Sends s t (.pldm cl 0x10 0 []) ∧
    t.m.chip.sec.update = some { agent := cl, comp := none, version := 0, size := 0, image := [], dropped := false, verified := [] } ∧
    OnlyChip s t { c with sent := t.m.chip.sent, sec := { c.sec with roles := t.m.chip.sec.roles, update := t.m.chip.sec.update } }) ∧
  ((c.sec.ret = 1 ∨ c.roleOfClient cl = 0 ∨ c.sec.update.isSome = true) → Runs (.requestUpdate cl) s fun t =>
    Sends s t (.pldm cl 0x10 0x8A []) ∧
    OnlyChip s t { c with sent := t.m.chip.sent, nv := t.m.chip.nv, sec := { c.sec with roles := t.m.chip.sec.roles } })

/-- R484, R486, R488: the steps of an open update by its agent: the component table, the announcement of a component with the first request for data,
the data in order, the verification, and the ends. -/
def Obligations.UpdateStepsRun : Prop := ∀ (s : State) (cl : Client) (u : Update),
  mctpPath cl.path = true → Serves s cl.path → s.m.chip.sec.ret ≠ 1 → s.m.chip.sec.update = some u → u.agent = cl →
  let c := s.m.chip
  let keeps := fun (t : State) => OnlyChip s t { c with
    sent := t.m.chip.sent, nv := t.m.chip.nv, sec := { c.sec with roles := t.m.chip.sec.roles, update := t.m.chip.sec.update } }
  (∀ comp : W16, 1 ≤ comp.toNat → comp.toNat ≤ 4 → Runs (.passComponentTable cl comp) s fun t =>
    Sends s t (.pldm cl 0x13 0 []) ∧ t.m.chip.sec.update = some u ∧ keeps t) ∧
  (∀ (comp : W16) (version : W32) (size : Nat), 1 ≤ comp.toNat → comp.toNat ≤ 4 → u.comp = none → Runs (.updateComponent cl comp version size) s fun t =>
    t.m.chip.sent = .pldm cl 0x15 0 (bytesLe 4 0 ++ bytesLe 4 (min 1024 size)) :: .pldm cl 0x14 0 [] :: c.sent ∧
    t.m.chip.sec.update = some { u with comp := some comp.toNat, version := version.toNat, size := size, image := [], dropped := false } ∧ keeps t) ∧
  (∀ (off : Nat) (data : Bytes), u.comp.isSome = true → off = u.image.length → data.length ≤ 1024 → off + data.length ≤ u.size →
    Runs (.requestFirmwareData cl off data) s fun t =>
      t.m.chip.sec.update = some { u with image := u.image ++ data } ∧
      Sends s t (if off + data.length = u.size then .pldm cl 0x16 0 []
        else .pldm cl 0x15 0 (bytesLe 4 (off + data.length) ++ bytesLe 4 (min 1024 (u.size - (off + data.length))))) ∧ keeps t) ∧
  (∀ comp, u.comp = some comp → u.image.length = u.size → Runs (.verifyComplete cl) s fun t => keeps t ∧
    if c.imageOk u comp = true then
      t.m.chip.sec.update = some { u with comp := none, image := [], verified := u.verified ++ [(comp, fieldLe u.image 8 4, fieldLe u.image 12 4)] } ∧
      t.m.chip.sent = .pldm cl 0x18 0 [0] :: .pldm cl 0x17 0 [0] :: c.sent
    else t.m.chip.sec.update = some { u with comp := none, image := [] } ∧ Sends s t (.pldm cl 0x17 0 [1])) ∧
  Runs (.cancelUpdateComponent cl) s (fun t =>
    t.m.chip.sec.update = some { u with comp := none, image := [] } ∧ Sends s t (.pldm cl 0x1C 0 []) ∧ keeps t) ∧
  Runs (.cancelUpdate cl) s (fun t => t.m.chip.sec.update = none ∧ Sends s t (.pldm cl 0x1D 0 []) ∧ keeps t)

/-- R487, R488: ActivateFirmware is refused unless both controllers send, the link is up, no lock is held, no round runs and the module is not in Ochre hold;
accepted for receiver images outside Standby it stages them; a rollback puts the previous bank back and ends the activation; after an hour the recorded
security version rises on both controllers. -/
def Obligations.ActivationRules : Prop := ∀ (s : State),
  let c := s.m.chip
  (∀ (cl : Client) (u : Update), mctpPath cl.path = true → Serves s cl.path → c.sec.ret ≠ 1 → c.sec.update = some u → u.agent = cl → u.verified ≠ [] →
    (¬(c.mc[(0 : Fin 2)].sending = true ∧ c.mc[(1 : Fin 2)].sending = true ∧ c.pair.link = true ∧ c.mc[(0 : Fin 2)].lock = false ∧
      c.mc[(1 : Fin 2)].lock = false ∧ (∀ k : Fin 2, c.mc[k].round = false) ∧ c.mod.st ≠ .ochre) → Runs (.activateFirmware cl) s fun t =>
        Sends s t (.pldm cl 0x1A 0x84 []) ∧ t.m.chip.sec.update = some u ∧
        OnlyChip s t { c with sent := t.m.chip.sent, nv := t.m.chip.nv, sec := { c.sec with roles := t.m.chip.sec.roles } }) ∧
    (c.activateOk = true → c.mod.st ≠ .standby → (∀ x ∈ u.verified, x.1 ≠ 1) → Runs (.activateFirmware cl) s fun t =>
        Sends s t (.pldm cl 0x1A 0 []) ∧ t.m.chip.sec.update = none ∧ t.m.chip.sec.staged = c.sec.staged ++ u.verified ∧
        OnlyChip s t { c with sent := t.m.chip.sent, sec := { c.sec with roles := t.m.chip.sec.roles, update := none, staged := c.sec.staged ++ u.verified } })) ∧
  (∀ mc : Mc, (c.sec.activating = 1 ∨ c.sec.activating = 3) → c.mc[mc.ix].core = .rejoining → c.mc[other mc.ix].core = .running →
    c.mc[other mc.ix].sending = true → c.mc[other mc.ix].hold = 0 → Runs (.firmwareRollback mc) s fun t =>
      t.m.chip.nv[mc.ix].bankB = !c.nv[mc.ix].bankB ∧ t.m.chip.sec.activating = 0 ∧
      t.m.chip.mc[mc.ix].core = .rejoining ∧ t.m.chip.mc[mc.ix].boundary = none ∧ t.m.chip.mc[mc.ix].inStep = false ∧ t.m.chip.mc[mc.ix].okTicks = 0 ∧
      t.m.chip.mc[other mc.ix] = c.mc[other mc.ix] ∧
      t.m.chip.sent = (if c.pair.link then .pair mc .snapshotRequest :: c.sent else c.sent) ∧
      OnlyChip s t { c with mc := t.m.chip.mc, nv := t.m.chip.nv, sent := t.m.chip.sent, sec := t.m.chip.sec }) ∧
  (∀ comp : Fin 4, Runs (.securityVersionCommit comp) s fun t =>
    (∀ i : Fin 2, t.m.chip.nv[i].secVer[comp] = max c.nv[i].secVer[comp] c.sec.runSec[comp]) ∧ OnlyChip s t { c with nv := t.m.chip.nv })

/-- R479, R480: a read of 5020.01 answers a fresh challenge bound to the client; a proof is judged by the six reasons of R479; one that holds gives the role; a write of
1 to 5020.04 and 900 s without an access end it. -/
def Obligations.RolesComeAndGo : Prop := ∀ (s : State) (cl : Client),
  let c := s.m.chip
  (Serves s cl.path → Runs (.roleChallenge cl) s fun t =>
    Sends s t (.answer cl 0 (wordBytes (Config.random c.free))) ∧
    t.m.chip.sec.challenges = ⟨cl, wordBytes (Config.random c.free), c.time, false⟩ :: c.sec.challenges.filter (fun x => decide (x.client ≠ cl)) ∧
    OnlyChip s t { c with
      sent := t.m.chip.sent, free := c.free + 1,
      sec := { c.sec with roles := t.m.chip.sec.roles, challenges := t.m.chip.sec.challenges } }) ∧
  (∀ proof : Bytes, Accepts s cl 0x5020 2 proof true → Runs (.roleProof cl proof) s fun t =>
    if (c.proofReason cl proof).1 = 0 then
      Noted s t cl 0x5020 2 (numLe proof) ∧ (∃ rest, t.m.chip.sec.roles = ⟨cl, (c.proofReason cl proof).2, c.time⟩ :: rest ∧ ∀ r ∈ rest, r.client ≠ cl) ∧
      OnlyChip s t (noted t { c with
        nv := t.m.chip.nv, sec := { c.sec with roles := t.m.chip.sec.roles, challenges := t.m.chip.sec.challenges } })
    else
      Sends s t (.answer cl 0x08000000 []) ∧ t.m.chip.roleOfClient cl = c.roleOfClient cl ∧
      OnlyChip s t { c with
        sent := t.m.chip.sent, nv := t.m.chip.nv,
        sec := { c.sec with
          roles := t.m.chip.sec.roles, challenges := t.m.chip.sec.challenges, refusedAt := t.m.chip.sec.refusedAt, blockUntil := t.m.chip.sec.blockUntil } }) ∧
  (Accepts s cl 0x5020 4 [1] true → Runs (.endRole cl 1) s fun t =>
    Noted s t cl 0x5020 4 1 ∧ t.m.chip.roleOfClient cl = 0 ∧
    OnlyChip s t (noted t { c with nv := t.m.chip.nv, sec := { c.sec with roles := t.m.chip.sec.roles } })) ∧
  ((∃ r ∈ c.sec.roles, r.client = cl ∧ r.at' + secs 900 ≤ c.time) → Runs (.roleInactivityTimeout cl) s fun t =>
    t.m.chip.sec.roles = c.sec.roles.filter (fun r => !decide (r.client = cl)) ∧
    OnlyChip s t { c with nv := t.m.chip.nv, sec := { c.sec with roles := t.m.chip.sec.roles } }) ∧
  ∀ proof : Bytes,
    let held := fun (x : Challenge) => c.sec.challenges.find? (fun y => decide (y.client = cl)) = some x ∧ c.sec.blockUntil ≤ c.time
    let fresh := fun (x : Challenge) => held x ∧ x.used = false ∧ c.time - x.at' ≤ secs 60
    let msg := fun (x : Challenge) => x.value ++ wordBytes Config.serial ++ bytesLe 1 cl.path.code ++ [cl.id]
    let inst := bytesLe 113 c.credential
    let maker := fun (key : Bytes) => key.take 16 = proof.take 16 ∧ (key = Config.makerKey 0 ∨ key = Config.makerKey 1 ∧ (Config.makerKey 0).take 16 ≠ proof.take 16)
    let byInst := c.credential ≠ 0 ∧ inst.take 16 = proof.take 16
    (c.time < c.sec.blockUntil → (c.proofReason cl proof).1 = 6) ∧
    (c.sec.blockUntil ≤ c.time → (∀ x ∈ c.sec.challenges, x.client ≠ cl) → (c.proofReason cl proof).1 = 1) ∧
    (∀ x, held x → (x.used = true ∨ secs 60 < c.time - x.at') → (c.proofReason cl proof).1 = 2) ∧
    (∀ x, fresh x → ¬byInst → (∀ key, ¬maker key) → (c.proofReason cl proof).1 = 3) ∧
    (∀ x, fresh x → byInst → c.proofReason cl proof = if ecdsaOk inst (msg x) proof then (0, 1) else (4, 0)) ∧
    (∀ x key, fresh x → ¬byInst → maker key →
      c.proofReason cl proof = if !ecdsaOk key (msg x) proof then (4, 0) else if c.sec.ret = 2 then (0, 2) else (5, 0))

/-- R468, R476, R481 to R483: accepted writes of the installer credential, a plan key and the calendar take effect; the host interface receives policy and
keys as the active controller holds them. -/
def Obligations.SecurityWritesTakeEffect : Prop := ∀ (s : State) (cl : Client),
  let c := s.m.chip
  let stored := fun (t : State) => OnlyChip s t { c with
    sent := t.m.chip.sent, nv := t.m.chip.nv, mc := t.m.chip.mc, pair := { c.pair with gapWrites := t.m.chip.pair.gapWrites },
    sec := { c.sec with roles := t.m.chip.sec.roles } }
  (∀ key, Accepts s cl 0x5021 1 key true → Runs (.installerCredential cl key) s fun t =>
    t.m.chip.sent.head? = some (.answer cl 0 []) ∧ t.m.chip.val (okey 0x5021 1) = numLe key ∧ stored t) ∧
  (∀ (k : Fin 8) key, Accepts s cl 0x5011 (k.val + 1) key true → Runs (.planKey cl k key) s fun t =>
    t.m.chip.sent.head? = some (.answer cl 0 []) ∧ t.m.chip.val (okey 0x5011 (k.val + 1)) = numLe key ∧ stored t) ∧
  (∀ v : W64, Accepts s cl 0x5040 1 (wordBytes v) true → Runs (.calendarTimeSet cl v) s fun t =>
    Noted s t cl 0x5040 1 v.toNat ∧
    (∀ k : Fin 2, k = c.act ∨ c.pair.link = true → t.m.chip.nv[k].calendar = v.toNat ∧ t.m.chip.nv[k].calFrac = 0 ∧ t.m.chip.nv[k].calValid = true) ∧
    (c.pair.link = false → t.m.chip.nv[other c.act].calendar = c.nv[other c.act].calendar ∧ t.m.chip.nv[other c.act].calValid = c.nv[other c.act].calValid) ∧
    OnlyChip s t (noted t { c with nv := t.m.chip.nv, sec := { c.sec with roles := t.m.chip.sec.roles } })) ∧
  (c.railsOn = true → c.served = true → Runs .planPolicyUpdate s fun t =>
    t.m.chip.hif.policy = c.val (okey 0x5010 1) ∧ OnlyChip s t { c with hif := t.m.chip.hif })

/-- R443, R470: the checks of a write come in their order, each with its abort code; a write that fails one is answered with that code and changes nothing
but the logbook and the access time of the client's role; a refused trip acknowledgement also reports EMCY 0xFF11. -/
def Obligations.RefusedWriteChangesNothing : Prop := ∀ (s : State) (cl : Client) (i : W16) (sub : Byte) (data : Bytes),
  let c := s.m.chip
  (∀ k abort : Nat, Serves s cl.path → (c.touch cl).writeCheck cl i.toNat sub.toNat data true = (k + 1, abort) → Runs (.objectWrite cl i sub data) s fun t =>
    Sends s t (.answer cl abort []) ∧
    OnlyChip s t { c with
      sent := t.m.chip.sent, nv := t.m.chip.nv, comm := t.m.chip.comm, sec := { c.sec with roles := t.m.chip.sec.roles } } ∧
    (¬(i = 0x3800 ∧ sub = 2) → t.m.chip.comm = c.comm)) ∧
  ∀ (i sub : Nat) (memOk : Bool),
    (objIndex i = false → c.writeCheck cl i sub data memOk = (1, 0x06020000)) ∧
    (objIndex i = true → objInfo i sub = none → c.writeCheck cl i sub data memOk = (2, 0x06090011)) ∧
    (∀ e, objIndex i = true → objInfo i sub = some e → (e.acc = .ro ∨ e.acc = .const) → c.writeCheck cl i sub data memOk = (3, 0x06010002)) ∧
    (∀ e, objIndex i = true → objInfo i sub = some e → e.acc ≠ .ro → e.acc ≠ .const → c.roleOfClient cl < e.role → ¬(i = 0x5021 ∧ c.credential = 0) →
      c.writeCheck cl i sub data memOk = (4, 0x06010000)) ∧
    (∀ e, objIndex i = true → objInfo i sub = some e → e.acc ≠ .ro → e.acc ≠ .const → e.role = 1 → c.credential = 0 → i ≠ 0x5021 →
      c.writeCheck cl i sub data memOk = (4, 0x06010000)) ∧
    (∀ e, objIndex i = true → objInfo i sub = some e → e.acc ≠ .ro → e.acc ≠ .const → e.role ≤ c.roleOfClient cl → ¬(e.role = 1 ∧ c.credential = 0) →
      data.length ≠ e.ty.size → c.writeCheck cl i sub data memOk = (5, 0x06070010)) ∧
    (∀ e, objIndex i = true → objInfo i sub = some e → e.acc ≠ .ro → e.acc ≠ .const → e.role ≤ c.roleOfClient cl → ¬(e.role = 1 ∧ c.credential = 0) →
      data.length = e.ty.size →
      c.rangeCheck i sub (numLe data) e = 0 → c.sec.ret = 1 → c.writeCheck cl i sub data memOk = (7, 0x08000022))

/-- R443, R444, R445: accepted plain writes, direct and by USDO, set the value that the active controller holds and answer with success; a USDO upload
answers with the value, a DOMAIN or a longer one by one of four sessions (56 bytes an expedited transfer: log 22); an overdue segment aborts the transfer with
0x0504_0000. -/
def Obligations.DictionaryAccessWorks : Prop := ∀ (s : State),
  let c := s.m.chip
  (∀ (cl : Client) (i : W16) (sub : Byte) (data : Bytes), Accepts s cl i.toNat sub.toNat data true → PlainObject i.toNat sub.toNat →
    Runs (.objectWrite cl i sub data) s fun t =>
      t.m.chip.val (okey i.toNat sub.toNat) = numLe data ∧ t.m.chip.sent.head? = some (.answer cl 0 []) ∧
      OnlyChip s t { c with
        sent := t.m.chip.sent, nv := t.m.chip.nv, mc := t.m.chip.mc, pair := { c.pair with gapWrites := t.m.chip.pair.gapWrites },
        sec := { c.sec with roles := t.m.chip.sec.roles } }) ∧
  (∀ (node : Byte) (i : W16) (sub : Byte) (data : Bytes), c.comm.sessions = [] → Accepts s ⟨.can, node⟩ i.toNat sub.toNat data true →
    PlainObject i.toNat sub.toNat → Runs (.usdoDownload node i sub false data) s fun t =>
      t.m.chip.val (okey i.toNat sub.toNat) = numLe data ∧ t.m.chip.sent.head? = some (.usdo node 0 []) ∧ KeepsMem s t) ∧
  (∀ (node : Byte) (i : W16) (sub : Byte) (e : OInfo), c.comm.sessions = [] → Serves s .can → objInfo i.toNat sub.toNat = some e →
    ¬(i = 0x5020 ∧ sub = 1) → c.readCheck i.toNat sub.toNat = (0, 0) → Runs (.usdoUpload node i sub) s fun t =>
      let b := if e.ty = .domain then c.readDomain i.toNat else bytesLe e.ty.size (c.readRaw ⟨.can, node⟩ i.toNat sub.toNat)
      Sends s t (.usdo node 0 b) ∧
      t.m.chip.comm.sessions = (if e.ty = .domain ∨ 56 < b.length then [⟨node, okey i.toNat sub.toNat, false, false, b⟩] else []) ∧
      OnlyChip s t { c with
        sent := t.m.chip.sent, comm := { c.comm with sessions := t.m.chip.comm.sessions }, sec := { c.sec with roles := t.m.chip.sec.roles } }) ∧
  (∀ (node : Byte) (i : W16) (sub : Byte), Serves s .can → c.readCheck i.toNat sub.toNat = (0, 0) → (∃ e, objInfo i.toNat sub.toNat = some e ∧ e.ty = .domain) →
    4 ≤ (c.comm.sessions.filter (fun x => decide (x.node ≠ node))).length → Runs (.usdoUpload node i sub) s fun t =>
      Sends s t (.usdo node 0x08000000 []) ∧ t.m.chip.comm.sessions = c.comm.sessions.filter (fun x => decide (x.node ≠ node)) ∧
      OnlyChip s t { c with
        sent := t.m.chip.sent, nv := t.m.chip.nv, comm := { c.comm with sessions := t.m.chip.comm.sessions }, sec := { c.sec with roles := t.m.chip.sec.roles } }) ∧
  (∀ node : Byte, (∃ x ∈ c.comm.sessions, x.node = node) → Runs (.usdoSegmentTimeout node) s fun t =>
    Sends s t (.usdo node 0x05040000 []) ∧ t.m.chip.comm.sessions = c.comm.sessions.filter (fun x => decide (x.node ≠ node)) ∧
    OnlyChip s t { c with sent := t.m.chip.sent, comm := { c.comm with sessions := t.m.chip.comm.sessions } })

/-- R456: a well-formed read message over MCTP is answered with the bytes wanted of the object, a write message applies the object as a direct write does and answers with
its abort code, complete access takes the whole entry; a fifth request of the endpoint outstanding is dropped (the count by the tick: log 22). -/
def Obligations.MctpDictionaryAnswers : Prop := ∀ (s : State) (path : Path) (eid : Byte) (msg : Bytes),
  let c := s.m.chip
  let f := fun off len => fieldLe msg off len
  let cl : Client := ⟨path, eid⟩
  let i := f 6 2
  let sub := f 8 1
  let d := { c with comm := { c.comm with asked := c.comm.asked ++ [(path, eid)] } }
  let free := (c.comm.asked.filter (fun x => x == (path, eid))).length < 4
  let head := fun (cmd : Nat) => 16 ≤ msg.length ∧ f 0 1 = 0x7E ∧ numBe (slice msg 1 2) = Config.pciVendor.toNat ∧ f 3 1 = cmd ∧ f 5 1 ≤ 1 ∧ f 9 1 = 0
  let answer := fun (cmd abort : Nat) (b : Bytes) =>
    Msg.mctp path eid (msg.take 3 ++ bytesLe 1 (cmd + 0x80) ++ bytesLe 1 (f 4 1) ++ [if abort = 0 then 0 else 1] ++ bytesLe 4 abort ++ bytesLe 2 b.length ++ b)
  let offsetOk := f 10 4 = 0 ∨ ∃ e, objInfo i sub = some e ∧ e.ty.long = true
  let wanted := fun (b : Bytes) => (b.drop (f 10 4)).take (f 14 2)
  (Serves s path → free → head 1 → offsetOk → 1 ≤ f 14 2 → f 14 2 ≤ 1024 → f 5 1 = 0 → c.readCheck i sub = (0, 0) →
    Runs (.dictionaryReadRequest path eid msg) s fun t =>
      let challenge := i = 0x5020 ∧ sub = 1
      Sends s t (answer 1 0 (wanted (c.readBytes cl i sub))) ∧
      (challenge → t.m.chip.sec.challenges = ⟨cl, wordBytes (Config.random c.free), c.time, false⟩ :: c.sec.challenges.filter (fun x => decide (x.client ≠ cl))) ∧
      (¬challenge → t.m.chip.sec.challenges = c.sec.challenges) ∧
      OnlyChip s t { d with
        sent := t.m.chip.sent, free := if challenge then c.free + 1 else c.free,
        sec := { c.sec with roles := t.m.chip.sec.roles, challenges := t.m.chip.sec.challenges } }) ∧
  (Serves s path → free → head 1 → f 10 4 = 0 → 1 ≤ f 14 2 → f 14 2 ≤ 1024 → f 5 1 = 1 → sub = 0 → i ≠ 0x5020 → objIndex i = true → (objInfo i 0).isSome = true →
    subsOf i ≠ [] → (∀ k ∈ subsOf i, c.readCheck i k = (0, 0)) → Runs (.dictionaryReadRequest path eid msg) s fun t =>
      Sends s t (answer 1 0 ((c.readBytes cl i 0 ++ (subsOf i).flatMap (fun k => c.readBytes cl i k)).take (f 14 2))) ∧
      OnlyChip s t { d with sent := t.m.chip.sent, sec := { c.sec with roles := t.m.chip.sec.roles } }) ∧
  (Serves s path → free → head 2 → f 10 4 = 0 → f 14 2 = (msg.drop 16).length → Runs (.dictionaryWriteRequest path eid msg) s fun t =>
    let r := if f 5 1 = 1 then d.completeWrite cl i sub (msg.drop 16) else d.objWrite cl i sub (msg.drop 16) true
    t.m.chip.sent = answer 2 r.1 [] :: r.2.sent ∧ OnlyChip s t { r.2 with sent := t.m.chip.sent }) ∧
  (free → head 2 → f 10 4 = 0 → f 14 2 = (msg.drop 16).length → f 5 1 = 0 → Accepts s cl i sub (msg.drop 16) true → PlainObject i sub →
    Runs (.dictionaryWriteRequest path eid msg) s fun t =>
      t.m.chip.val (okey i sub) = numLe (msg.drop 16) ∧ t.m.chip.sent.head? = some (answer 2 0 []) ∧
      OnlyChip s t { d with
        sent := t.m.chip.sent, nv := t.m.chip.nv, mc := t.m.chip.mc, pair := { c.pair with gapWrites := t.m.chip.pair.gapWrites },
        sec := { c.sec with roles := t.m.chip.sec.roles } }) ∧
  (Serves s path → ¬free → ∀ cmd, head cmd → Runs (.dictionaryReadRequest path eid msg) s (fun t => t = s) ∧
    Runs (.dictionaryWriteRequest path eid msg) s fun t => t = s)

/-- R447: the NMT commands to this node or to all nodes set the NMT state; the two resets also send the boot-up message and end the roles of CAN FD clients. -/
def Obligations.NmtCommandsAct : Prop := ∀ (s : State) (node : Byte), NmtHears s node →
  let c := s.m.chip
  let keeps := fun (t : State) => OnlyChip s t { c with comm := t.m.chip.comm }
  Runs (.nmtStart node) s (fun t => t.m.chip.comm.nmt = 5 ∧ keeps t) ∧
  Runs (.nmtStop node) s (fun t => t.m.chip.comm.nmt = 4 ∧ keeps t) ∧
  Runs (.nmtEnterPreOperational node) s (fun t => t.m.chip.comm.nmt = 127 ∧ keeps t) ∧
  (∀ pos, Runs (.nmtResetCommunication node pos) s fun t =>
    t.m.chip.comm.nmt = 127 ∧ (∃ id, Sends s t (.can (0x700 + id) [0])) ∧ t.m.chip.comm.sessions = [] ∧
    (∀ r ∈ t.m.chip.sec.roles, r.client.path ≠ .can) ∧
    OnlyChip s t { c with
      comm := t.m.chip.comm, mc := t.m.chip.mc, nv := t.m.chip.nv, pins := { c.pins with pos := pos }, sent := t.m.chip.sent,
      sec := { c.sec with roles := t.m.chip.sec.roles } }) ∧
  (∀ pos, Runs (.nmtResetNode node pos) s fun t =>
    t.m.chip.comm.nmt = 127 ∧ (∃ id, Sends s t (.can (0x700 + id) [0])) ∧ t.m.chip.comm.sessions = [] ∧
    (∀ r ∈ t.m.chip.sec.roles, r.client.path ≠ .can) ∧ KeepsMem s t)

/-- R450, R452, R454: in NMT Operational a due TPDO and a received RPDO of one object; the waiting EMCY; heartbeats produced, received and lost. -/
def Obligations.CanTrafficRuns : Prop := ∀ (s : State),
  let c := s.m.chip
  (∀ n : Fin 8, Serves s .can → c.comm.nmt = 5 → c.pdoValid false n.val = true → c.comm.tpdo[n].ever = false → Runs (.tpdoTransmit n) s fun t =>
    Sends s t (.can (c.val (okey (0x1800 + n.val) 1) % 2 ^ 11) (c.tpdoData n.val)) ∧
    t.m.chip.comm.tpdo[n] = { last := c.tpdoData n.val, at' := c.time, ever := true } ∧
    OnlyChip s t { c with sent := t.m.chip.sent, comm := { c.comm with tpdo := t.m.chip.comm.tpdo } }) ∧
  (∀ (n : Fin 8) (data : Bytes) (v : Nat), Serves s .can → c.comm.nmt = 5 → c.pdoValid true n.val = true → c.pdoMap true n.val = [v] →
    8 * data.length = mapBits v → (∀ x ∈ c.comm.conds, x.code ≠ 0x8250) → Accepts s ⟨.can, 0⟩ (mapKey v / 256) (mapKey v % 256) data true →
    PlainObject (mapKey v / 256) (mapKey v % 256) → Runs (.rpdoReceive n data) s fun t =>
      t.m.chip.val (okey (mapKey v / 256) (mapKey v % 256)) = numLe data ∧ t.m.chip.comm.rpdoAt[n] = c.time ∧ KeepsMem s t) ∧
  (∀ n : Fin 8, c.served = true → c.comm.nmt = 5 → c.pdoValid true n.val = true → 0 < c.val (okey (0x1400 + n.val) 5) →
    10 * c.val (okey (0x1400 + n.val) 5) ≤ c.time - c.comm.rpdoAt[n] → Runs (.rpdoTimeout n) s fun t =>
      (∃ x ∈ t.m.chip.comm.conds, x.code = 0x8250 ∧ x.src = n.val + 1) ∧ OnlyChip s t { c with nv := t.m.chip.nv, comm := t.m.chip.comm }) ∧
  (∀ e rest, c.emcyOpen = true → c.comm.queue = e :: rest → c.comm.emcyAt = none → c.comm.dropped = 0 → Runs .emcySend s fun t =>
    t.m.chip.comm.queue = rest ∧ t.m.chip.comm.emcyAt = some c.time ∧
    Sends s t (.emcy (c.val (okey 0x1014 0) % 2 ^ 11) e.code c.errorRegister
      (bytesLe 1 e.src ++ bytesLe 1 e.cause ++ bytesLe 1 c.mod.st.code ++ bytesLe 2 e.value)) ∧
    OnlyChip s t { c with sent := t.m.chip.sent, comm := { c.comm with queue := rest, emcyAt := some c.time } }) ∧
  (Serves s .can → 0 < c.val (okey 0x1017 0) → Runs .heartbeatProduce s fun t =>
    Sends s t (.can (0x700 + c.comm.nodeId) (bytesLe 1 c.comm.nmt)) ∧ OnlyChip s t { c with sent := t.m.chip.sent }) ∧
  (∀ (node : Byte) (k : Fin 4), c.served = true → c.mc[c.act].core ≠ .stopped → node ≠ 0 → (c.consumer k.val).1 = node.toNat →
    Runs (.heartbeatReceive node) s fun t => t.m.chip.comm.hbLost[k] = false ∧ OnlyChip s t { c with nv := t.m.chip.nv, comm := t.m.chip.comm }) ∧
  (∀ k : Fin 4, c.served = true → (c.consumer k.val).1 ≠ 0 → Runs (.heartbeatLoss k) s fun t =>
    t.m.chip.comm.hbLost[k] = true ∧ (∃ x ∈ t.m.chip.comm.conds, x.code = 0x8130 ∧ x.src = k.val + 1) ∧
    OnlyChip s t { c with nv := t.m.chip.nv, comm := t.m.chip.comm })

/-- R453, R457 to R459: an accepted store writes the image of the area with the next serial and empties the journal: present values of the covered objects, stored ones of
the others; an accepted restore puts the area's factory defaults into the image and marks the area pending; a write of 1003.00 empties the error history. -/
def Obligations.StoreRestoreAct : Prop := ∀ (s : State) (cl : Client),
  let c := s.m.chip
  let keeps := fun (t : State) => OnlyChip s t { c with
    sent := t.m.chip.sent, nv := t.m.chip.nv, mc := t.m.chip.mc, comm := t.m.chip.comm,
    pair := { c.pair with gapWrites := t.m.chip.pair.gapWrites }, sec := { c.sec with roles := t.m.chip.sec.roles } }
  (∀ (sub : Byte) (v : W32), Accepts s cl 0x1010 sub.toNat (wordBytes v) true → Runs (.store cl sub v true) s fun t =>
    t.m.chip.mc[c.act].stored = storeImage sub.toNat (c.roleOfClient cl) c.mc[c.act] ∧ t.m.chip.mc[c.act].stored.serial = (c.mc[c.act].stored.serial + 1) % 2 ^ 32 ∧
    t.m.chip.mc[c.act].journal = [] ∧ t.m.chip.comm.stores = satAdd 32 c.comm.stores 1 ∧ t.m.chip.sent.head? = some (.answer cl 0 []) ∧ keeps t) ∧
  (∀ (sub : Byte) (v : W32), Accepts s cl 0x1011 sub.toNat (wordBytes v) true → Runs (.restore cl sub v true) s fun t =>
    t.m.chip.mc[c.act].stored = restoreImage sub.toNat c.mc[c.act].stored ∧ t.m.chip.mc[c.act].val = c.mc[c.act].val ∧
    t.m.chip.comm.restPend = (BitVec.ofNat 16 c.comm.restPend ||| BitVec.ofNat 16 (2 ^ sub.toNat)).toNat ∧ Noted s t cl 0x1011 sub.toNat v.toNat ∧ keeps t) ∧
  (Accepts s cl 0x1003 0 [0] true → Runs (.errorHistoryClear cl 0) s fun t =>
    t.m.chip.comm.hist = [] ∧ Noted s t cl 0x1003 0 0 ∧ OnlyChip s t (noted t { c with
      nv := t.m.chip.nv, comm := { c.comm with hist := [] }, sec := { c.sec with roles := t.m.chip.sec.roles } })) ∧
  (∀ (area role k : Nat) (m : Ctrl), (m.val.map (·.1)).Nodup →
    let e := storeImage area role m
    (covered area role k = true → e.val.lookup k = m.val.lookup k) ∧ (covered area role k = false → e.val.lookup k = m.stored.val.lookup k) ∧
    (covered area role k = true ↔ areaHas area (k / 256) = true ∧ isNv k = true ∧ roleOf k ≤ role) ∧
    (∀ n : Fin 32, areaHas area 0x4100 = true → 1 ≤ role →
      (bit e.slots n.val = decide (m.slots[n].st ≠ .free)) ∧ bit e.run n.val = decide (m.slots[n].st ≠ .free ∧ m.slots[n].st ≠ .stopped))) ∧
  (∀ (area k : Nat) (x : Stored), (restoreImage area x).val.lookup k = (if areaHas area (k / 256) = true then none else x.val.lookup k) ∧
    (restoreImage area x).serial = x.serial) ∧
  (∀ area i, areaHas area i = true ↔
    (area = 1 ∧ 0x1000 ≤ i ∧ i < 0x5800) ∨ (area = 3 ∧ 0x2000 ≤ i ∧ i < 0x5800) ∨ (area = 2 ∧ 0x1000 ≤ i ∧ i < 0x2000) ∨ (area = 4 ∧ 0x2000 ≤ i ∧ i < 0x2400) ∨
      (area = 5 ∧ 0x2400 ≤ i ∧ i < 0x3000) ∨ (area = 6 ∧ 0x3000 ≤ i ∧ i < 0x3800) ∨ (area = 7 ∧ 0x3800 ≤ i ∧ i < 0x4000) ∨
      (area = 8 ∧ 0x4000 ≤ i ∧ i < 0x4800) ∨ (area = 9 ∧ 0x4800 ≤ i ∧ i < 0x5000) ∨ (area = 10 ∧ 0x5000 ≤ i ∧ i < 0x5800))

/-- R455, R480: the MCTP control requests of a path are answered there; an accepted endpoint ID is taken and ends the roles of that path's clients. -/
def Obligations.MctpControlAnswers : Prop := ∀ (s : State) (path : Path) (dst : Byte) (k : Fin 3), pathIx path = some k → Serves s path →
  let c := s.m.chip
  let replied := fun (t : State) (cmd : Nat) (b : Bytes) => Sends s t (.mctp path dst ([0, 0] ++ bytesLe 1 cmd ++ b)) ∧ OnlyChip s t { c with sent := t.m.chip.sent }
  (∀ eid : Byte, eid ≠ 0 → eid ≠ 0xFF → Runs (.setEndpointId path eid) s fun t =>
    t.m.chip.comm.eid[k] = eid ∧ (∀ r ∈ t.m.chip.sec.roles, r.client.path ≠ path) ∧ Sends s t (.mctp path 0 ([0, 0] ++ bytesLe 1 1 ++ [0, 0, eid, 0])) ∧
    OnlyChip s t { c with
      sent := t.m.chip.sent, nv := t.m.chip.nv, comm := { c.comm with eid := t.m.chip.comm.eid }, sec := { c.sec with roles := t.m.chip.sec.roles } }) ∧
  Runs (.getEndpointId path dst) s (fun t => replied t 2 [0, c.comm.eid[k], 0, 0]) ∧
  (∀ typ : Byte, typ ∈ [(0xFF : Byte), 0, 1, 5, 0x7E] → Runs (.getMctpVersionSupport path dst typ) s fun t =>
    replied t 4 ([0, 1] ++ wordBytes (Config.mctpVersion typ))) ∧
  Runs (.getMessageTypeSupport path dst) s (fun t => replied t 5 [0, 3, 1, 5, 0x7E]) ∧
  Runs (.getVendorDefinedMessageSupport path dst 0) s (fun t => replied t 6 ([0, 0xFF, 0] ++ bytesBe 2 Config.pciVendor.toNat ++ [0, 0]))

/-- R466, R472, R474: the first waiting event becomes the newest record with the next number; a memory failure sets its bit and orders a last-gasp request of one serial
for three ticks; the actuator driver takes a request with a good CRC once for each serial. -/
def Obligations.LogbookWrites : Prop := ∀ (s : State) (mc : Mc),
  let c := s.m.chip
  let l := c.nv[mc.ix].log
  (∀ at' r rest, c.alive mc.ix = true → l.failed = false → l.queue = (at', r) :: rest → (∀ q, l.ring.head? = some q → sameEvent q r = false) →
    Runs (.logRecordWrite mc none) s fun t =>
      t.m.chip.nv[mc.ix].log = { l with ring := ({ r with number := l.next } :: l.ring).take 16384, next := l.next + 1, lastAt := at', queue := rest } ∧
      OnlyChip s t { c with nv := t.m.chip.nv }) ∧
  (∀ k : Fin 5, c.alive mc.ix = true → l.failed = false → Runs (.logRecordWrite mc (some k)) s fun t =>
    let x := t.m.chip.nv[mc.ix].log
    let body := bytesLe 1 (k.val + 1) ++ bytesLe 1 mc.ix.val ++ [0, 0] ++ bytesLe 4 c.nv[mc.ix].seconds ++ bytesLe 4 c.nv[mc.ix].cycles
    x.failed = true ∧ x.gaspSerial = l.gaspSerial + 1 ∧ x.gaspLeft = 3 ∧ x.gaspMsg = body ++ bytesLe 4 (crc32 body).toNat ∧
    OnlyChip s t { c with nv := t.m.chip.nv, comm := t.m.chip.comm }) ∧
  (∀ (serial : W32) (msg : Bytes), c.mod.st ≠ .unpowered → msg.length = 16 → fieldLe msg 12 4 = (crc32 (msg.take 12)).toNat →
    (mc.ix.val, serial.toNat) ∉ c.ad.gaspSeen → Runs (.lastGaspRequest mc serial msg) s fun t =>
      t.m.chip.ad.gaspNext = c.ad.gaspNext + 1 ∧ t.m.chip.ad.gaspSeen = (mc.ix.val, serial.toNat) :: c.ad.gaspSeen ∧
      ((t.m.chip.ad.gasp.toList.getD ((c.ad.gaspNext - 1) % 16) []).take 2 = [2, BitVec.ofNat 8 (fieldLe msg 0 1)]) ∧
      OnlyChip s t { c with ad := { c.ad with gasp := t.m.chip.ad.gasp, gaspNext := c.ad.gaspNext + 1, gaspSeen := t.m.chip.ad.gaspSeen } }) ∧
  (∀ (serial : W32) (msg : Bytes), (mc.ix.val, serial.toNat) ∈ c.ad.gaspSeen → Runs (.lastGaspRequest mc serial msg) s fun t => t = s)

/-- R489 to R493: an accepted request enters the erasure with its flag on both controllers and ends every role and session; the end of the erasure leaves
every stored area, key and credential at its default with the mask 0x3F; a maker command leaves return state. -/
def Obligations.ReturnStateRuns : Prop := ∀ (s : State) (cl : Client),
  let c := s.m.chip
  (Accepts s cl 0x5030 1 (wordBytes (0x6E727472 : W32)) true → Runs (.returnStateRequest cl 0x6E727472) s fun t =>
    t.m.chip.sec.ret = 1 ∧ (∀ i : Fin 2, t.m.chip.mc[i].flagErase = true) ∧ t.m.chip.sec.roles = [] ∧ t.m.chip.sec.spdm = [] ∧
    t.m.chip.sent.head? = some (.answer cl 0 []) ∧ KeepsMem s t) ∧
  (c.sec.ret = 1 → c.served = true → c.mod.st ≠ .unpowered → c.mod.st ≠ .aux → Runs .erasureComplete s fun t =>
    t.m.chip.sec.ret = 2 ∧ t.m.chip.sec.erased = 0x3F ∧ (∀ i : Fin 2, t.m.chip.nv[i].calValid = false) ∧
    (∀ i : Fin 2, t.m.chip.mc[i].stored = { resetStored with serial := c.mc[i].stored.serial } ∧ t.m.chip.mc[i].journal = [] ∧
      t.m.chip.mc[i].jserial = 0 ∧ t.m.chip.mc[i].kept = some [] ∧ t.m.chip.mc[i].flagErase = false ∧ ∀ k, isSecret k = true → t.m.chip.mc[i].val.lookup k = none) ∧
    OnlyChip s t { c with mc := t.m.chip.mc, nv := t.m.chip.nv, sec := t.m.chip.sec, comm := t.m.chip.comm }) ∧
  (Serves s cl.path → c.sec.ret = 2 → c.roleOfClient cl = 2 → Runs (.returnStateExit cl) s fun t =>
    t.m.chip.sec.ret = 0 ∧
    (∀ i : Fin 2, t.m.chip.mc[i].val = c.mc[i].stored.val ∧ t.m.chip.mc[i].slots = bootSlots c.mc[i].stored ∧ t.m.chip.mc[i].lastHandle = 0) ∧
    OnlyChip s t { c with mc := t.m.chip.mc, nv := t.m.chip.nv, sec := { c.sec with ret := 0 } })

/-- R361, R32, R34, R474: a base tick advances the time by one; a removal request or withdrawal of the cycle before enters Draining, and else a step to Package-on that
stands is taken; outside Unpowered the readings are taken, and a sending controller's frames leave on its segment, with a last-gasp request that is due after them. -/
def Obligations.ControlTickRuns : Prop := ∀ (s : State) (x : TickIn),
  let c := s.m.chip
  (c.mod.st = .unpowered → Runs (.controlTick x) s fun t => OnlyChip s t { c with time := c.time + 1 }) ∧
  (c.mod.st ≠ .unpowered → Runs (.controlTick x) s fun t =>
    t.m.chip.time = c.time + 1 ∧ t.m.chip.pins.busbar = x.volts ∧ t.m.chip.pins.amps = x.amps ∧ t.m.chip.pins.auxMv = x.auxMv ∧ KeepsMem s t ∧
    (∀ i : Fin 2, c.mc[i].core = .running → c.mc[i].sending = true → (∃ b, Msg.frame (mcOf i) b ∈ t.m.chip.sent) ∧
      (0 < c.nv[i].log.gaspLeft → Msg.gasp (mcOf i) c.nv[i].log.gaspMsg ∈ t.m.chip.sent))) ∧
  (c.mod.stopReq = none → c.mod.goOn = true → c.mod.st = .coolantReady → Runs (.controlTick x) s fun t =>
    t.m.chip.mod.st = .packageOn ∧ t.m.chip.pwr.enabled = 1 ∧ t.m.chip.pwr.phase = .up 0 ∧ KeepsMem s t) ∧
  (∀ cause, c.mod.stopReq = some cause → (c.mod.st = .coolantReady ∨ c.mod.st = .packageOn ∨ c.mod.st = .serving) → Runs (.controlTick x) s fun t =>
    t.m.chip.mod.st = .draining ∧ t.m.chip.mod.lastStop = cause ∧ t.m.chip.mod.permit = 0 ∧
    t.m.chip.mod.drain = (if c.railsOn then .commands else .closing) ∧ KeepsMem s t)

/-- R330, R331, R335, R336, R333: what a receiver does with a control frame: a bad CRC changes nothing; a newer HOLD frame is taken with its tick number and
answered on its segment, the applied payload kept and HOLDING read as 1; a copy that is not newer is discarded and counted; the blower driver applies a newer frame's duties.
R329: a status frame of the actuator driver that reaches a running controller is its telemetry of that receiver from then on. -/
def Obligations.ControlFrameJudged : Prop := ∀ (s : State) (r : Receiver) (port : Mc) (bytes : Bytes),
  let c := s.m.chip
  let v := c.recv[r.ix]
  (parseFrame bytes = none → Runs (.controlFrame r port bytes) s fun t => t = s) ∧
  (∀ f, GoodFrame s r bytes f → bit f.flags 5 = true → bit f.flags 2 = false → 1 ≤ (f.seq - v.seq).toNat → (f.seq - v.seq).toNat ≤ 10000 →
    Runs (.controlFrame r port bytes) s fun t =>
      t.m.chip.recv[r.ix].seq = f.seq ∧ t.m.chip.recv[r.ix].state = f.state ∧ t.m.chip.recv[r.ix].payload = v.payload ∧ t.m.chip.recv[r.ix].at' = c.time ∧
      t.m.chip.recv[r.ix].holding = true ∧ t.m.chip.recv[r.ix].idle = 0 ∧ (∃ b, Sends s t (.status port b)) ∧
      OnlyChip s t { c with recv := t.m.chip.recv, sent := t.m.chip.sent, sk := t.m.chip.sk }) ∧
  (∀ f, GoodFrame s r bytes f → bit f.flags 2 = false → 10000 < (f.seq - v.seq).toNat → Runs (.controlFrame r port bytes) s fun t =>
    t.m.chip.recv[r.ix] = { v with discarded := satAdd 32 v.discarded 1 } ∧ OnlyChip s t { c with recv := t.m.chip.recv }) ∧
  (∀ f, GoodFrame s .blower bytes f → c.mod.st ≠ .ochre → bit f.flags 5 = false → bit f.flags 2 = false → 1 ≤ (f.seq - c.recv[(17 : Fin 19)].seq).toNat →
    (f.seq - c.recv[(17 : Fin 19)].seq).toNat ≤ 10000 → Runs (.controlFrame .blower port bytes) s fun t =>
      (∀ b : Fin 2, t.m.chip.blow[b].duty = fieldLe f.pay (4 * b.val) 2) ∧ t.m.chip.recv[(17 : Fin 19)].payload = f.pay ∧
      (∃ b, Sends s t (.status port b)) ∧
      OnlyChip s t { c with recv := t.m.chip.recv, sent := t.m.chip.sent, blow := t.m.chip.blow, nv := t.m.chip.nv, comm := t.m.chip.comm }) ∧
  (∀ f, parseFrame bytes = some f → f.kind = 0x82 → f.pay.length = 64 → f.index ≤ 15 → c.mc[port.ix].core = .running → Runs (.statusFrame port bytes) s fun t =>
    t.m.chip.mc[port.ix].tel[(16 : Fin 19)].seen = true ∧ t.m.chip.mc[port.ix].tel[(16 : Fin 19)].seq = f.seq ∧
    t.m.chip.mc[port.ix].tel[(16 : Fin 19)].payload = f.pay ∧ t.m.chip.mc[port.ix].tel[(16 : Fin 19)].at' = c.time ∧
    OnlyChip s t { c with mc := t.m.chip.mc, nv := t.m.chip.nv })

/-- R340, R341, R342: a persistent disagreement starts a round; a round that both pass raises the alarm with event 0x03; a failing controller goes silent with
event 0x01, and with the active one control passes to the other; the alarm clears. -/
def Obligations.SelfTestOutcomes : Prop := ∀ (s : State),
  let c := s.m.chip
  let keeps := fun (t : State) => OnlyChip s t { c with mc := t.m.chip.mc, nv := t.m.chip.nv, pair := t.m.chip.pair, comm := t.m.chip.comm, sec := t.m.chip.sec }
  let both := ∀ k : Fin 2, c.mc[k].round = true
  (∀ i : Fin 2, c.mc[i].core = .running → c.mc[i].disagree = true → c.mc[i].round = false → c.mc[i].roundEnd = none → Runs .selfTestRound s fun t =>
    t.m.chip.mc[i].round = true ∧ t.m.chip.pair.rounds = satAdd 32 c.pair.rounds 1 ∧
    (c.pair.link = false → c.mc[other i].disagree = false → t.m.chip.mc[other i] = c.mc[other i] ∧ t.m.chip.sent = c.sent) ∧
    OnlyChip s t { c with mc := t.m.chip.mc, pair := { c.pair with rounds := t.m.chip.pair.rounds }, sent := t.m.chip.sent }) ∧
  (both → Runs (.selfTestEnd 0 0) s fun t =>
    (∀ k : Fin 2, t.m.chip.mc[k] = { c.mc[k] with round := false, roundEnd := some c.time, disagree := false }) ∧
    t.m.chip.pair.alarm = true ∧ t.m.chip.pair.result = 0 ∧ t.m.chip.pair.active = c.pair.active ∧
    OnlyChip s t { c with mc := t.m.chip.mc, nv := t.m.chip.nv, pair := t.m.chip.pair, comm := t.m.chip.comm }) ∧
  (∀ fa, fa ≠ 0 → both → Runs (.selfTestEnd fa 0) s fun t =>
    t.m.chip.mc[(0 : Fin 2)].core = .silent ∧ t.m.chip.mc[(0 : Fin 2)].sending = false ∧
    t.m.chip.mc[(1 : Fin 2)] = { c.mc[(1 : Fin 2)] with round := false, roundEnd := some c.time, disagree := false } ∧
    t.m.chip.pair.result.toNat = fa.toNat ∧ keeps t) ∧
  (∀ fb, fb ≠ 0 → both → c.pair.active = 1 → c.mc[(0 : Fin 2)].core = .running → c.mc[(0 : Fin 2)].sending = true → Runs (.selfTestEnd 0 fb) s fun t =>
    t.m.chip.mc[(1 : Fin 2)].core = .silent ∧ t.m.chip.pair.active = 0 ∧ t.m.chip.pair.result.toNat = 256 * fb.toNat ∧ keeps t) ∧
  (∀ fa fb, fa ≠ 0 → fb ≠ 0 → both → Runs (.selfTestEnd fa fb) s fun t =>
    t.m.chip.mc[(0 : Fin 2)].core = .silent ∧ t.m.chip.mc[(1 : Fin 2)].core = .silent ∧ t.m.chip.pair.active = 0xFF ∧ keeps t) ∧
  (c.pair.alarm = true → (∀ k : Fin 2, c.mc[k].disagree = false) → Runs .divergenceAlarmClear s fun t => OnlyChip s t { c with pair := { c.pair with alarm := false } })

/-- R325, R337, R340, R343, R349: MC-B takes the active role; a controller whose segment failed stops sending and yields; the pair link goes down; a silent
controller restarts, to rejoin beside a sending one and to resume with RESYNC where none sends; the roles of the controller that served end. -/
def Obligations.TakeoverAndSilence : Prop := ∀ (s : State) (mc : Mc),
  let c := s.m.chip
  let keeps := fun (t : State) => OnlyChip s t { c with mc := t.m.chip.mc, nv := t.m.chip.nv, pair := t.m.chip.pair, comm := t.m.chip.comm, sec := t.m.chip.sec }
  (c.pair.active = 0 → c.mc[(1 : Fin 2)].core = .running → c.mc[(1 : Fin 2)].sending = true → Runs .takeover s fun t =>
    t.m.chip.pair.active = 1 ∧ t.m.chip.pair.takeovers = satAdd 32 c.pair.takeovers 1 ∧ t.m.chip.sec.roles = [] ∧ t.m.chip.sec.spdm = [] ∧
    t.m.chip.sec.update = none ∧ t.m.chip.comm.sessions = [] ∧ keeps t) ∧
  (c.mc[mc.ix].sending = true → c.pair.active ≠ mc.ix.val → Runs (.segmentFailed mc) s fun t =>
    t.m.chip.mc[mc.ix] = { c.mc[mc.ix] with sending := false, segFail := true } ∧ t.m.chip.pair.active = c.pair.active ∧
    OnlyChip s t { c with mc := t.m.chip.mc, nv := t.m.chip.nv, pair := t.m.chip.pair, comm := t.m.chip.comm }) ∧
  (c.mc[mc.ix].sending = true → c.pair.active = mc.ix.val → c.mc[other mc.ix].sending = true → Runs (.segmentFailed mc) s fun t =>
    t.m.chip.mc[mc.ix].sending = false ∧ t.m.chip.mc[mc.ix].segFail = true ∧ t.m.chip.pair.active = (other mc.ix).val ∧ keeps t) ∧
  (c.pair.link = true → Runs .pairLinkDown s fun t =>
    t.m.chip.pair.link = false ∧ t.m.chip.pair.gapWrites = c.pair.gapWrites ∧ (∀ i : Fin 2, t.m.chip.mc[i] = { c.mc[i] with inStep := false }) ∧ keeps t) ∧
  (c.mc[mc.ix].core = .silent → c.mc[mc.ix].lock = false → c.mc[other mc.ix].core = .running → c.mc[other mc.ix].sending = true →
    c.mc[other mc.ix].hold = 0 → Runs (.silentRestart mc) s fun t =>
      t.m.chip.mc[mc.ix].core = .rejoining ∧ t.m.chip.mc[mc.ix].sending = false ∧ t.m.chip.mc[other mc.ix] = c.mc[other mc.ix] ∧
      (c.pair.active = mc.ix.val → t.m.chip.sec.roles = [] ∧ t.m.chip.comm.sessions = []) ∧
      OnlyChip s t { c with
        mc := t.m.chip.mc, nv := t.m.chip.nv, pair := t.m.chip.pair, sent := t.m.chip.sent, comm := t.m.chip.comm, sec := t.m.chip.sec }) ∧
  (c.mc[mc.ix].core = .silent → c.mc[mc.ix].lock = false → c.mc[other mc.ix].core = .silent → c.pair.active = 0xFF → Runs (.silentRestart mc) s fun t =>
    t.m.chip.mc[mc.ix].core = .running ∧ t.m.chip.mc[mc.ix].sending = true ∧ t.m.chip.mc[mc.ix].resync = 0xF ∧ t.m.chip.mc[mc.ix].hold = 10 ∧
    t.m.chip.pair.active = mc.ix.val ∧ keeps t)

/-- R345, R347, R349: a restarted core beside a sending controller rejoins without sending, and one alone resumes with RESYNC and ten HOLD frames; a
rejoiner with the pair link up and its mirror in step sends again from the agreed boundary; MC-A takes control back; a late rejoiner sends nothing for 60 s. -/
def Obligations.RestartAndRejoin : Prop := ∀ (s : State) (mc : Mc),
  let c := s.m.chip
  let i := mc.ix
  let keeps := fun (t : State) => OnlyChip s t { c with
    mc := t.m.chip.mc, nv := t.m.chip.nv, pair := t.m.chip.pair, comm := t.m.chip.comm, sec := t.m.chip.sec, sent := t.m.chip.sent }
  (c.mc[i].core = .running → c.mc[i].kept = none → c.mc[other i].core = .running → c.mc[other i].sending = true → c.mc[other i].hold = 0 →
    Runs (.controllerRestart mc .watchdog) s fun t =>
      t.m.chip.mc[i].core = .rejoining ∧ t.m.chip.mc[i].sending = false ∧ (∀ n : Fin 32, t.m.chip.mc[i].slots[n].ig = 0 ∧ t.m.chip.mc[i].slots[n].seeded = false) ∧
      t.m.chip.mc[i].val = c.mc[i].val ∧ t.m.chip.mc[other i] = c.mc[other i] ∧ keeps t) ∧
  (∀ v, c.mc[i].core = .running → c.mc[i].kept = some v → Runs (.controllerRestart mc .watchdog) s fun t =>
    t.m.chip.mc[i].kept = none ∧ t.m.chip.mc[i].slots = (bootSlots c.mc[i].stored).map (fun x => { x with seeded := false }) ∧ keeps t) ∧
  (c.mc[i].core = .running → c.mc[i].kept = none → c.mc[other i].core = .off → Runs (.controllerRestart mc .watchdog) s fun t =>
    t.m.chip.mc[i].core = .running ∧ t.m.chip.mc[i].sending = true ∧ t.m.chip.mc[i].resync = 0xF ∧ t.m.chip.mc[i].hold = 10 ∧
    t.m.chip.mc[i].val = c.mc[i].val ∧ keeps t) ∧
  (∀ b : W32, c.mc[i].core = .rejoining → c.mc[i].lock = false → c.pair.link = true → c.mc[i].inStep = true → c.mc[i].boundary = some b →
    c.mc[other i].boundary = some b → c.mc[other i].seq = b → Runs (.rejoin mc) s fun t =>
    t.m.chip.mc[i].core = .running ∧ t.m.chip.mc[i].sending = true ∧ t.m.chip.mc[i].val = c.mc[i].val ∧ t.m.chip.mc[i].seq = b ∧
    t.m.chip.pair.link = true ∧
    (mc = .a → c.pair.active = 1 → t.m.chip.pair.active = 0 ∧ t.m.chip.pair.switchbacks = satAdd 32 c.pair.switchbacks 1) ∧ keeps t) ∧
  (c.mc[i].core = .rejoining → c.mc[i].boundary = none → Runs (.rejoinTimeout mc) s fun t =>
    t.m.chip.mc[i] = { c.mc[i] with sending := false, okTicks := 0, retryAt := c.time + secs 60 } ∧ OnlyChip s t { c with mc := t.m.chip.mc })

/-- R319, R320, R343, R344, R348: an idle core stops and a wake request starts it with RESYNC; a lock is released; the standby takes a journal entry
into its mirror and every tick message the frame sequence counter; a failed image check silences the standby. -/
def Obligations.CoresStopWakeMirror : Prop := ∀ (s : State) (mc : Mc),
  let c := s.m.chip
  let i := mc.ix
  (c.mayStop i = true → Runs (.coreStop mc) s fun t =>
    t.m.chip.mc[i] = { c.mc[i] with core := .stopped, sending := false } ∧ OnlyChip s t { c with mc := t.m.chip.mc }) ∧
  (∀ src, c.mc[i].core = .stopped → Runs (.coreWake mc src) s fun t =>
    t.m.chip.mc[i] = { c.mc[i] with core := .running, sending := true, resync := 0xF } ∧ OnlyChip s t { c with mc := t.m.chip.mc }) ∧
  (∀ cl : Client, Accepts s cl 0x4801 3 [3] true → Runs (.releaseSilenceLock cl 3) s fun t =>
    Noted s t cl 0x4801 3 3 ∧
    OnlyChip s t (noted t { c with mc := c.mc.map (fun (m : Ctrl) => { m with lock := false }), nv := t.m.chip.nv, sec := { c.sec with roles := t.m.chip.sec.roles } })) ∧
  (∀ ser k v, c.mc[i].core = .running → i ≠ c.act → c.mc[i].jserial < ser →
    let journal := ((ser, k, v) :: c.mc[i].journal).take 1024
    let asks := fun (t : State) => t.m.chip.sent = if c.mc[i].journal.length = 1023 then .pair mc .snapshotRequest :: c.sent else c.sent
    (storesValue (k / 256) (k % 256) = true → Runs (.pairLinkMessage mc (.journal ser k v)) s fun t =>
      t.m.chip.mc[i] = { c.mc[i] with val := omSet k v c.mc[i].val, kept := c.mc[i].kept.map (omSet k v), jserial := ser, journal := journal } ∧
      t.m.chip.mc[other i] = c.mc[other i] ∧ asks t ∧ OnlyChip s t { c with mc := t.m.chip.mc, sent := t.m.chip.sent }) ∧
    (storesValue (k / 256) (k % 256) = false → Runs (.pairLinkMessage mc (.journal ser k v)) s fun t =>
      t.m.chip.mc[i] = { c.mc[i] with jserial := ser, journal := journal } ∧ t.m.chip.mc[other i] = c.mc[other i] ∧ asks t ∧
      t.m.chip.nv[i] = (if k = okey 0x5040 1 then { c.nv[i] with calendar := v, calFrac := 0, calValid := true } else c.nv[i]) ∧
      OnlyChip s t { c with mc := t.m.chip.mc, nv := vput c.nv i t.m.chip.nv[i], sent := t.m.chip.sent })) ∧
  (∀ seq sup power ad blow, c.mc[i].core = .running → Runs (.pairLinkMessage mc (.tick seq sup power ad blow)) s fun t =>
    t.m.chip.mc[i].mirSeq = seq ∧ t.m.chip.pair.linkAt[i] = c.time ∧
    OnlyChip s t { c with mc := t.m.chip.mc, nv := t.m.chip.nv, pair := t.m.chip.pair, sent := t.m.chip.sent }) ∧
  (c.served = true → c.pair.handover = none → c.mc[other c.act].core = .running → Runs (.standbyImageCheck false) s fun t =>
    t.m.chip.mc[other c.act].core = .silent ∧ t.m.chip.mc[c.act] = c.mc[c.act] ∧
    OnlyChip s t { c with mc := t.m.chip.mc, nv := t.m.chip.nv, pair := t.m.chip.pair, comm := t.m.chip.comm })

/-- R353: an accepted create takes the lowest Free slot, Stopped with its generation, and its handle is the last created; an accepted destroy frees the
slot its handle names with the next generation; no other slot changes. -/
def Obligations.SlotsCreatedAndDestroyed : Prop := ∀ (s : State) (cl : Client),
  let c := s.m.chip
  let a := c.act
  let keeps := fun (t : State) (sub v : Nat) => Noted s t cl 0x4020 sub v ∧
    OnlyChip s t { c with
      sent := t.m.chip.sent, nv := t.m.chip.nv, mc := t.m.chip.mc, pair := { c.pair with gapWrites := t.m.chip.pair.gapWrites },
      sec := { c.sec with roles := t.m.chip.sec.roles } }
  (∀ cls : Byte, Accepts s cl 0x4020 1 [cls] true → Runs (.createSlot cl cls) s fun t =>
    (∃ n : Fin 32, c.mc[a].slots[n].st = .free ∧ (∀ m : Fin 32, m < n → c.mc[a].slots[m].st ≠ .free) ∧
      t.m.chip.mc[a].slots[n] = { resetSlot with gen := c.mc[a].slots[n].gen, st := .stopped } ∧
      t.m.chip.mc[a].lastHandle = BitVec.ofNat 32 (slotHandle n c.mc[a].slots[n]) ∧ t.m.chip.slotCls a n.val = cls.toNat ∧
      ∀ m : Fin 32, m ≠ n → t.m.chip.mc[a].slots[m] = c.mc[a].slots[m]) ∧ keeps t 1 cls.toNat) ∧
  (∀ (h : W32) (n : Fin 32), Accepts s cl 0x4020 3 (wordBytes h) true → slotHandle n c.mc[a].slots[n] = h.toNat → c.mc[a].slots[n].st = .stopped →
    Runs (.destroySlot cl h) s fun t =>
      t.m.chip.mc[a].slots[n] = { resetSlot with gen := BitVec.ofNat 14 (nextGen c.mc[a].slots[n].gen.toNat) } ∧
      (∀ m : Fin 32, m ≠ n → t.m.chip.mc[a].slots[m] = c.mc[a].slots[m]) ∧ keeps t 3 h.toNat)

/-- R353, R376, R379, R382: the slot commands of object B+0.03, the clear of a fault and the test commands move the slot as the tables say, on the active
controller and, while the pair link is up, on the standby; no other slot changes. -/
def Obligations.SlotCommandsMove : Prop := ∀ (s : State) (cl : Client) (n : Fin 32),
  let c := s.m.chip
  let a := c.act
  let old := c.mc[a].slots[n]
  let keeps := fun (t : State) (o sub v : Nat) => Noted s t cl (slotBase n.val + o) sub v ∧ (∀ m : Fin 32, m ≠ n → t.m.chip.mc[a].slots[m] = c.mc[a].slots[m]) ∧
    OnlyChip s t { c with
      sent := t.m.chip.sent, nv := t.m.chip.nv, mc := t.m.chip.mc, comm := t.m.chip.comm, pair := { c.pair with gapWrites := t.m.chip.pair.gapWrites },
      sec := { c.sec with roles := t.m.chip.sec.roles } }
  (Accepts s cl (slotBase n.val) 3 [1] true → old.st = .stopped → Runs (.slotStart cl n) s fun t =>
    t.m.chip.mc[a].slots[n].st = .running ∧ t.m.chip.mc[a].slots[n].seeded = false ∧ keeps t 0 3 1) ∧
  (Accepts s cl (slotBase n.val) 3 [2] true → (old.st = .running ∨ old.st = .frozen ∨ old.st = .faulted) → Runs (.slotStop cl n) s fun t =>
    t.m.chip.mc[a].slots[n].st = .stopped ∧ t.m.chip.mc[a].slots[n].code = 0 ∧ keeps t 0 3 2) ∧
  (Accepts s cl (slotBase n.val) 3 [3] true → old.st = .running → Runs (.slotFreeze cl n) s fun t =>
    t.m.chip.mc[a].slots[n] = abortTest { old with st := .frozen } ∧ keeps t 0 3 3) ∧
  (Accepts s cl (slotBase n.val) 3 [4] true → old.st = .frozen → Runs (.slotRelease cl n) s fun t =>
    t.m.chip.mc[a].slots[n] = { old with st := .running, seeded := false, toOwn := old.out } ∧ keeps t 0 3 4) ∧
  (Accepts s cl (slotBase n.val) 4 [1] true → old.st = .faulted → Runs (.clearFault cl n 1) s fun t =>
    t.m.chip.mc[a].slots[n].st = .running ∧ t.m.chip.mc[a].slots[n].code = 0 ∧ t.m.chip.mc[a].slots[n].seeded = false ∧
    (∀ x ∈ t.m.chip.comm.conds, ¬(x.code = 0x8610 + old.code ∧ x.src = n.val)) ∧ keeps t 0 4 1) ∧
  (Accepts s cl (slotBase n.val + 7) 8 [1] true → Runs (.testStartCommand cl n) s fun t =>
    t.m.chip.mc[a].slots[n] = { old with test := 1, testAt := c.time, testK := 0, phase := 0, reg := 0x7FF } ∧ keeps t 7 8 1) ∧
  (Accepts s cl (slotBase n.val + 7) 8 [2] true → Runs (.testAbort cl n) s fun t => t.m.chip.mc[a].slots[n] = abortTest old ∧ keeps t 7 8 2)

/-- R363, R371, R373, R374, R376, R382, R383: missed deadlines, the following error, the scheduled test start, the dispatch input's timers, and the capture commands. -/
def Obligations.LoopEventsAct : Prop := ∀ (s : State),
  let c := s.m.chip
  (∀ (mc : Mc) (n : Fin 32), c.mc[mc.ix].slots[n].st = .running → computes c.mod.st (c.slotCls mc.ix n.val) = true → c.mc[mc.ix].slots[n].late < 2 →
    Runs (.deadlineMiss mc n) s fun t =>
      t.m.chip.mc[mc.ix].slots[n] = { c.mc[mc.ix].slots[n] with late := c.mc[mc.ix].slots[n].late + 1, lateNow := true } ∧
      t.m.chip.mc[mc.ix].lateCount = satAdd 32 c.mc[mc.ix].lateCount 1 ∧ OnlyChip s t { c with mc := t.m.chip.mc }) ∧
  (∀ (mc : Mc) (n : Fin 32), c.mc[mc.ix].slots[n].st = .running → computes c.mod.st (c.slotCls mc.ix n.val) = true → 2 ≤ c.mc[mc.ix].slots[n].late →
    Runs (.deadlineMiss mc n) s fun t =>
      t.m.chip.mc[mc.ix].slots[n].st = .faulted ∧ t.m.chip.mc[mc.ix].slots[n].code = 1 ∧
      OnlyChip s t { c with mc := t.m.chip.mc, nv := t.m.chip.nv, comm := t.m.chip.comm }) ∧
  (∀ (mc : Mc) (n : Fin 32), c.mc[mc.ix].slots[n].st = .running → c.slotNat mc.ix n.val 0 0x11 = 0 → c.slotObj mc.ix n.val 0 0xD ≠ 0 →
    0 < c.mc[mc.ix].slots[n].foTime → msecs (c.slotNat mc.ix n.val 0 0xE) ≤ c.mc[mc.ix].slots[n].foTime → Runs (.followingErrorExpiry mc n) s fun t =>
      t.m.chip.mc[mc.ix].slots[n].st = .faulted ∧ t.m.chip.mc[mc.ix].slots[n].code = 2 ∧
      t.m.chip.mc[mc.ix].slots[n].om = (if c.slotNat mc.ix n.val 0 0xA = 1 then c.slotObj mc.ix n.val 0 0xB else c.mc[mc.ix].slots[n].om) ∧
      OnlyChip s t { c with mc := t.m.chip.mc, nv := t.m.chip.nv, comm := t.m.chip.comm }) ∧
  (∀ n : Fin 32,
    let seq := c.mc[c.act].seq.toNat
    let due := seq % 100 = 0 ∧ seq % divider (c.slotCls c.act n) = c.slotNat c.act n 0 6 ∧ c.mc[c.act].slots[n].testAt + 100 ≤ c.time
    (due → (∀ i : Fin 2, c.mc[i].slots[n].test = 1) → Runs (.testStart n) s fun t =>
      (∀ i : Fin 2, t.m.chip.mc[i].slots[n] = { c.mc[i].slots[n] with test := 2 }) ∧ OnlyChip s t { c with mc := t.m.chip.mc }) ∧
    (¬due → Runs (.testStart n) s fun t => t = s)) ∧
  ((∀ i : Fin 2, c.mc[i].disp.holding = true) → Runs .dispatchHoldExpiry s fun t =>
    (∀ i : Fin 2, t.m.chip.mc[i].disp = { c.mc[i].disp with fallback := true }) ∧ OnlyChip s t { c with mc := t.m.chip.mc }) ∧
  ((∀ i : Fin 2, c.mc[i].disp.recovering = true) → Runs .dispatchRecovery s fun t =>
    (∀ i : Fin 2, t.m.chip.mc[i].disp = { c.mc[i].disp with valid := true, holding := false, fallback := false, recovering := false, ramping := true }) ∧
    OnlyChip s t { c with mc := t.m.chip.mc }) ∧
  Runs .pulseInputStuck s (fun t => (∀ i : Fin 2, t.m.chip.mc[i].disp.stuck = true) ∧ OnlyChip s t { c with mc := t.m.chip.mc }) ∧
  (∀ cl : Client,
    let keeps := fun (t : State) (v : Nat) => Noted s t cl 0x4600 4 v ∧
      OnlyChip s t { c with
        sent := t.m.chip.sent, nv := t.m.chip.nv, mc := t.m.chip.mc, pair := { c.pair with gapWrites := t.m.chip.pair.gapWrites },
        sec := { c.sec with roles := t.m.chip.sec.roles } }
    (Accepts s cl 0x4600 4 [1] true → Runs (.captureArm cl) s fun t =>
      t.m.chip.mc[c.act].cap = { status := 1, skip := 0, recs := [] } ∧ keeps t 1) ∧
    (Accepts s cl 0x4600 4 [2] true → Runs (.captureStart cl) s fun t =>
      t.m.chip.mc[c.act].cap = { status := 2, skip := 0, recs := [] } ∧ keeps t 2) ∧
    (Accepts s cl 0x4600 4 [3] true → c.mc[c.act].cap.status = 2 → Runs (.captureStop cl) s fun t =>
      t.m.chip.mc[c.act].cap = { c.mc[c.act].cap with status := 4 } ∧ keeps t 3))

/-- R364, R365, R366, R367: the applied ceiling is the lowest of the group's outputs, the tracking limit and the rated or protection ceiling, but not below the floor, and the selected
code names whose value it is; a member above the applied ceiling plus the headroom is lowered to it with its integrator, no other slot changes; the announced allowance
comes and goes with its posts; and a control tick leaves what arbitration gives, distributed to the supervisors and the power stages. -/
def Obligations.ArbitrationBoundsTheGroup : Prop :=
  (∀ (c : Chip) (i : Fin 2),
    let d := c.arbitrate i
    let floor := c.valOf i (okey 0x4000 6)
    let top := c.ceilTop i
    let track := c.tracking i
    let lim : Int := (min top track : Nat)
    let grp := c.groupSlots i
    let om := fun (n : Fin 32) => c.mc[i].slots[n].om
    let cap : Int := d.mc[i].applied + c.valOf i (okey 0x4000 2)
    (d.mc[i].applied : Int) = max (floor : Int) (grp.foldl (fun a n => min a (om n)) lim) ∧
    (∀ n ∈ grp, om n ≤ lim → (∀ m ∈ grp, om n < om m ∨ (om n = om m ∧ n ≤ m)) → d.mc[i].selected = n.val) ∧
    ((∀ n ∈ grp, lim < om n) → d.mc[i].selected = if track < top then 0xFE else 0xFD) ∧
    (∀ n ∈ grp, cap < om n →
      d.mc[i].slots[n] = { c.mc[i].slots[n] with om := cap, ig := satS 32 (c.mc[i].slots[n].ig - (om n - cap) * 2 ^ 14) }) ∧
    (∀ n, (n ∈ grp → om n ≤ cap) → d.mc[i].slots[n] = c.mc[i].slots[n])) ∧
  -- the tracking limit
  (∀ (c : Chip) (i : Fin 2), c.allowance i ≤ 3120 ∧
    (c.mod.rampFrom = none → c.tracking i = c.pkgPower i + c.valOf i (okey 0x4000 3) + 8 * c.allowance i)) ∧
  (∀ (c : Chip) (i : Fin 2) (q : Post), c.mc[i].posts = [q] → 0 < q.step → q.step ≤ 3120 → q.allow = true →
    let ended := q.power + 8 * q.step.toNat * 8 / 10 < c.pkgPower i ∨ (q.lead + 99) / 100 + msecs 10 ≤ c.time - q.at'
    (q.fresh = true → (c.agePosts i).allowance i = q.step.toNat) ∧
    (q.fresh = false → (c.agePosts i).allowance i = if ended then 0 else q.step.toNat)) ∧
  -- a control tick
  (∀ (s : State) (x : TickIn) (k : Fin 2), s.m.chip.mod.st ≠ .unpowered →
    let p := if k = 0 then s.m.chip.tickRead x else (s.m.chip.tickRead x).mcTick 0 x
    let d := ((((p.framesOut k).latchInputs k x).beforeSlots k x).runSlots k).arbitrate k
    p.mc[k].core = .running → Runs (.controlTick x) s fun t =>
      let m := t.m.chip.mc[k]
      let ready := (fins 16).filter fun j => telState (t.m.chip.supTel k j.val) = 2
      m.applied = d.mc[k].applied ∧ m.selected = d.mc[k].selected ∧ (p.pair.active = k.val → p.pair.handover = none → m.slots = d.mc[k].slots) ∧
      m.out.pkgCeil = m.applied ∧
      (∀ j : Fin 16, j ∈ ready → m.out.skCeil[j] = m.applied / ready.length ∧ m.out.clk[j] = t.m.chip.valOf k (okey 0x4000 7)) ∧
      (∀ j : Fin 16, j ∉ ready → m.out.skCeil[j] = 0 ∧ m.out.clk[j] = 8) ∧ m.out.skCeil.toList.sum ≤ m.applied ∧
      m.out.iLim = 4200 * 10 * 100 / clampNat 4400 6300 (t.m.chip.telVolts k))

/-- R356, R357, R358, R359, R360: a control tick gives a due slot of the active controller the values of its law, PID or schedule, and seeds one that starts; a seeded slot's
terms add up to its target, and its next sample with an unchanged measurement and no integral gain keeps that output; the gain follows its table. Slots outside the package
ceiling group, which arbitration leaves alone. -/
def Obligations.SlotsSampleAndSeed : Prop :=
  (∀ (s : State) (x : TickIn) (k : Fin 2) (n : Fin 32), s.m.chip.mod.st ≠ .unpowered →
    let p := if k = 0 then s.m.chip.tickRead x else (s.m.chip.tickRead x).mcTick 0 x
    let c := ((p.framesOut k).latchInputs k x).beforeSlots k x
    let o := c.mc[k].slots[n]
    let cls := c.slotCls k n
    let code := c.slotIn k n
    let law := c.slotNat k n 0 0x11
    let count := c.slotNat k n 0 0x13
    let obj := fun (a b : Nat) => c.slotObj k n a b
    let ex := fun (b : Nat) => c.slotExp k n b
    let ym := match c.inputOf k code with
      | some v => satS 18 (rne (v * pow2 (-(ex 1))))
      | none => o.ymPrev
    p.mc[k].core = .running → p.pair.active = k.val → p.pair.handover = none → c.mc[k].hold = 0 → c.slotOut k n ≠ 1 → o.st = .running → cls ≤ 3 →
    computes c.mod.st cls = true → c.inputFault k code = false → c.inputAbsent k code = false →
    -- a sample in PID law
    (o.seeded = true → o.lateNow = false → c.mc[k].seq.toNat % divider cls = c.slotNat k n 0 6 → law ≠ 1 → Runs (.controlTick x) s fun t =>
      let y := t.m.chip.mc[k].slots[n]
      let atSp := c.slotNat k n 7 2 = 0
      let j := c.injection k n
      let ig := satS 32 (o.ig + rne ((obj 3 1 * y.um : Int) * pow2 (ex 4 + 14)))
      let rest := y.um + y.dm + y.ffm + y.jm
      y.ym = ym ∧ y.ymPrev = ym ∧ y.em = satS 18 (obj 1 1 + (if atSp then j else 0) - ym) ∧
      y.um = satS 18 (rne ((gainAt y.em (fun b => obj 4 (b + 1)) (fun b => obj 5 (b + 1)) count * y.em : Int) * pow2 (ex 2 + ex 1 - ex 3))) ∧
      y.df = satS 18 (o.df + rne ((o.ymPrev - ym - o.df : Int) * pow2 (-(c.slotNat k n 3 3 : Int)))) ∧
      y.dm = satS 18 (rne ((obj 3 2 * y.df : Int) * pow2 (ex 5 + ex 1 - ex 3))) ∧ y.ffm = satS 18 (c.feedForward k n) ∧ y.jm = (if atSp then 0 else j) ∧
      y.im = rne ((ig : Rat) / ((2 ^ 14 : Nat) : Rat)) ∧
      (obj 1 2 ≤ rest + y.im → rest + y.im ≤ obj 1 3 → y.om = rest + y.im ∧ y.ig = ig) ∧
      (obj 1 2 ≤ obj 1 3 → obj 1 3 < rest + y.im → y.om = obj 1 3 ∧ y.ig = satS 32 ((obj 1 3 - rest) * 2 ^ 14)) ∧
      (obj 1 2 ≤ obj 1 3 → rest + y.im < obj 1 2 → y.om = obj 1 2 ∧ y.ig = satS 32 ((obj 1 2 - rest) * 2 ^ 14))) ∧
    -- a sample in schedule law
    (o.seeded = true → o.lateNow = false → c.mc[k].seq.toNat % divider cls = c.slotNat k n 0 6 → law = 1 → 0 ≤ obj 0 0x12 → o.k < count → Runs (.controlTick x) s fun t =>
      let y := t.m.chip.mc[k].slots[n]
      y.ym = ym ∧ y.om = max (obj 1 2) (min (obj 1 3) (obj 5 (y.k + 1))) ∧ y.ig = o.ig ∧ y.k < count ∧ (y.k + 1 < count → ym < obj 4 (y.k + 2)) ∧
      (0 < y.k → obj 4 (y.k + 1) - obj 0 0x12 ≤ ym)) ∧
    -- a slot that starts is seeded, in PID law without a sample in that tick
    (o.seeded = false → o.toOwn = false → law ≠ 1 → Runs (.controlTick x) s fun t => t.m.chip.mc[k].slots[n] = c.seedNow k n o)) ∧
  -- seeding
  (∀ (c : Chip) (i : Fin 2) (n : Fin 32) (s : Slot), c.slotNat i n 0 0x11 ≠ 1 →
    let y := c.seedNow i n s
    let target := if s.toOwn then s.om else c.seedTarget i n
    y.um + y.im + y.dm + y.ffm + y.jm = target ∧ y.om = target ∧ y.ig = satS 32 (y.im * 2 ^ 14) ∧ y.df = 0 ∧ y.ymPrev = c.measure i n s ∧ y.seeded = true ∧
    (c.slotObj i n 3 1 = 0 → -(2 ^ 31) ≤ y.im * 2 ^ 14 → y.im * 2 ^ 14 < 2 ^ 31 → c.slotObj i n 1 2 ≤ target → target ≤ c.slotObj i n 1 3 →
      (c.sampleSlot i n y).om = target)) ∧
  (∀ (c : Chip) (i : Fin 2) (n : Fin 32), c.slotOut i n = 1 → c.seedTarget i n = c.mc[i].applied + c.valOf i (okey 0x4000 2)) ∧
  -- the gain table
  (∀ (em : Int) (x g : Nat → Int) (count : Nat), 0 < count → (∀ a b, a < b → b < count → x a < x b) →
    (em ≤ x 0 → gainAt em x g count = g 0) ∧ (x (count - 1) ≤ em → gainAt em x g count = g (count - 1)) ∧
    (∀ j, j + 1 < count → x j ≤ em → em < x (j + 1) →
      gainAt em x g count = g j + rne (((g (j + 1) - g j) * (em - x j) : Int) / ((x (j + 1) - x j : Int) : Rat)) ∧
      min (g j) (g (j + 1)) ≤ gainAt em x g count ∧ gainAt em x g count ≤ max (g j) (g (j + 1))))

/-- R422, R440, R32, R416, R40: valid auxiliary power enters Aux with both cores starting, or Tripped where the actuator driver recorded causes; a ready
dictionary enters Standby with the boot-up message; losing auxiliary power leaves stored images, logbooks, last-gasp records and bytes behind CXL windows only. -/
def Obligations.AuxiliaryPowerComesAndGoes : Prop := ∀ (s : State),
  let c := s.m.chip
  (∀ pos bad logBad, c.mod.st = .unpowered → Runs (.auxPowerValid pos bad logBad) s fun t =>
    t.m.chip.mod.st = (if c.ad.nvCauses = 0 then .aux else .tripped) ∧ t.m.chip.ad.latch = c.ad.nvCauses ∧ t.m.chip.pwr.latchTrip = c.ad.nvCauses ∧
    t.m.chip.pins = { c.pins with pos := pos, ignored := c.pins.pressed, request := false } ∧ t.m.chip.ad.cycles = c.ad.cycles + 1 ∧
    (∀ i : Fin 2, t.m.chip.mc[i].core = .starting ∧ t.m.chip.nv[i].cycles = c.nv[i].cycles + 1 ∧ t.m.chip.nv[i].log.ring.map LogRec.number = c.nv[i].log.ring.map LogRec.number) ∧
    OnlyAnnounced s t { c with
      mod := t.m.chip.mod, pins := t.m.chip.pins, mc := t.m.chip.mc, ad := t.m.chip.ad, pwr := { c.pwr with latchTrip := c.ad.nvCauses },
      blow := t.m.chip.blow }) ∧
  (∀ mc : Mc, c.mc[mc.ix].core = .starting → (c.mc[other mc.ix].core = .starting ∨ c.mc[other mc.ix].core = .off) → c.mod.st = .aux → c.pair.active = 0xFF →
    Runs (.dictionaryReady mc) s fun t =>
      t.m.chip.mod.st = .standby ∧ t.m.chip.mod.autoDone = false ∧ t.m.chip.pair.active = mc.ix.val ∧ Sends s t (.can (0x700 + c.comm.nodeId) [0]) ∧
      t.m.chip.mc[mc.ix].core = .running ∧ t.m.chip.mc[mc.ix].sending = true ∧ t.m.chip.mc[mc.ix].val = c.mc[mc.ix].val ∧
      t.m.chip.mc[other mc.ix].core = c.mc[other mc.ix].core ∧
      OnlyAnnounced s t { c with
        mod := t.m.chip.mod, mc := t.m.chip.mc, pair := t.m.chip.pair, sec := t.m.chip.sec, recv := t.m.chip.recv, sent := t.m.chip.sent }) ∧
  Runs .auxPowerLost s (fun t =>
    t.m.chip.mod.st = .unpowered ∧ t.m.chip.pwr = { resetPower with engFailed := c.pwr.engFailed } ∧ t.m.chip.pair = resetPair ∧ t.m.chip.ad.gasp = c.ad.gasp ∧
    t.m.chip.ad.nvCauses = c.ad.nvCauses ∧
    (∀ i : Fin 2, t.m.chip.mc[i] = { resetCtrl with stored := c.mc[i].stored, flagErase := c.mc[i].flagErase } ∧
      t.m.chip.nv[i].log.ring = c.nv[i].log.ring ∧ t.m.chip.nv[i].cycles = c.nv[i].cycles) ∧
    (∀ a, t.byteAt a = if 0x100000000000 ≤ a ∧ a < 0xFF0000000000 then s.byteAt a else 0) ∧ t.pending = s.pending)

/-- R32, R427, R428, R429: a grant in Standby opens the inlet with its target in force, and no core stays stopped; the fill is recorded and the inlet closes, or there is no supply;
the hold passes within the limit and fails beyond it, and so does a valve pair that refuses to energise; a withdrawal ends the opening, or stands until the controller cycle ends (R34). -/
def Obligations.CoolantPathOpens : Prop := ∀ (s : State),
  let c := s.m.chip
  let ready := c.mod.st = .standby ∧ c.mod.opening = .idle
  let inlet := fun (t : State) =>
    (∀ k : Fin 10, 2 ≤ k.val → t.m.chip.ad.ch[k] = c.ad.ch[k]) ∧
    (c.ad.boost = true → (∀ k : Fin 10, k.val < 4 → c.ad.ch[k].phase = .off) → ∀ k : Fin 10, k.val < 2 → c.ad.ch[k].locked = false →
      t.m.chip.ad.ch[k].phase = .peak)
  let target := c.val (okey 0x2400 3)
  let awake := c.mc.map fun (m : Ctrl) => if m.core = .stopped then { m with core := .running, sending := true, resync := 0xF } else m
  let woken := fun (t : State) => t.m.chip.mc = awake
  (ready → c.mod.autoDone = false → target ≠ 0 → c.sec.ret = 0 → c.permitChecks = true → c.ad.ch[(0 : Fin 10)].locked = false → Runs .automaticGrant s fun t =>
    t.m.chip.mod = { c.mod with permit := target, autoDone := true, opening := .inlet } ∧ inlet t ∧ woken t ∧
    OnlyChip s t { c with mod := t.m.chip.mod, mc := t.m.chip.mc, ad := { c.ad with ch := t.m.chip.ad.ch } }) ∧
  (∀ (cl : Client) (g : Byte), ready → g ≠ 0 → c.ad.ch[(0 : Fin 10)].locked = false → Accepts s cl 0x2400 2 [g] true → Runs (.permissionGrant cl g) s fun t =>
    inlet t ∧ Noted s t cl 0x2400 2 g.toNat ∧
    OnlyChip s t (noted t { c with
      mod := { c.mod with permit := g.toNat, autoDone := true, opening := .inlet }, mc := awake, ad := { c.ad with ch := t.m.chip.ad.ch }, nv := t.m.chip.nv,
      sec := { c.sec with roles := t.m.chip.sec.roles } })) ∧
  (∀ cl : Client, c.mod.st = .coolantReady → Accepts s cl 0x2400 2 [2] true → Runs (.permissionGrant cl 2) s fun t =>
    Noted s t cl 0x2400 2 2 ∧
    OnlyChip s t (noted t { c with mod := { c.mod with permit := 2, goOn := true }, nv := t.m.chip.nv, sec := { c.sec with roles := t.m.chip.sec.roles } })) ∧
  (ready → c.mod.autoDone = false → target ≠ 0 → c.sec.ret = 0 → c.permitChecks = true → c.ad.ch[(0 : Fin 10)].locked = true → Runs .automaticGrant s fun t =>
    t.m.chip.mod = { c.mod with permit := 0, autoDone := true, opening := .idle, decayRes := 16384 } ∧ woken t ∧
    OnlyChip s t { c with mod := t.m.chip.mod, mc := t.m.chip.mc, ad := { c.ad with ch := t.m.chip.ad.ch }, nv := t.m.chip.nv, comm := t.m.chip.comm }) ∧
  (∀ cl : Client, c.mod.st = .standby → Accepts s cl 0x2400 2 [0] true → Runs (.permissionWithdraw cl) s fun t =>
    (∀ k : Fin 10, 4 ≤ k.val → t.m.chip.ad.ch[k] = c.ad.ch[k]) ∧
    (∀ k : Fin 10, k.val < 4 → c.ad.ch[k].phase = .hold → t.m.chip.ad.ch[k].phase = .decay) ∧ Noted s t cl 0x2400 2 0 ∧
    OnlyChip s t (noted t { c with
      mod := { c.mod with permit := 0, opening := .idle }, ad := { c.ad with ch := t.m.chip.ad.ch }, nv := t.m.chip.nv,
      sec := { c.sec with roles := t.m.chip.sec.roles } })) ∧
  (∀ cl : Client, (c.mod.st = .coolantReady ∨ c.mod.st = .packageOn ∨ c.mod.st = .serving) → Accepts s cl 0x2400 2 [0] true →
    Runs (.permissionWithdraw cl) s fun t =>
      Noted s t cl 0x2400 2 0 ∧
      OnlyChip s t (noted t { c with
        mod := { c.mod with stopReq := some (c.mod.stopReq.getD 2) }, nv := t.m.chip.nv, sec := { c.sec with roles := t.m.chip.sec.roles } })) ∧
  (∀ dp : Int, c.mod.st = .standby → c.mod.opening = .filling → 200 ≤ dp → Runs (.fillDetected dp) s fun t =>
    t.m.chip.mod = { c.mod with opening := .closing, fillP := dp.toNat } ∧ (∀ k : Fin 10, 2 ≤ k.val → t.m.chip.ad.ch[k] = c.ad.ch[k]) ∧
    (∀ k : Fin 10, k.val < 2 → c.ad.ch[k].phase = .hold → t.m.chip.ad.ch[k].phase = .decay) ∧
    OnlyChip s t { c with mod := t.m.chip.mod, ad := { c.ad with ch := t.m.chip.ad.ch } }) ∧
  (∀ dp : Int, c.mod.st = .standby → c.mod.opening = .filling → dp < 200 → Runs (.fillDetected dp) s fun t =>
    t.m.chip.mod = { c.mod with opening := .idle, permit := 0, decayRes := 4096 } ∧ (∀ k : Fin 10, 4 ≤ k.val → t.m.chip.ad.ch[k] = c.ad.ch[k]) ∧
    OnlyChip s t { c with mod := t.m.chip.mod, ad := { c.ad with ch := t.m.chip.ad.ch }, nv := t.m.chip.nv, comm := t.m.chip.comm }) ∧
  (∀ dp dp0 : Int, c.mod.st = .standby → c.mod.opening = .holding dp0 → (dp0 - dp).toNat ≤ c.val (okey 0x2400 0xD) →
    c.ad.ch[(0 : Fin 10)].locked = false → Runs (.decayHoldEnd dp) s fun t =>
    t.m.chip.mod = { c.mod with opening := .inletAgain, decayRes := min (dp0 - dp).toNat 4095 } ∧ inlet t ∧
    OnlyChip s t { c with mod := t.m.chip.mod, ad := { c.ad with ch := t.m.chip.ad.ch } }) ∧
  (∀ dp dp0 : Int, c.mod.st = .standby → c.mod.opening = .holding dp0 → c.val (okey 0x2400 0xD) < (dp0 - dp).toNat → Runs (.decayHoldEnd dp) s fun t =>
    t.m.chip.mod = { c.mod with opening := .idle, permit := 0, decayRes := 8192 + min (dp0 - dp).toNat 4095 } ∧
    (∀ k : Fin 10, 4 ≤ k.val → t.m.chip.ad.ch[k] = c.ad.ch[k]) ∧
    OnlyChip s t { c with mod := t.m.chip.mod, ad := { c.ad with ch := t.m.chip.ad.ch }, nv := t.m.chip.nv, comm := t.m.chip.comm })

/-- R430, R431, R432, R33: rails rise in order, the core rail makes every skerry Ready, the last one lights the lasers; a rail fault takes every rail down and
Package-on retries; Serving is entered once no step is pending. -/
def Obligations.RailsRiseInOrder : Prop := ∀ (s : State),
  let c := s.m.chip
  (∀ (k : Fin 6) fails, (k = 0 ∨ k = 2 ∨ k = 3) → c.pwr.phase = .up k.val → bit c.pwr.enabled k.val = true → Runs (.railPowerGood k fails) s fun t =>
    OnlyChip s t { c with pwr := { c.pwr with
      good := setBit c.pwr.good k.val true, phase := .up (k.val + 1), enabled := setBit c.pwr.enabled (k.val + 1) true } }) ∧
  (∀ fails, c.pwr.phase = .up 4 → bit c.pwr.enabled 4 = true → Runs (.railPowerGood 4 fails) s fun t =>
    OnlyChip s t { c with pwr := { c.pwr with
      good := setBit c.pwr.good 4 true, phase := .up 5, enabled := if c.interlock then setBit c.pwr.enabled 5 true else c.pwr.enabled } }) ∧
  (c.pwr.phase = .up 1 → bit c.pwr.enabled 1 = true → Runs (.railPowerGood 1 []) s fun t =>
    t.m.chip.pwr = { c.pwr with good := setBit c.pwr.good 1 true, phase := .up 2, enabled := setBit c.pwr.enabled 2 true } ∧
    (∀ i : Fin 16, t.m.chip.sk[i].st = .ready ∧ t.m.chip.sk[i].ceil = c.sk[i].ceil) ∧ (∀ g : Fin 1024, t.m.chip.tile[g] = { c.tile[g] with idle := 1 }) ∧
    OnlyChip s t { c with pwr := t.m.chip.pwr, sk := t.m.chip.sk, tile := t.m.chip.tile, mesh := { c.mesh with link := t.m.chip.mesh.link } }) ∧
  (c.pwr.phase = .up 5 → bit c.pwr.enabled 5 = true → c.interlock = true → Runs (.railPowerGood 5 []) s fun t =>
    t.m.chip.pwr = { c.pwr with good := setBit c.pwr.good 5 true, phase := .done, laser := true } ∧ t.m.chip.mod = c.mod ∧
    (∀ i : Fin 12, t.m.chip.str.link[i] = { c.str.link[i] with st := 1 }) ∧ (∀ i : Fin 4, t.m.chip.cxl.port[i] = { c.cxl.port[i] with st := 1 }) ∧
    OnlyChip s t { c with
      pwr := t.m.chip.pwr, mod := t.m.chip.mod, str := { c.str with link := t.m.chip.str.link }, cxl := { c.cxl with port := t.m.chip.cxl.port } }) ∧
  (∀ (k : Fin 6) cause, bit c.pwr.enabled k.val = true → c.mod.st = .packageOn → Runs (.railFault k cause) s fun t =>
    t.m.chip.pwr = { c.pwr with
      enabled := 0, good := 0, phase := .waitRetry, laser := false, darkened := false, railFaults := satAdd 32 c.pwr.railFaults 1 } ∧
    t.m.chip.mod = c.mod ∧ (∀ a, a < 0x100000000000 → t.byteAt a = 0)) ∧
  (∀ (k : Fin 6) cause, bit c.pwr.enabled k.val = true → (c.mod.st = .serving ∨ c.mod.st = .draining) → Runs (.railFault k cause) s fun t =>
    t.m.chip.pwr = { c.pwr with
      enabled := 0, good := 0, phase := .down, laser := false, darkened := false, railFaults := satAdd 32 c.pwr.railFaults 1 } ∧
    t.m.chip.mod = (if c.mod.st = .serving then { c.mod with stopReq := some (c.mod.stopReq.getD 4) } else { c.mod with drain := .closing }) ∧
    (∀ a, a < 0x100000000000 → t.byteAt a = 0)) ∧
  (c.mod.st = .packageOn → c.pwr.phase = .waitRetry → Runs .railSequenceRetry s fun t =>
    t.m.chip.pwr = { c.pwr with enabled := 1, good := 0, phase := .up 0 } ∧ t.m.chip.mod = c.mod ∧
    (∀ d : Fin 24, t.m.chip.gmc.dev[d] = { resetGddr with st := 1 }) ∧ KeepsMem s t) ∧
  (c.mod.st = .packageOn → c.mod.stopReq = none → c.pendingStep c.str.discDone = 0 → c.pwr.laser = true → Runs .startUpComplete s fun t =>
    t.m.chip.mod = { c.mod with st := .serving, upAt := some c.time, goOn := false } ∧ OnlyAnnounced s t { c with mod := t.m.chip.mod }) ∧
  (c.mod.st = .packageOn → Runs .startUpOverdue s fun t => t = s)

/-- R421, R425, R426, R433, R434: the hot-swap switch, the presence contact, the removal-request switch, the drain time and the engagement contacts. -/
def Obligations.HotPlugActs : Prop := ∀ (s : State),
  let c := s.m.chip
  let dark := fun (t : State) =>
    t.m.chip.mod.st = .tripped ∧ t.m.chip.pwr.latchInput = true ∧ t.m.chip.pwr.hotSwap = false ∧ t.m.chip.ad.boost = false ∧
    (c.railsOn = true → t.m.chip.pwr.enabled = 0 ∧ t.m.chip.pwr.laser = false ∧ ∀ a, a < 0x100000000000 → t.byteAt a = 0)
  let named := c.mod.st = .coolantReady ∨ c.mod.st = .packageOn ∨ c.mod.st = .serving ∨ c.mod.st = .draining ∨ c.mod.st = .ochre
  (∀ v, c.mod.st ≠ .unpowered → c.pwr.hotSwap = false → 4400 ≤ v → v ≤ 6000 → Runs (.hotSwapClose v) s fun t =>
    t.m.chip.pwr = { c.pwr with hotSwap := true } ∧ t.m.chip.pins = { c.pins with presence := true, busbar := v } ∧ t.m.chip.ad.boost = true ∧
    OnlyChip s t { c with
      pwr := t.m.chip.pwr, pins := t.m.chip.pins, ad := t.m.chip.ad, blow := t.m.chip.blow, nv := t.m.chip.nv, comm := t.m.chip.comm }) ∧
  (∀ cause v, cause ≠ .auxLost → c.pwr.hotSwap = true → named → Runs (.hotSwapOpen cause v) s dark) ∧
  (∀ v, c.pwr.hotSwap = true → Runs (.hotSwapOpen .auxLost v) s fun t => t.m.chip.mod.st = .unpowered ∧ t.m.chip.pwr = { resetPower with engFailed := c.pwr.engFailed }) ∧
  (∀ cause v, cause ≠ .auxLost → c.pwr.hotSwap = true → ¬named → Runs (.hotSwapOpen cause v) s fun t =>
    t.m.chip.mod = c.mod ∧ t.m.chip.pwr = { c.pwr with hotSwap := false } ∧ t.m.chip.ad.boost = false ∧ KeepsMem s t) ∧
  (c.pwr.hotSwap = true → named → Runs .presenceLost s fun t => dark t ∧ t.m.chip.pins = { c.pins with presence := false }) ∧
  (∀ p, Runs (.ejectorSwitchChange p) s fun t =>
    (∀ i : Fin 2, c.mc[i].core = .stopped → t.m.chip.mc[i].core = .running ∧ t.m.chip.mc[i].sending = true) ∧
    (∀ i : Fin 2, c.mc[i].core ≠ .stopped → t.m.chip.mc[i] = c.mc[i]) ∧
    OnlyChip s t { c with pins := { c.pins with pressed := p }, mc := t.m.chip.mc }) ∧
  (c.pins.ignored = false → c.pins.request = false → (c.mod.st = .coolantReady ∨ c.mod.st = .packageOn ∨ c.mod.st = .serving) →
    Runs .removalRequest s fun t =>
      OnlyChip s t { c with mod := { c.mod with stopReq := some (c.mod.stopReq.getD 1) }, pins := { c.pins with pressed := true, request := true } }) ∧
  (c.pins.ignored = false → c.pins.request = false → c.mod.st = .ochre → Runs .removalRequest s fun t =>
    OnlyChip s t { c with pins := { c.pins with pressed := true, request := true } }) ∧
  (c.pins.request = true → Runs .removalRequestIgnored s fun t => OnlyChannel s t 8 ∧ (c.mod.st = .ochre → t.m.chip.ad.ch[(8 : Fin 10)] = c.ad.ch[(8 : Fin 10)]) ∧
    OnlyChip s t { c with pins := { c.pins with request := false, ignored := true }, ad := { c.ad with ch := t.m.chip.ad.ch } }) ∧
  Runs .removalSwitchReleased s (fun t => OnlyChannel s t 8 ∧ (c.mod.st = .ochre → t.m.chip.ad.ch[(8 : Fin 10)] = c.ad.ch[(8 : Fin 10)]) ∧
    OnlyChip s t { c with pins := { c.pins with pressed := false, request := false, ignored := false }, ad := { c.ad with ch := t.m.chip.ad.ch } }) ∧
  (c.mod.st = .draining → c.mod.drain = .commands → Runs .drainTimeExpiry s fun t =>
    t.m.chip.mod = { c.mod with drain := .closing } ∧
    t.m.chip.pwr = { c.pwr with enabled := 0, good := 0, phase := .down, laser := false, darkened := false } ∧
    (∀ k : Fin 10, 4 ≤ k.val → t.m.chip.ad.ch[k] = c.ad.ch[k]) ∧ (∀ q : Fin 128, t.m.chip.seq[q] = { resetSeq with gen := if c.seq[q].st = .free then c.seq[q].gen else nextGen c.seq[q].gen }) ∧
    ∀ a, t.byteAt a = if 0x100000000000 ≤ a ∧ a < 0xFF0000000000 then s.byteAt a else 0) ∧
  (∀ k : Fin 2, (c.pwr.laser = true → bit c.pwr.enabled 5 = true) → (c.mod.st = .packageOn ∨ c.mod.st = .serving) → Runs (.opticalEngagementLost k) s fun t =>
    let a := decide (k ≠ 0) && c.pins.engageA
    let b := decide (k ≠ 1) && c.pins.engageB
    t.m.chip.mod = { c.mod with stopReq := some (c.mod.stopReq.getD 3) } ∧ t.m.chip.pwr.laser = false ∧
    t.m.chip.pwr.enabled = setBit c.pwr.enabled 5 false ∧
    t.m.chip.pins = { c.pins with engageA := a, engageB := b, ejector := c.pins.ejector && (a || b) }) ∧
  (c.pwr.phase ≠ .up 5 → Runs .opticalEngagementMade s fun t =>
    OnlyChip s t { c with pins := { c.pins with engageA := true, engageB := true, ejector := true } }) ∧
  (c.pwr.phase = .up 5 → bit c.pwr.enabled 5 = false → c.lockClosed = true → Runs .opticalEngagementMade s fun t =>
    OnlyChip s t { c with
      pins := { c.pins with engageA := true, engageB := true, ejector := true }, pwr := { c.pwr with enabled := setBit c.pwr.enabled 5 true } })

/-- R36, R37, R38, R395, R396, R413, R414, R415, R417: an expired orphan timer holds and reports Ochre hold; the madder path trips from every powered state;
acknowledgements, leaks and the thermal clamp. -/
def Obligations.OrphansTripsAndClamps : Prop := ∀ (s : State),
  let c := s.m.chip
  let tripped := fun (cause : Fin 5) (t : State) =>
    t.m.chip.mod.st = .tripped ∧ t.m.chip.mod.permit = 0 ∧ bit t.m.chip.ad.latch cause.val = true ∧ bit t.m.chip.ad.nvCauses cause.val = true ∧
    bit t.m.chip.pwr.latchTrip cause.val = true ∧ t.m.chip.ad.trips = satAdd 32 c.ad.trips 1 ∧ t.m.chip.pwr.enabled = 0 ∧
    (∀ b : Fin 2, t.m.chip.blow[b].full = true) ∧
    ∀ k : Fin 10, k.val ≤ 8 → t.m.chip.ad.ch[k].phase ≠ .peak ∧ t.m.chip.ad.ch[k].phase ≠ .hold
  (∀ r : Receiver, c.recv[r.ix].timerOn = true → (c.mod.st = .coolantReady ∨ c.mod.st = .packageOn ∨ c.mod.st = .serving ∨ c.mod.st = .draining) →
    Runs (.orphanTimeout r) s fun t =>
      t.m.chip.mod = { c.mod with
        st := .ochre, before := if c.mod.st = .serving ∧ c.mod.upAt = some c.time then .packageOn else c.mod.st, stopReq := none, goOn := false, upAt := none } ∧
      (∀ i : Fin 2, t.m.chip.mc[i] = if c.mc[i].core = .running ∧ c.mc[i].sending = true then { c.mc[i] with resync := 0xF, hold := 10 } else c.mc[i]) ∧
      t.m.chip.recv[r.ix] = { c.recv[r.ix] with orphan := true, holding := true } ∧
      (r = .blower → ∀ b : Fin 2, t.m.chip.blow[b].full = true) ∧ t.m.chip.ad = c.ad ∧ t.m.chip.pwr = c.pwr ∧ KeepsMem s t) ∧
  (c.recv[(16 : Fin 19)].timerOn = true → c.mod.st = .standby → Runs (.orphanTimeout .ad) s fun t =>
    OnlyChip s t { c with recv := t.m.chip.recv }) ∧
  (∀ src v,
    let wet := fun (k : Fin 2) => c.ad.loop[k] = 1 ∨ c.ad.loop[k] = 2
    (c.mod.st ≠ .unpowered →
      (bit c.pwr.good 1 = true → 1840 ≤ v.toInt → Runs (.madderTrip 0 src v) s (tripped 0)) ∧
      (1200 < v.toInt → v.toInt ≤ 1920 → Runs (.madderTrip 1 src v) s (tripped 1)) ∧
      (wet 0 → wet 1 → Runs (.madderTrip 2 src v) s (tripped 2)) ∧
      (∀ k : Fin 2, wet k → c.ad.loop[other k] = 3 → Runs (.madderTrip 3 src v) s (tripped 3)) ∧
      (∀ k : Fin 2, wet k → Runs (.madderTrip 4 src v) s (tripped 4))) ∧
    (bit c.pwr.good 1 = false ∨ v.toInt < 1840 → Runs (.madderTrip 0 src v) s fun t => t = s) ∧
    (v.toInt ≤ 1200 ∨ 1920 < v.toInt → Runs (.madderTrip 1 src v) s fun t => t = s) ∧
    (¬wet 0 → ¬wet 1 → ∀ cause : Fin 5, 2 ≤ cause.val → Runs (.madderTrip cause src v) s fun t => t = s)) ∧
  (∀ (loops : BitVec 2) v, loops ≠ 0 → c.mod.st ≠ .unpowered → Runs (.leakConfirm loops v) s fun t =>
    t.m.chip.ad.confirmed = true ∧ tripped (if loops = 3 then 2 else if c.ad.loop[(if bit loops 0 then 1 else 0 : Fin 2)] = 3 then 3 else 4) t) ∧
  (c.ad.loop[(0 : Fin 2)] = 3 → c.ad.loop[(1 : Fin 2)] = 3 → (c.mod.st = .coolantReady ∨ c.mod.st = .packageOn ∨ c.mod.st = .serving) →
    Runs .leakDetectionLost s fun t => OnlyChip s t { c with mod := { c.mod with stopReq := some (c.mod.stopReq.getD 5) } }) ∧
  (∀ cl : Client, Accepts s cl 0x3800 2 [1] true → Runs (.tripAcknowledge cl) s fun t =>
    Noted s t cl 0x3800 2 1 ∧
    OnlyChip s t (noted t { c with
      pair := { c.pair with tripAck := c.pair.tripAck + 1 }, nv := t.m.chip.nv, sec := { c.sec with roles := t.m.chip.sec.roles } })) ∧
  (∀ (i : Fin 16) (j : Fin 8) (w : W16), bit c.pwr.good 1 = true → c.sk[i].clamp = false → 1680 ≤ w.toInt → Runs (.thermalClampEngage i j w) s fun t =>
    t.m.chip.sk[i].clamp = true ∧ bit t.m.chip.sk[i].fault 0 = true ∧ t.m.chip.sk[i].tj[j] = w ∧ t.m.chip.ad.clamps = satAdd 32 c.ad.clamps 1 ∧
    (∀ k : Fin 16, k ≠ i → t.m.chip.sk[k] = c.sk[k]) ∧
    OnlyChip s t { c with sk := t.m.chip.sk, ad := { c.ad with clamps := t.m.chip.ad.clamps }, nv := t.m.chip.nv, comm := t.m.chip.comm }) ∧
  (∀ i : Fin 16, ((∃ j : Fin 8, c.sk[i].tj[j] ≠ 0x8000 ∧ 1600 ≤ (c.sk[i].tj[j]).toInt) ∨ ∀ j : Fin 8, c.sk[i].tj[j] = 0x8000) →
    Runs (.thermalClampRelease i) s fun t => t = s) ∧
  (∀ i : Fin 16, c.sk[i].clamp = true → (∃ j : Fin 8, c.sk[i].tj[j] ≠ 0x8000) → (∀ j : Fin 8, c.sk[i].tj[j] ≠ 0x8000 → (c.sk[i].tj[j]).toInt < 1600) →
    Runs (.thermalClampRelease i) s fun t =>
    t.m.chip.sk[i].clamp = false ∧ t.m.chip.sk[i].applied = (if c.sk[i].st = .off then 0 else min c.sk[i].req (clockLimit { c.sk[i] with clamp := false })) ∧
    (∀ k : Fin 16, k ≠ i → t.m.chip.sk[k] = c.sk[k]) ∧ OnlyChip s t { c with sk := t.m.chip.sk, nv := t.m.chip.nv, comm := t.m.chip.comm })

/-- R389, R390, R391: a judged outlet element, the inlet element farther from the outlet less the rise, and a flow or pressure sensor that disagrees are
faulted; no other element is. -/
def Obligations.SensorElementsFault : Prop := ∀ (s : State),
  let c := s.m.chip
  let x := c.mc[c.act].cool
  let only := fun (t : State) (i : Fin 2) (k : Nat) => t.m.chip.mc[i].cool.faulted = setBit c.mc[i].cool.faulted k true
  let keeps := fun (t : State) => OnlyChip s t { c with mc := t.m.chip.mc, nv := t.m.chip.nv, comm := t.m.chip.comm }
  (∀ k : Fin 2, outletBad c.mc[if c.pair.link then c.act else k].cool k = true → Runs (.outletElementFault k) s fun t =>
    only t (if c.pair.link then c.act else k) (2 + k.val) ∧ keeps t) ∧
  (∀ u v : Int, ∀ f : Rat, x.ti[(0 : Fin 2)] = some u → x.ti[(1 : Fin 2)] = some v → bit x.faulted 0 = false → bit x.faulted 1 = false → x.flow = some f →
    0 < f → 24 < (u - v).natAbs → measured x = true →
    let want : Rat := (x.outlet : Rat) / 16 - c.kq c.act * x.pf / (c.heatCap c.act * f)
    let far := fun (t : Int) => ((t : Rat) / 16 - want).abs
    (far v < far u → Runs .inletElementFault s fun t => (∀ i : Fin 2, only t i 0) ∧ keeps t) ∧
    (far u ≤ far v → Runs .inletElementFault s fun t => (∀ i : Fin 2, only t i 1) ∧ keeps t)) ∧
  (∀ q : Nat, x.fq = some q → bit x.faulted 4 = false → bit x.faulted 5 = false → x.dp.isSome = true → 1 ≤ x.fdp →
    x.fdp / 5 < ((q : Rat) / 100 - x.fdp).abs → measured x = false → Runs .flowSensorFault s fun t => (∀ i : Fin 2, only t i 4) ∧ keeps t)

/-- R398 to R407: what each event of an actuator channel does to it, and that no other channel changes. -/
def Obligations.ActuatorChannelsAct : Prop := ∀ (s : State),
  let c := s.m.chip
  let lit := (bit c.pwr.enabled 5 = true → c.interlock = true) ∧ (c.pwr.phase = .up 5 → bit c.pwr.enabled 5 = true)
  let calm := c.ad.ch[(8 : Fin 10)].phase = .off ∨ c.ad.ch[(8 : Fin 10)].phase = .decay
  let settled := fun (h : Chan) => h.phase ≠ .decay ∧ h.fading = false ∧ ∀ x, h.decayEnd = some x → x + 50 ≤ c.time
  let quiet := ∀ k : Fin 10, k.val < 4 → c.ad.ch[k].phase ≠ .waitIso
  let becomes := fun (t : State) (k : Fin 10) (h : Chan) => t.m.chip.ad.ch[k] = h ∧ OnlyChannel s t k
  let keeps := fun (t : State) => OnlyChip s t { c with ad := { c.ad with ch := t.m.chip.ad.ch }, nv := t.m.chip.nv, comm := t.m.chip.comm }
  (∀ k : Fin 10, isTrim k = true → c.ad.ch[k].phase = .peak → c.ad.ch[k].fault ≠ 1 → quiet → lit → calm → Runs (.peakEnd k .dip) s fun t =>
    becomes t k { c.ad.ch[k] with phase := .hold, current := 40, stuck := if c.ad.ch[k].judged then 0 else c.ad.ch[k].stuck } ∧
    OnlyChip s t { c with ad := { c.ad with ch := t.m.chip.ad.ch } }) ∧
  (∀ k : Fin 10, isIso k = true → c.mod.st ≠ .standby → (∀ j : Fin 10, c.ad.ch[j].fault ≠ 1) → quiet → lit → calm → c.ad.ch[k].phase = .peak → c.ad.ch[partner k].phase = .peak →
    Runs (.peakEnd k .dip) s fun t =>
      (∀ j : Fin 10, j = k ∨ j = partner k → t.m.chip.ad.ch[j].phase = .hold ∧ t.m.chip.ad.ch[j].pos = 2 ∧ t.m.chip.ad.ch[j].current = 25) ∧
      (∀ j : Fin 10, j ≠ k → j ≠ partner k → t.m.chip.ad.ch[j] = c.ad.ch[j]) ∧ OnlyChip s t { c with ad := { c.ad with ch := t.m.chip.ad.ch } }) ∧
  (∀ k : Fin 10, isTrim k = true → c.ad.ch[k].phase = .peak → c.ad.ch[k].judged = true → c.ad.ch[k].stuck < 2 → quiet → lit → calm → Runs (.peakEnd k .noDip) s fun t =>
    becomes t k { c.ad.ch[k] with phase := .hold, current := 40, stuck := c.ad.ch[k].stuck + 1, fault := 1 } ∧
    t.m.chip.ad.stuckCount = satAdd 32 c.ad.stuckCount 1) ∧
  (∀ k : Fin 10, isTrim k = true → c.ad.ch[k].phase = .peak → c.ad.ch[k].judged = true → 2 ≤ c.ad.ch[k].stuck → quiet → lit → calm → Runs (.peakEnd k .noDip) s fun t =>
    t.m.chip.ad.ch[k].phase = .decay ∧ t.m.chip.ad.ch[k].locked = true ∧ t.m.chip.ad.ch[k].fault = 7 ∧ OnlyChannel s t k) ∧
  (∀ k : Fin 10, isTrim k = true → c.ad.ch[k].phase = .waitBoost → Runs (.boostWaitTimeout k) s fun t =>
    let h := c.ad.ch[k]
    becomes t k { h with
      phase := if h.fading then .decay else .off, fading := false, pos := if h.fading = false ∧ h.pos = 2 then 0 else h.pos, locked := true, pulsing := false,
      fault := 5 } ∧ keeps t) ∧
  (∀ hs : Fin 2,
    let lo : Fin 10 := if hs = 0 then 4 else 6
    let hi : Fin 10 := if hs = 0 then 5 else 7
    c.ad.ch[lo].phase ≠ .peak → c.ad.ch[hi].phase ≠ .peak →
    (c.ad.ch[lo].phase = .waitSwitch → Runs (.supplySwitchBoundary hs) s fun t =>
      (∃ j, becomes t lo { c.ad.ch[lo] with phase := .peak, current := 400, judged := j, fading := false } ∧ (j = true ↔ settled c.ad.ch[lo])) ∧ OnlyChip s t { c with ad := { c.ad with ch := t.m.chip.ad.ch } }) ∧
    (c.ad.ch[lo].phase ≠ .waitSwitch → c.ad.ch[hi].phase = .waitSwitch → Runs (.supplySwitchBoundary hs) s fun t =>
      (∃ j, becomes t hi { c.ad.ch[hi] with phase := .peak, current := 400, judged := j, fading := false } ∧ (j = true ↔ settled c.ad.ch[hi])) ∧ OnlyChip s t { c with ad := { c.ad with ch := t.m.chip.ad.ch } })) ∧
  (∀ k : Fin 10, isTrim k = true → c.ad.ch[k].mode = 2 → Runs (.trimPeriodStart k) s fun t =>
    t.m.chip.ad.ch[k].pulsing = true ∧ t.m.chip.ad.ch[k].pDuty = c.ad.ch[k].duty ∧ t.m.chip.ad.ch[k].pFreq = c.ad.ch[k].freq ∧
    (c.ad.ch[k].phase = .hold → (t.m.chip.ad.ch[k].phase = .decay ↔ 5 * c.ad.ch[k].duty < 3 * c.ad.ch[k].freq)) ∧
    OnlyChannel s t k ∧ OnlyChip s t { c with ad := { c.ad with ch := t.m.chip.ad.ch } }) ∧
  (∀ k : Fin 10, isTrim k = true → c.ad.ch[k].pulsing = true → c.ad.ch[k].phase = .hold → Runs (.trimPeriodDeenergise k) s fun t =>
    (t.m.chip.ad.ch[k].phase = .decay ↔ 6 * c.ad.ch[k].pFreq ≤ 5 * (200 - c.ad.ch[k].pDuty)) ∧ OnlyChannel s t k ∧
    OnlyChip s t { c with ad := { c.ad with ch := t.m.chip.ad.ch } }) ∧
  (∀ k : Fin 10, isTrim k = true → c.ad.ch[k].phase = .hold → Runs (.channelOverCurrent k) s fun t =>
    t.m.chip.ad.ch[k].phase = .off ∧ t.m.chip.ad.ch[k].current = 0 ∧ t.m.chip.ad.ch[k].locked = true ∧ t.m.chip.ad.ch[k].fault = 3 ∧
    OnlyChannel s t k ∧ keeps t) ∧
  (∀ k : Fin 10, isIso k = true → c.mod.st ≠ .standby → c.ad.ch[k].phase = .hold → Runs (.channelOverCurrent k) s fun t =>
    let p := c.ad.ch[partner k]
    t.m.chip.ad.ch[k].phase = .off ∧ t.m.chip.ad.ch[k].fault = 3 ∧ t.m.chip.ad.ch[k].locked = true ∧
    t.m.chip.ad.ch[partner k] = (if p.phase = .hold then { p with locked := true, current := 50, fault := 8 } else { p with locked := true, probes := 0, pos := 0 }) ∧
    (p.phase ≠ .hold → t.m.chip.ad.ch[k].pos = 0) ∧
    (∀ j : Fin 10, j ≠ k → j ≠ partner k → t.m.chip.ad.ch[j] = c.ad.ch[j]) ∧ keeps t) ∧
  (∀ (k : Fin 10) (ma : Nat), 40 ≤ ma → c.ad.boost = true → (isIso k = true ∨ k = 8) → c.ad.ch[k].phase = .off → c.ad.ch[partner k].phase = .off →
    c.mod.opening ≠ .closing → c.mod.drain ≠ .closing → lit → calm → Runs (.positionProbe k ma) s fun t =>
      t.m.chip.ad.ch[k].pos = 1 ∧ t.m.chip.ad.ch[k].probes = 0 ∧ t.m.chip.ad.ch[partner k].pos = 1 ∧
      (∀ j : Fin 10, j ≠ k → j ≠ partner k → t.m.chip.ad.ch[j] = c.ad.ch[j]) ∧ keeps t) ∧
  (∀ (k : Fin 10) (ma : Nat), ma < 40 → c.ad.boost = true → isIso k = true → c.ad.ch[k].phase = .off → c.ad.ch[partner k].phase = .off →
    2 ≤ c.ad.ch[k].probes → c.mod.opening ≠ .closing → c.mod.drain ≠ .closing → lit → Runs (.positionProbe k ma) s fun t =>
      t.m.chip.ad.ch[k] = { c.ad.ch[k] with probes := c.ad.ch[k].probes + 1, pos := 3, fault := 6 } ∧
      (c.ad.ch[(8 : Fin 10)].phase = .hold → t.m.chip.ad.ch[(8 : Fin 10)].phase = .decay) ∧ keeps t) ∧
  (∀ (cl : Client) (v : W16), Accepts s cl 0x3020 0xD (wordBytes v) true → Runs (.clearChannelFaults cl v) s fun t =>
    (∀ k : Fin 10, bit v k.val = true → t.m.chip.ad.ch[k].fault = 0 ∧ t.m.chip.ad.ch[k].stuck = 0) ∧
    (∀ k : Fin 10, bit v k.val = false → bit v (partner k).val = false → t.m.chip.ad.ch[k] = c.ad.ch[k]) ∧ Noted s t cl 0x3020 0xD v.toNat ∧
    OnlyChip s t (noted t { c with
      ad := { c.ad with ch := t.m.chip.ad.ch }, nv := t.m.chip.nv, comm := t.m.chip.comm, sec := { c.sec with roles := t.m.chip.sec.roles } })) ∧
  (∀ k : Fin 10, c.ad.ch[k].phase = .decay → Runs (.channelDecayEnd k) s fun t =>
    becomes t k { c.ad.ch[k] with phase := .off, current := 0, decayEnd := some c.time } ∧ OnlyChip s t { c with ad := { c.ad with ch := t.m.chip.ad.ch } }) ∧
  (∀ k : Fin 10, c.ad.ch[k].phase ≠ .decay → c.ad.ch[k].fading = true → Runs (.channelDecayEnd k) s fun t =>
    becomes t k { c.ad.ch[k] with fading := false, current := 0, decayEnd := some c.time } ∧ OnlyChip s t { c with ad := { c.ad with ch := t.m.chip.ad.ch } }) ∧
  (c.pwr.hotSwap = true → (∀ k : Fin 10, c.ad.ch[k].phase ≠ .waitBoost) → Runs .boostRailUp s fun t =>
    OnlyChip s t { c with ad := { c.ad with boost := true, boostV := 900 } })

/-- R410, R411: a blower without tach pulses is stalled, a retry starts it again, and a tach gap at a normal current is a broken tach. -/
def Obligations.BlowersStallAndRetry : Prop := ∀ (s : State) (b : Fin 2),
  let c := s.m.chip
  let x := c.blow[b]
  let becomes := fun (t : State) (y : Blower) => t.m.chip.blow[b] = y ∧ t.m.chip.blow[other b] = c.blow[other b] ∧
    OnlyChip s t { c with blow := t.m.chip.blow, nv := t.m.chip.nv, comm := t.m.chip.comm }
  let driven := c.pwr.hotSwap = true ∧ (0 < x.duty ∨ x.full = true) ∧ x.stalled = false
  (driven → Runs (.blowerStall b) s fun t => becomes t { x with stalled := true, starting := false }) ∧
  (c.pwr.hotSwap = true → x.stalled = true → Runs (.blowerRetry b) s fun t =>
    becomes t { x with retry := x.retry + 1, starting := true, stalled := false, startedAt := c.time }) ∧
  (∀ p, driven → 50 ≤ p → p ≤ 150 → Runs (.tachGap b p) s fun t => becomes t { x with tachBroken := true, rpm := 0x8000 }) ∧
  (∀ p, driven → (p < 50 ∨ 150 < p) → Runs (.tachGap b p) s fun t => becomes t { x with stalled := true, starting := false })

/-- R115: ALU computes b := X[XB] + sext(IMM) and writes X[XA] op b to X[XD]; LIH puts IMM into bits 63:32 of X[XD]; X0 discards the result (R105). A
reserved function raises ILLEGAL. R116: past the last loaded word each raises PC_RANGE (its record is the model's reading, log 36). -/
def Obligations.AluComputes : Prop := ∀ (s : State) (g : Fin 1024) (w : W64),
  let y := s.m.chip.tile[g]
  let a := xget y.x (iXa w)
  let b := xget y.x (iXb w) + (BitVec.ofNat 32 (fld w 0 32)).signExtend 64
  let fn := iXc w
  (iCls w = 0 → iOp w = 2 → Issues s g w ⟨[.x (iXa w), .x (iXb w)], [.x (iXd w)]⟩ →
    (∀ v : W64, (fn = 0 ∧ v = a + b ∨ fn = 1 ∧ v = a - b ∨ fn = 2 ∧ v = a &&& b ∨ fn = 3 ∧ v = a ||| b ∨ fn = 4 ∧ v = a ^^^ b ∨
        fn = 5 ∧ v = a <<< (b.toNat % 64) ∨ fn = 6 ∧ v = a >>> (b.toNat % 64) ∨ fn = 7 ∧ v = a.sshiftRight (b.toNat % 64) ∨ fn = 8 ∧ v = a * b ∨
        fn = 9 ∧ v = (if a.toInt ≤ b.toInt then a else b) ∨ fn = 10 ∧ v = (if a.toInt ≤ b.toInt then b else a) ∨
        fn = 11 ∧ v = (if a.toInt < b.toInt then 1 else 0) ∨ fn = 12 ∧ v = (if a.toNat < b.toNat then 1 else 0)) →
      (NextLoaded s g → Runs (.alu g) s fun t => OnlyTile s t g (stepped { y with x := xset y.x (iXd w) v })) ∧
      (¬NextLoaded s g → y.stopped = none → Runs (.alu g) s fun t => FallsOut s t g { y with x := xset y.x (iXd w) v })) ∧
    (13 ≤ fn → y.stopped = none → Runs (.alu g) s fun t => StopsAtIssue s t g 1 (fld w 32 32))) ∧
  (iCls w = 0 → iOp w = 3 → Issues s g w ⟨[.x (iXd w)], [.x (iXd w)]⟩ → (y.stopped = none ∨ NextLoaded s g) → Runs (.lih g) s fun t =>
    ∃ v : W64, v.toNat = fld w 0 32 * 2 ^ 32 + (xget y.x (iXd w)).toNat % 2 ^ 32 ∧
      (NextLoaded s g → OnlyTile s t g (stepped { y with x := xset y.x (iXd w) v })) ∧ (¬NextLoaded s g → FallsOut s t g { y with x := xset y.x (iXd w) v })) ∧
  (iCls w = 0 → iOp w = 0 → Issues s g w noUse → (NextLoaded s g → Runs (.nop g) s fun t => OnlyTile s t g (stepped y)) ∧
    (¬NextLoaded s g → y.stopped = none → Runs (.nop g) s fun t => FallsOut s t g y))

/-- R116, R82: BR compares X[XA] with X[XB] and goes to TARGET when COND holds, after the decrement for the loop; a taken branch beyond the loaded words raises
PC_RANGE, and so does a fall through past them (its record is the model's reading, log 36), a reserved condition ILLEGAL. A loop on X0 never branches: X0 reads as zero (R105). -/
def Obligations.BranchesGoToTheirTarget : Prop := ∀ (s : State) (g : Fin 1024) (w : W64),
  let y := s.m.chip.tile[g]
  let a := xget y.x (iXa w)
  let b := xget y.x (iXb w)
  let cond := iXd w
  let target := fld w 0 13
  let z := if cond = 7 then { y with x := xset y.x (iXa w) (a - 1) } else y
  let taken := cond = 0 ∨ cond = 1 ∧ a = b ∨ cond = 2 ∧ a ≠ b ∨ cond = 3 ∧ a.toInt < b.toInt ∨ cond = 4 ∧ b.toInt ≤ a.toInt ∨ cond = 5 ∧ a.toNat < b.toNat ∨
    cond = 6 ∧ b.toNat ≤ a.toNat ∨ cond = 7 ∧ iXa w ≠ 0 ∧ a - 1 ≠ 0
  iCls w = 0 → iOp w = 4 → Issues s g w ⟨[.x (iXa w), .x (iXb w)], if cond = 7 then [.x (iXa w)] else []⟩ →
    (taken → target < (s.m.chip.progOf g).length → Runs (.br g) s fun t => OnlyTile s t g { z with pc := target, ord := y.ord + 1 }) ∧
    (cond ≤ 7 → ¬taken → NextLoaded s g → Runs (.br g) s fun t => OnlyTile s t g (stepped z)) ∧
    (cond ≤ 7 → ¬taken → ¬NextLoaded s g → y.stopped = none → Runs (.br g) s fun t => FallsOut s t g z) ∧
    (taken → (s.m.chip.progOf g).length ≤ target → y.stopped = none → Runs (.br g) s fun t => StopsAtIssue s t g 2 target) ∧
    (8 ≤ cond → y.stopped = none → Runs (.br g) s fun t => StopsAtIssue s t g 1 (fld w 32 32))

/-- R107, R117: MFS reads each special register and MTS writes those that are RW or W1C, in program order; other numbers raise ILLEGAL. CLOCKS advances by a
free amount (log 3). -/
def Obligations.SpecialRegistersReadAndWrite : Prop := ∀ (s : State) (g : Fin 1024) (w : W64),
  let y := s.m.chip.tile[g]
  let n := fld w 0 8
  let v := xget y.x (iXa w)
  let quiet := n = 3 → y.mat = none ∧ y.vec = none ∧ y.sfu = none
  (iCls w = 0 → iOp w = 5 → Issues s g w ⟨[], [.x (iXd w)]⟩ → quiet →
    (∀ r : Nat, (n = 0 ∧ r = g.val ∨ n = 1 ∧ r = y.entry ∨ n = 3 ∧ r = y.flags.toNat ∨ n = 4 ∧ r = y.trap.toNat ∨ n = 5 ∧ r = y.seed.toNat ∨
        n = 6 ∧ r = y.ctr.toNat ∨ (∃ k : Fin 4, n = 8 + k.val ∧ r = (y.step[k]).toNat) ∨ (∃ k : Fin 16, n = 16 + k.val ∧ r = (y.c[k]).toNat)) →
      (NextLoaded s g → Runs (.mfs g) s fun t => OnlyTile s t g (stepped { y with x := xset y.x (iXd w) (BitVec.ofNat 64 r) })) ∧
      (¬NextLoaded s g → y.stopped = none → Runs (.mfs g) s fun t => FallsOut s t g { y with x := xset y.x (iXd w) (BitVec.ofNat 64 r) })) ∧
    (n = 2 → NextLoaded s g → Runs (.mfs g) s fun t => ∃ v : Nat,
      OnlyChip s t { s.m.chip with
        free := s.m.chip.free + 2,
        tile := vput s.m.chip.tile g (stepped { y with clocks := v, x := xset y.x (iXd w) (BitVec.ofNat 64 v) }) }) ∧
    ((n = 7 ∨ 12 ≤ n ∧ n ≤ 15 ∨ 32 ≤ n) → y.stopped = none → Runs (.mfs g) s fun t => StopsAtIssue s t g 1 (fld w 32 32))) ∧
  (iCls w = 0 → iOp w = 6 → Issues s g w ⟨[.x (iXa w)], []⟩ → quiet →
    (∀ z : Tile, (n = 3 ∧ z = { y with flags := y.flags &&& ~~~(v.setWidth 6) } ∨ n = 4 ∧ z = { y with trap := v.setWidth 6 } ∨
        n = 5 ∧ z = { y with seed := v } ∨ n = 6 ∧ z = { y with ctr := v }) →
      (NextLoaded s g → Runs (.mts g) s fun t => OnlyTile s t g (stepped z)) ∧ (¬NextLoaded s g → y.stopped = none → Runs (.mts g) s fun t => FallsOut s t g z)) ∧
    ((n < 3 ∨ 7 ≤ n) → y.stopped = none → Runs (.mts g) s fun t => StopsAtIssue s t g 1 (fld w 32 32)))

/-- R121, R134 to R138: END takes the oldest step start or waits, WAIT subtracts or waits, FENCE goes on without open transfers, SIGNAL leaves when no PUT is
open; signals and step starts raise the counters, and one that a counter or the queue of starts cannot take raises SYNC. -/
def Obligations.SynchronisationFollowsItsCounters : Prop := ∀ (s : State) (g : Fin 1024) (w : W64),
  let c := s.m.chip
  let y := c.tile[g]
  let add := fun (k : Fin 16) (n : Nat) (z : Tile) => { z with c := vput z.c k (BitVec.ofNat 32 n) }
  (iCls w = 0 → iOp w = 1 → Issues s g w noUse → 1 ≤ (y.c[(0 : Fin 16)]).toNat → y.entry < (c.progOf g).length → Runs (.endStep g) s fun t =>
    t.m.chip.tile[g] = { add 0 ((y.c[(0 : Fin 16)]).toNat - 1) y with
      step := y.starts.headD y.step, starts := y.starts.drop 1, inStep := true, pc := y.entry % 8192, ord := y.ord + 1 } ∧
    (∀ h : Fin 1024, h ≠ g → t.m.chip.tile[h] = c.tile[h]) ∧
    OnlyChip s t { c with tile := t.m.chip.tile, hif := { c.hif with plans := t.m.chip.hif.plans }, dsq := t.m.chip.dsq }) ∧
  (iCls w = 0 → iOp w = 1 → Issues s g w noUse → (y.c[(0 : Fin 16)]).toNat = 0 → Runs (.endStep g) s fun t =>
    t.m.chip.tile[g] = Chip.Tile.rest { y with inStep := false, exec := .waiting } ∧
    OnlyChip s t { c with tile := t.m.chip.tile, hif := { c.hif with plans := t.m.chip.hif.plans }, dsq := t.m.chip.dsq }) ∧
  (∀ k : Fin 16, iCls w = 6 → iOp w = 1 → iXc w = k.val → Issues s g w noUse →
    (fld w 0 32 ≤ (y.c[k]).toNat → NextLoaded s g → Runs (.wait g) s fun t => OnlyTile s t g (stepped (add k ((y.c[k]).toNat - fld w 0 32) y))) ∧
    (fld w 0 32 ≤ (y.c[k]).toNat → ¬NextLoaded s g → y.stopped = none → Runs (.wait g) s fun t => FallsOut s t g (add k ((y.c[k]).toNat - fld w 0 32) y)) ∧
    ((y.c[k]).toNat < fld w 0 32 → Runs (.wait g) s fun t => OnlyTile s t g (Chip.Tile.rest { y with exec := .waiting }))) ∧
  (iCls w = 1 → iOp w = 2 → Issues s g w noUse → y.dm = [] → (NextLoaded s g → Runs (.fence g) s fun t => OnlyTile s t g (stepped y)) ∧
    (¬NextLoaded s g → y.stopped = none → Runs (.fence g) s fun t => FallsOut s t g y)) ∧
  (iCls w = 6 → iOp w = 0 → Issues s g w noUse →
    let kind := fld w 54 2
    let target := fld w 44 10
    let cnt := fld w 40 4
    (Mach.signalOk c kind target cnt = true → kind ≠ 3 → (∀ d ∈ y.dm, d.get = true) → NextLoaded s g → Runs (.signal g) s fun t =>
      OnlyChip s t { c with
        tile := vput c.tile g (stepped y), dsq := t.m.chip.dsq,
        mesh := { c.mesh with sync := c.mesh.sync ++ Mach.signalPkts g kind target cnt (BitVec.ofNat 32 (fld w 0 32)) } } ∧
      (kind = 2 ∧ (cnt = 0 ∨ 4 ≤ cnt) → bit t.m.chip.dsq[Fin.ofNat 4 target].err 7 = true) ∧ (¬(kind = 2 ∧ (cnt = 0 ∨ 4 ≤ cnt)) → t.m.chip.dsq = c.dsq)) ∧
    (Mach.signalOk c kind target cnt = true → kind = 3 → (∀ d ∈ y.dm, d.get = true) → c.errs = [] → NextLoaded s g → Runs (.signal g) s fun t =>
      t.m.chip.tile = vput c.tile g (stepped y)) ∧
    (Mach.signalOk c kind target cnt = false → y.stopped = none → Runs (.signal g) s fun t => StopsAtIssue s t g 8 g.val)) ∧
  -- a counter add arrives once it is the oldest packet of its sender to the tile and its route works; stated where no packet without an arrival row follows it
  (∀ (k : Fin 16) (v : W32) (h : Fin 1024), c.mesh.due ⟨.tile h, .tile g, .add k v⟩ = true → Still (c.mesh.took ⟨.tile h, .tile g, .add k v⟩) →
    (y.exec ≠ .faulted → y.exec ≠ .waiting → (y.c[k]).toNat + v.toNat ≤ 0xFFFFFFFF → Runs (.signalArrival g k v h) s fun t =>
      OnlyChip s t { c with
        tile := vput c.tile g (Chip.Tile.call c.time (add k ((y.c[k]).toNat + v.toNat) y)), mesh := c.mesh.took ⟨.tile h, .tile g, .add k v⟩ }) ∧
    ((y.exec = .running ∨ y.exec = .waiting ∨ y.exec = .halted) → y.stopped = none → 0xFFFFFFFF < (y.c[k]).toNat + v.toNat →
      Runs (.signalArrival g k v h) s fun t =>
        t.m.chip.tile[g] = stoppedBy (Chip.Tile.call c.time (add k 0xFFFFFFFF y)) y.ord y.pc 8 h.val ∧ KeepsMem s t) ∧
    (y.exec = .waiting → y.idle ≠ 2 → (c.progOf g)[y.pc]? = some w → iCls w = 6 → iOp w = 1 → iXc w = k.val → (y.c[k]).toNat + v.toNat ≤ 0xFFFFFFFF →
      fld w 0 32 ≤ (y.c[k]).toNat + v.toNat → NextLoaded s g → Runs (.signalArrival g k v h) s fun t =>
        OnlyChip s t { c with
          tile := vput c.tile g (stepped { add k ((y.c[k]).toNat + v.toNat - fld w 0 32) y with exec := .running, idle := 0 }),
          mesh := c.mesh.took ⟨.tile h, .tile g, .add k v⟩ })) ∧
  (∀ (k : Fin 16) (v : W32) (h : Fin 1024), c.mesh.due ⟨.tile h, .tile g, .add k v⟩ = false → Runs (.signalArrival g k v h) s fun t => t = s) ∧
  (∀ words p, s.m.startDue g words = some p → Still (c.mesh.took p) →
    ((y.exec = .running ∨ y.exec = .halted) → y.starts.length < 2 → (y.c[(0 : Fin 16)]).toNat < 0xFFFFFFFF → Runs (.stepStart g words) s fun t =>
      OnlyChip s t { c with
        tile := vput c.tile g { add 0 ((y.c[(0 : Fin 16)]).toNat + 1) (Chip.Tile.call c.time y) with starts := y.starts ++ [words] },
        mesh := c.mesh.took p }) ∧
    (y.exec = .waiting → y.idle ≠ 2 → y.starts = [] → y.c[(0 : Fin 16)] = 0 → (c.progOf g)[y.pc]? = some w → iCls w = 0 → iOp w = 1 →
      y.entry < (c.progOf g).length → Runs (.stepStart g words) s fun t =>
        OnlyChip s t { c with
          tile := vput c.tile g { add 0 0 y with step := words, starts := [], exec := .running, idle := 0, inStep := true, pc := y.entry % 8192, ord := y.ord + 1 },
          mesh := c.mesh.took p }) ∧
    ((y.exec = .running ∨ y.exec = .halted ∨ y.exec = .waiting) → 2 ≤ y.starts.length → y.stopped = none → Runs (.stepStart g words) s fun t =>
      t.m.chip.tile[g] = stoppedBy (Chip.Tile.call c.time y) y.ord y.pc 8 0xFFFFFFFF ∧ KeepsMem s t) ∧
    (y.exec = .exception → Runs (.stepStart g words) s fun t =>
      OnlyChip s t { c with
        tile := vput c.tile g (Chip.Tile.call c.time (add 0 (min ((y.c[(0 : Fin 16)]).toNat + 1) 0xFFFFFFFF) y)), mesh := c.mesh.took p }))

/-- R118, R119, R120, R121: while sixteen transfers are open GET and PUT wait; they are accepted in program order where their operands meet R118, and raise ADDR where they do not; a PUT stores the staging bytes,
a completed GET holds the bytes read; a transfer of nothing is an instruction without effect. -/
def Obligations.TransfersMoveTheirBytes : Prop := ∀ (s : State) (g : Fin 1024) (w : W64),
  let c := s.m.chip
  let y := c.tile[g]
  let xd := (xget y.x (iXd w)).toNat
  let xa := (xget y.x (iXa w)).toNat
  let n := (xget y.x (iXb w)).toNat
  let regs := [iXd w, iXa w, iXb w]
  let rx := regs.map Rng.x
  let entry := fun (get : Bool) (st ua : Nat) (served : Bool) =>
    ({ key := y.ord, get := get, regs := regs, local' := st, remote := ua, len := n, pc := y.pc, served := served, peer := false, poison := none } : Dma)
  let idle := ∀ d ∈ y.dm, d.get = false ∧ d.served = true
  (iCls w = 1 → iOp w = 0 → Issues s g w ⟨rx, [.st xd (xd + n)]⟩ →
    (16 ≤ y.dm.length → Runs (.get g) s fun t => t = s) ∧
    (n = 0 → y.dm.length < 16 → NextLoaded s g → Runs (.get g) s fun t => OnlyTile s t g (stepped y)) ∧
    (n ≠ 0 → y.dm.length < 16 → Mach.xferOk c xd xa n = false → y.stopped = none → Runs (.get g) s fun t => StopsAtIssue s t g 6 (xa % 2 ^ 32)) ∧
    (∀ a, n ≠ 0 → Mach.xferOk c xd xa n = true → c.localOf xa = some a → y.dm.length < 16 → idle → NextLoaded s g → Runs (.get g) s fun t =>
      OnlyTile s t g { stepped y with dm := y.dm ++ [entry true xd xa false] })) ∧
  (iCls w = 1 → iOp w = 1 → Issues s g w ⟨rx ++ [.st xa (xa + n)], []⟩ →
    (16 ≤ y.dm.length → Runs (.put g) s fun t => t = s) ∧
    (n = 0 → y.dm.length < 16 → NextLoaded s g → Runs (.put g) s fun t => OnlyTile s t g (stepped y)) ∧
    (n ≠ 0 → y.dm.length < 16 → Mach.xferOk c xa xd n = false → y.stopped = none → Runs (.put g) s fun t => StopsAtIssue s t g 6 (xd % 2 ^ 32)) ∧
    (∀ a, n ≠ 0 → Mach.xferOk c xa xd n = true → c.localOf xd = some a → c.holds (some (skOf g).val) a n = false → c.errs = [] → y.dm.length < 16 → idle → (∀ d ∈ y.dm, d.key ≠ y.ord) →
      NextLoaded s g → Runs (.put g) s fun t =>
        t.m.chip = { c with tile := t.m.chip.tile } ∧ t.m.chip.tile[g] = { stepped y with dm := y.dm ++ [entry false xa xd true] } ∧
        (∀ h : Fin 1024, h ≠ g → t.m.chip.tile[h] = c.tile[h] ∨ regionOf a = .staging ∧ t.m.chip.tile[h] = Chip.Tile.call c.time c.tile[h]) ∧ t.pending = s.pending ∧
        (∀ i, i < n → t.byteAt (a + i) = s.byteAt (stagingAddr g + xa + i)) ∧
        ∀ x, (x < a ∨ a + n ≤ x) → (x < gddrBase ∨ ∀ i, i < n → a + i < sramSize → c.granule (tileOfSram (a + i)) ((a + i) % sliceSize) = false) →
          t.byteAt x = s.byteAt x)) ∧
  (∀ d, y.dm.find? (fun e => e.get) = some d → d.peer = false → y.exec ≠ .faulted → y.exec ≠ .idle → (∀ e ∈ y.dm, e.key ≠ d.key → e.get = false ∧ e.served = true) →
    let a := d.remote % 2 ^ 48
    c.holds (some (skOf g).val) a d.len = false → c.errs = [] →
    (c.rangeMapped a d.len = true → s.m.badUnits a d.len = [] → Runs (.getComplete g []) s fun t =>
      t.m.chip = { c with tile := vput c.tile g { y with dm := y.dm.filter (fun e => e.key != d.key) } } ∧ t.pending = s.pending ∧
      Stores s t (stagingAddr g + d.local') ((List.range d.len).map (fun i => s.byteAt (a + i)))) ∧
    (c.rangeMapped a d.len = false → y.stopped = none → Runs (.getComplete g []) s fun t =>
      t.m.chip.tile[g] = stoppedBy { y with dm := y.dm.filter (fun e => e.key != d.key) } d.key d.pc 7 a ∧ t.pending = s.pending ∧
      Stores s t (stagingAddr g + d.local') (List.replicate d.len 0))) ∧
  (∀ d, y.dm.find? (fun e => e.get) = some d → d.peer = true → d.served = true → d.poison = none → y.exec ≠ .faulted → y.exec ≠ .idle →
    (∀ e ∈ y.dm, e.key ≠ d.key → e.get = false ∧ e.served = true) → (∀ r a, r ∈ c.str.outst ∨ r ∈ c.str.waiting → r.owner ≠ .tileGet g d.key a) →
    Runs (.getComplete g []) s fun t => OnlyTile s t g { y with dm := y.dm.filter (fun e => e.key != d.key) }) ∧
  (∀ d rest, y.dm = d :: rest → d.get = false → d.served = true → (∀ h ∈ c.held, h.who ≠ .put g d.key) →
    (d.peer = false → c.farWaits (skOf g).val (d.remote % 2 ^ 48) d.len = false) → (∀ r, r ∈ c.str.outst ∨ r ∈ c.str.waiting → r.owner ≠ .tilePut g d.key) → Runs (.putAcknowledged g) s fun t =>
      OnlyTile s t g { y with dm := y.dm.filter (fun e => e.key != d.key) })

/-- R122, R124, R126, R127, R132, R133, R139: which words break their operand rules, with which code and detail; the order of the checks is the model's (log 34). R112,
R114, R117, R69: every instruction of the four computing classes issues to its unit with the registers, seed, counter and trap mask of its place in
program order; SR takes N values of the counter; a word that breaks its operand rules stops the tile instead, with the code and detail of R139. -/
def Obligations.UnitInstructionsIssue : Prop :=
  (∀ (w : W64) (x : Vector W64 16),
    let reg := fun (k : Nat) => xget x k
    let xd := reg (iXd w)
    let xa := reg (iXa w)
    let xb := reg (iXb w)
    let xc := reg (iXc w)
    let n := fld w 0 16 + 1
    let p := fld w 28 4 + 1
    let check := unitCheck w x
    (iCls w = 2 → iOp w = 0 →
      let odd := fun (v : W64) => v = xd ∧ (fld v 24 8 ≠ 0 ∨ fld v 56 8 ≠ 0) ∨ (v = xa ∨ v = xc) ∧ (fld v 18 14 ≠ 0 ∨ fld v 50 14 ≠ 0) ∨ v = xb ∧ fld v 42 22 ≠ 0
      ((iFa w, iFb w) ∉ matrixPairs → check = some (1, fld w 32 32)) ∧
      ((iFa w, iFb w) ∈ matrixPairs → (∃ v, odd v) → ∃ v, odd v ∧ check = some (3, fld v 0 32)) ∧
      (∀ ba bb cols c0, (iFa w, iFb w) ∈ matrixPairs → (iFa w, ba, c0) ∈ blockSize → (iFb w, bb, cols) ∈ blockSize → (∀ v, ¬odd v) →
        let kb := fld xb 0 16
        let cs := fld xb 16 16
        let reads := cs / cols * kb
        let scaled := 3 ≤ iFa w
        let slice := fld xd 0 24 % 256 ≠ 0 ∨ (∃ r, r < reads ∧ 0xC00000 < fld xd 0 24 + r * 256 + 256) ∨
          scaled ∧ (fld xd 32 24 % 16 ≠ 0 ∨ ∃ r, r < reads ∧ 0xC00000 < fld xd 32 24 + r * 16 + 16)
        let stage := ∃ q, q < p ∧ ((fld xa 0 18 + q * fld xc 0 18) % 256 ≠ 0 ∨ 0 < reads ∧ (0x40000 < fld xa 0 18 + q * fld xc 0 18 + kb * ba ∨
          scaled ∧ 0x40000 < fld xa 32 18 + q * fld xc 32 18 + kb))
        let range := kb = 0 ∨ cs = 0 ∨ cs % cols ≠ 0 ∨ 1024 < fld xb 32 10 + cs
        (slice → ∃ d, (d = fld xd 0 24 ∨ d = fld xd 32 24 ∨ d = 0xC00000) ∧ check = some (4, d)) ∧ (¬slice → stage → check = some (3, fld xa 0 32)) ∧
        (¬slice → ¬stage → range → check = some (5, fld xb 0 32)) ∧ (¬slice → ¬stage → ¬range → check = none))) ∧
    (iCls w = 2 → 1 ≤ iOp w → iOp w ≤ 3 →
      let cs := fld xa 16 16
      let last := fld xd 0 18 + (p - 1) * fld xd 32 18
      let stage := iOp w ≠ 3 ∧ (fld xd 18 14 ≠ 0 ∨ fld xd 50 14 ≠ 0 ∨ fld xd 0 18 % 4 ≠ 0 ∨ 1 < p ∧ fld xd 32 18 % 4 ≠ 0 ∨ cs ≠ 0 ∧ 0x40000 < last + 4 * cs)
      (stage → check = some (3, fld xd 0 32)) ∧ (¬stage → 1024 < fld xa 32 10 + cs → check = some (5, fld xa 0 32)) ∧
      (¬stage → fld xa 32 10 + cs ≤ 1024 → check = none)) ∧
    (iCls w = 3 ∧ iOp w ≤ 10 ∨ iCls w = 4 ∧ iOp w ≤ 4 →
      let two := iCls w = 3 ∧ iOp w ≤ 6
      let names := fun (v : W64) (len : Nat) => v = xa ∧ len = n ∨ two ∧ v = xb ∧ len = (if bit w 39 then 1 else n) ∨
        iCls w = 3 ∧ iOp w = 3 ∧ v = xc ∧ len = (if bit w 38 then 1 else n) ∨ v = xd ∧ len = if iCls w = 3 ∧ (iOp w = 8 ∨ iOp w = 9) then 1 else n
      ((∃ v len, names v len ∧ BadFlat v len) → ∃ v len, names v len ∧ BadFlat v len ∧ check = some (3, fld v 0 32)) ∧
      ((∀ v len, names v len → ¬BadFlat v len) → check = none)) ∧
    (iCls w = 5 → iOp w ≤ 1 →
      let f := iFa w
      ((f = 0 ∨ 9 < f) → check = some (1, fld w 32 32)) ∧
      (∀ bs c0, (f, bs, c0) ∈ blockSize →
        let badIn := if iOp w = 0 then BadFlat xa n else BadPacked f bs xa n
        let badOut := if iOp w = 0 then BadPacked f bs xd n else BadFlat xd n
        (badIn → check = some (3, fld xa 0 32)) ∧ (¬badIn → badOut → check = some (3, fld xd 0 32)) ∧ (¬badIn → ¬badOut → check = none)))) ∧
  ∀ (s : State) (g : Fin 1024) (w : W64), ∀ i ∈ unitInstrs,
  let y := s.m.chip.tile[g]
  let f : Flight := { word := w, x := y.x, seed := y.seed, ctr := y.ctr, trap := y.trap, pc := y.pc, ord := y.ord }
  let u := if i.2.1 = 2 then 0 else if i.2.1 = 4 then 2 else 1
  let advance := if i.2.1 = 5 ∧ i.2.2 = 0 ∧ bit w 35 = true then fld w 0 16 + 1 else 0
  iCls w = i.2.1 → iOp w = i.2.2 → Issues s g w (unitUse w y.x) → Mach.inUnit y u = none →
    (unitCheck w y.x = none → NextLoaded s g → Runs (i.1 g) s fun t =>
      OnlyTile s t g (Mach.setUnit u (some f) (stepped { y with ctr := y.ctr + BitVec.ofNat 64 advance }))) ∧
    (unitCheck w y.x = none → ¬NextLoaded s g → y.stopped = none → Runs (i.1 g) s fun t =>
      FallsOut s t g (Mach.setUnit u (some f) { y with ctr := y.ctr + BitVec.ofNat 64 advance })) ∧
    (∀ code detail, unitCheck w y.x = some (code, detail) → y.stopped = none → Runs (i.1 g) s fun t => StopsAtIssue s t g code detail)

/-- R57, R62, R72, R73, R128, R131: each operation of the vector unit is the exact real result rounded once, with the NaN, infinity and zero rules of its row; the
special functions have their special values, raise NX where they are inexact, and take a value within the bound of R131 (whose ulp is the model's choice, log 52). R129:
a finished vector or special-function instruction has written each element's value; its conditions are in SKR_T_FLAGS and no other byte changed. Stated where the arrays
do not overlap the destination, or fill one group of 64. -/
def Obligations.VectorResultsAreElementwise : Prop :=
  (∀ a b c : W32,
    let sa := bit a 31
    let sb := bit b 31
    let sc := bit c 31
    let x := val32 a
    let y := val32 b
    let z := val32 c
    let sg := fun (v : Rat) (zero : Bool) => if v = 0 then zero else decide (v < 0)
    (∀ op, op ≤ 7 → (Nan32 a ∨ op ≠ 7 ∧ Nan32 b ∨ op = 3 ∧ Nan32 c) → vecFn op a b c = (nan32, cNI)) ∧
    (Fin32 a → Fin32 b →
      Rounded (x + y) (sg (x + y) (sa && sb)) (vecFn 0 a b c) ∧ Rounded (x - y) (sg (x - y) (sa && !sb)) (vecFn 1 a b c) ∧
      Rounded (x * y) (sa != sb) (vecFn 2 a b c) ∧ (Fin32 c → Rounded (x * y + z) (sg (x * y + z) ((sa != sb) && sc)) (vecFn 3 a b c)) ∧
      (Inf32 c → vecFn 3 a b c = (inf32 sc, 0)) ∧ (y ≠ 0 → Rounded (x / y) (sa != sb) (vecFn 6 a b c)) ∧
      (y = 0 → vecFn 6 a b c = if x = 0 then (nan32, cIV) else (inf32 (sa != sb), 0))) ∧
    (Inf32 a → Inf32 b → vecFn 0 a b c = (if sa = sb then (inf32 sa, 0) else (nan32, cIV)) ∧ vecFn 1 a b c = (if sa = sb then (nan32, cIV) else (inf32 sa, 0)) ∧
      vecFn 2 a b c = (inf32 (sa != sb), 0) ∧ vecFn 6 a b c = (nan32, cIV)) ∧
    (Inf32 a → Fin32 b → vecFn 0 a b c = (inf32 sa, 0) ∧ vecFn 1 a b c = (inf32 sa, 0) ∧
      vecFn 2 a b c = (if y = 0 then (nan32, cIV) else (inf32 (sa != sb), 0)) ∧ vecFn 6 a b c = (inf32 (sa != sb), 0)) ∧
    (Fin32 a → Inf32 b → vecFn 0 a b c = (inf32 sb, 0) ∧ vecFn 1 a b c = (inf32 (!sb), 0) ∧
      vecFn 2 a b c = (if x = 0 then (nan32, cIV) else (inf32 (sa != sb), 0)) ∧ vecFn 6 a b c = (pack32 (sa != sb) 0, 0)) ∧
    ((Inf32 a ∧ ¬Nan32 b ∨ Inf32 b ∧ ¬Nan32 a) → ¬Nan32 c → vecFn 3 a b c =
      if Fin32 a ∧ x = 0 ∨ Fin32 b ∧ y = 0 ∨ Inf32 c ∧ sc ≠ (sa != sb) then (nan32, cIV) else (inf32 (sa != sb), 0)) ∧
    (¬Nan32 a → ¬Nan32 b →
      let low := if sa ≠ sb then (if sa then a else b) else if sa then (if a.toNat ≤ b.toNat then b else a) else (if a.toNat ≤ b.toNat then a else b)
      vecFn 4 a b c = (if low = a then b else a, 0) ∧ vecFn 5 a b c = (low, 0)) ∧
    (¬Nan32 a → vecFn 7 a b c = (a &&& 0x7FFFFFFF, 0)) ∧ vecFn 10 a b c = (a, 0) ∧
    -- special functions: 0 SEXP, 1 SLOG, 2 SRSQ, 3 STANH, 4 SSIG
    (Nan32 a → ∀ fn, fn ≤ 4 → sfu fn a = (nan32, cNI)) ∧
    (Inf32 a → sfu 0 a = (if sa then 0 else inf32 false, 0) ∧ sfu 1 a = (if sa then (nan32, cIV) else (inf32 false, 0)) ∧
      sfu 2 a = (if sa then (nan32, cIV) else (0, 0)) ∧ sfu 3 a = (if sa then 0xBF800000 else 0x3F800000, 0) ∧ sfu 4 a = (if sa then 0 else 0x3F800000, 0)) ∧
    (Fin32 a → x = 0 → sfu 1 a = (inf32 true, 0) ∧ sfu 2 a = (inf32 sa, 0)) ∧ (Fin32 a → x < 0 → sfu 1 a = (nan32, cIV) ∧ sfu 2 a = (nan32, cIV)) ∧
    (∀ fn, fn ≤ 4 → Fin32 a → x ≠ 0 → ((fn = 1 ∨ fn = 2) → 0 < x) → (fn = 1 → x ≠ 1) → (fn = 2 → ∀ k : Int, x ≠ pow2 (2 * k)) →
      (sfu fn a).2 = cNX ||| (if Inf32 (sfu fn a).1 then cOF else 0) ||| (if fld (sfu fn a).1 0 31 < 0x800000 then cUF else 0)) ∧
    (∀ neg m e, dec32 a = .fin neg m e → x ≠ 0 → ∀ fn, fn ≤ 4 → ((fn = 1 ∨ fn = 2) → 0 < x) →
      let near := if fn = 2 then rsqWithin m e else sfuWithin (sfuApprox fn neg m e).2.1 (sfuApprox fn neg m e).2.2.1 (sfuApprox fn neg m e).2.2.2 2
      near ≠ [] → ∃ k ∈ near, fld (sfu fn a).1 0 31 = min k 0x7F800000)) ∧
  (∀ (num den : Nat) (e : Int) (ulps : Nat), den ≠ 0 → ∃ c, Nearest 23 127 ((num : Rat) / (den : Rat) * pow2 e) c ∧ ∀ k ∈ sfuWithin num den e ulps,
    absRat ((num : Rat) / (den : Rat) * pow2 e - magnitude 23 127 k) ≤ (ulps : Rat) * pow2 (((max (c / 2 ^ 23) 1 : Nat) : Int) - 150)) ∧
  (∀ (m : Nat) (e : Int), ∀ k ∈ rsqWithin m e, 0 < k →
    let ulp := pow2 (((max (k / 2 ^ 23) 1 : Nat) : Int) - 150)
    (magnitude 23 127 k - ulp) * (magnitude 23 127 k - ulp) * ((m : Rat) * pow2 e) ≤ 1 ∧
    1 ≤ (magnitude 23 127 k + ulp) * (magnitude 23 127 k + ulp) * ((m : Rat) * pow2 e)) ∧
  ∀ (s : State) (g : Fin 1024) (u : Fin 3) (f : Flight), Finishes s g u.val f →
  let w := f.word
  let n := iN w
  let word := fun (r : Nat) (one : Bool) (i : Nat) => s.stWord g (arrAddr f r + if one then 0 else 4 * i)
  let apart := fun (r : Nat) (one : Bool) => arrAddr f r + (if one then 4 else 4 * n) ≤ arrAddr f (iXd w) ∨ arrAddr f (iXd w) + 4 * n ≤ arrAddr f r
  let op := fun (i : Nat) => if iCls w = 4 then sfu (iOp w) (word (iXa w) false i)
    else vecFn (iOp w) (word (iXa w) false i) (word (iXb w) (bit w 39) i) (word (iXc w) (bit w 38) i)
  let keeps := fun (t : State) (flags : Cond6) =>
    t.m.chip = { s.m.chip with tile := vput s.m.chip.tile g { Mach.setUnit u.val none (s.m.chip.tile[g]) with flags := (s.m.chip.tile[g]).flags ||| flags } } ∧
    t.pending = s.pending
  (iCls w = 3 ∧ iOp w ≤ 10 ∧ iOp w ≠ 8 ∧ iOp w ≠ 9 ∨ iCls w = 4 ∧ iOp w ≤ 4) →
    (n ≤ 64 ∨ apart (iXa w) false ∧ (usesB (iCls w) (iOp w) = true → apart (iXb w) (bit w 39)) ∧ (usesC (iCls w) (iOp w) = true → apart (iXc w) (bit w 38))) →
    Runs (.unitComplete g u) s fun t => (∃ flags, keeps t flags ∧ ∀ k, bit flags k = true ↔ ∃ i, i < n ∧ bit (op i).2 k = true) ∧
      Stores s t (stagingAddr g + arrAddr f (iXd w)) ((List.range n).flatMap (fun i => wordBytes (op i).1))

/-- R130: a reduction writes one FP32 value, in the order of R130. -/
def Obligations.ReductionsFoldInOrder : Prop := ∀ (s : State) (g : Fin 1024) (f : Flight), Finishes s g 1 f →
  let w := f.word
  let a := (List.range (iN w)).map (fun i => s.stWord g (arrAddr f (iXa w) + 4 * i))
  let op := fun (x y : W32) => if (dec32 x).isNan || (dec32 y).isNan then nan32 else if iOp w = 9 then (fmax x y).1 else (fadd x y).1
  let start := List.replicate 64 (if iOp w = 9 then inf32 true else 0)
  let lanes := (List.range (iN w)).foldl (fun (l : List W32) i => l.set (i % 64) (op (l.getD (i % 64) 0) (a.getD i 0))) start
  let tree := [32, 16, 8, 4, 2, 1].foldl (fun (l : List W32) k => (List.range k).foldl (fun (q : List W32) j => q.set j (op (q.getD j 0) (q.getD (j + k) 0))) l) lanes
  iCls w = 3 → (iOp w = 8 ∨ iOp w = 9) → Runs (.unitComplete g 1) s fun t =>
    Stores s t (stagingAddr g + arrAddr f (iXd w)) (wordBytes (tree.getD 0 0)) ∧
    ∀ h : Fin 1024, h ≠ g → t.m.chip.tile[h] = s.m.chip.tile[h]

/-- R46, R48 to R56: packed elements and their values; R59 to R62: a block partial is the exact sum of its 32 products, scaled and rounded once, with the special values
and the zero's sign of R60 and R61, and is added to its accumulator with one rounding. R125, R126: a finished MMA holds, in each accumulator of its range, the partial sums of its blocks added in ascending order to the old value or to +0; MLD, MZ
and MST load, clear and store the range; every other accumulator and byte is as before. -/
def Obligations.MatrixResultsAccumulate : Prop :=
  (∀ f (bs : Bytes), 1 ≤ f → f ≤ 9 → bs.length = fmtBytes f → ∀ i, i < 32 → elemAt f bs i = numLe bs / 2 ^ (fmtBits f * i) % 2 ^ fmtBits f) ∧
  (∀ row ∈ floatFormats, ∀ code, code < 2 ^ row.2.2.2.1 →
    let mag := code % 2 ^ (row.2.2.2.1 - 1)
    let neg : Bool := decide (2 ^ (row.2.2.2.1 - 1) ≤ code)
    let top := mag / 2 ^ row.2.1 = 2 ^ (row.2.2.2.1 - 1 - row.2.1) - 1
    let nan := row.1 = 3 ∧ mag = 0x7F ∨ (row.1 = 1 ∨ row.1 = 2 ∨ row.1 = 4) ∧ top ∧ mag % 2 ^ row.2.1 ≠ 0
    let inf := (row.1 = 1 ∨ row.1 = 2 ∨ row.1 = 4) ∧ top ∧ mag % 2 ^ row.2.1 = 0
    ((elemVal row.1 code).isNan = true ↔ nan) ∧ (infOf (elemVal row.1 code) = true ↔ inf) ∧ (¬nan → negOf (elemVal row.1 code) = neg) ∧
    (¬nan → ¬inf → realOf (elemVal row.1 code) = if neg then -magnitude row.2.1 row.2.2.1 mag else magnitude row.2.1 row.2.2.1 mag)) ∧
  (∀ code, code < 256 → realOf (elemVal 8 code) = (if code < 128 then (code : Rat) else (code : Rat) - 256) / 64 ∧ (elemVal 8 code).isFin = true) ∧
  (∀ code, code < 16 → (elemVal 9 code).isFin = true ∧ (code % 8 = 0 → elemVal 9 code = .fin false 0 0) ∧ (code % 8 ≠ 0 → realOf (elemVal 9 code) =
    (if code < 8 then 1 else -1) * ((klPair (code % 8)).1 + (klPair (code % 8)).2 * ((0xB504F3 : Nat) : Rat) / ((2 ^ 23 : Nat) : Rat)))) ∧
  (∀ (fa fb : Nat) (a b : Bytes) (sa sb : Nat), pairOk fa fb = true → sa < 256 → sb < 256 →
    let va := fun (i : Nat) => elemVal fa (elemAt fa a i)
    let vb := fun (i : Nat) => elemVal fb (elemAt fb b i)
    let part := blockPartial fa fb a b sa sb
    let noScale := fmtBlock fa = true → sa ≠ 255 ∧ sb ≠ 255
    let someNan := ∃ i, i < 32 ∧ ((va i).isNan = true ∨ (vb i).isNan = true)
    let infZero := ∃ i, i < 32 ∧ (infOf (va i) = true ∧ (vb i).isFin = true ∧ realOf (vb i) = 0 ∨ infOf (vb i) = true ∧ (va i).isFin = true ∧ realOf (va i) = 0)
    let infSign := fun (neg : Bool) => ∃ i, i < 32 ∧ (infOf (va i) = true ∨ infOf (vb i) = true) ∧ (negOf (va i) != negOf (vb i)) = neg
    (fmtBlock fa = true → (sa = 255 ∨ sb = 255) → part = (nan32, cNI)) ∧
    (fa = 9 → sa ≠ 255 → sb ≠ 255 →
      let prod := fun (i : Nat) =>
        let ca := elemAt 9 a i % 8
        let cb := elemAt 9 b i % 8
        let t : Int := ((if (ca + cb) % 2 = 0 then 0x800000 else 0xB504F3) * 2 ^ ((ca + cb - 2) / 2) : Nat)
        if ca = 0 ∨ cb = 0 then 0 else if (elemAt 9 a i / 8 + elemAt 9 b i / 8) % 2 = 1 then -t else t
      let sum : Int := ((List.range 32).map prod).sum
      Rounded ((sum : Rat) * pow2 ((sa : Int) + (sb : Int) - 277)) (decide (sum < 0)) part) ∧
    (fa ≠ 9 → noScale → someNan → part.1 = nan32 ∧ bit part.2 1 = true) ∧ (fa ≠ 9 → noScale → ¬someNan → infZero → part = (nan32, cIV)) ∧
    (fa ≠ 9 → noScale → ¬someNan → ¬infZero →
      (infSign true → infSign false → part = (nan32, cIV)) ∧ (∀ neg, infSign neg → ¬infSign (!neg) → part = (inf32 neg, 0)) ∧
      (¬infSign true → ¬infSign false →
        let sum := ((List.range 32).map (fun i => realOf (va i) * realOf (vb i))).sum
        let x := sum * if fmtBlock fa then pow2 ((sa : Int) + (sb : Int) - 254) else 1
        let negZero : Bool := (List.range 32).all (fun i => decide (realOf (va i) * realOf (vb i) = 0) && (negOf (va i) != negOf (vb i)))
        Rounded x (if x = 0 then negZero else decide (x < 0)) part))) ∧
  (∀ acc part : W32, ((Nan32 acc ∨ Nan32 part) → accAdd acc part = (nan32, 0)) ∧
    (Inf32 acc → Inf32 part → accAdd acc part = if bit acc 31 = bit part 31 then (inf32 (bit acc 31), 0) else (nan32, cIV)) ∧
    (Inf32 acc → Fin32 part → accAdd acc part = (inf32 (bit acc 31), 0)) ∧ (Fin32 acc → Inf32 part → accAdd acc part = (inf32 (bit part 31), 0)) ∧
    (Fin32 acc → Fin32 part →
      let x := val32 acc + val32 part
      Rounded x (if x = 0 then bit acc 31 && bit part 31 else decide (x < 0)) (accAdd acc part))) ∧
  ∀ (s : State) (g : Fin 1024) (f : Flight), Finishes s g 0 f →
  let w := f.word
  let y := s.m.chip.tile[g]
  let acc := fun (t : State) (q c : Nat) => spGet 0 (accKey q c) (t.m.chip.tile[g]).acc
  let inRange := fun (acol n q c : Nat) => q < iP w ∧ acol ≤ c ∧ c < acol + n
  let keeps := fun (t : State) => t.m.mem = s.m.mem ∧ t.m.poison = s.m.poison ∧ t.pending = s.pending ∧
    t.m.chip = { s.m.chip with tile := vput s.m.chip.tile g { y with mat := none, acc := (t.m.chip.tile[g]).acc, flags := (t.m.chip.tile[g]).flags } }
  let m := mmaArgs w f.x
  let st := mstArgs w f.x
  (s.m.chip.errs = [] → iCls w = 2 → iOp w = 0 → m.acol + m.n ≤ 1024 → Runs (.unitComplete g 0) s fun t => keeps t ∧
    (∀ q c, c < 1024 → ¬inRange m.acol m.n q c → acc t q c = acc s q c) ∧
    ∀ q c, q < iP w → c < m.n →
      let r := fun (k : Nat) => c / fmtCols (iFb w) * m.kb + k
      let j := c % fmtCols (iFb w)
      let block := fun (base len : Nat) => (List.range len).map (fun i => s.byteAt (base + i))
      let part := fun (k : Nat) => (blockPartial (iFa w) (iFb w)
        (block (stagingAddr g + (m.ael + q * m.tel + k * fmtBytes (iFa w))) (fmtBytes (iFa w)))
        (block (sliceAddr g + m.wel + r k * 256 + j * fmtBytes (iFb w)) (fmtBytes (iFb w)))
        (s.byteAt (stagingAddr g + (m.asc + q * m.tsc + k))).toNat (s.byteAt (sliceAddr g + m.wsc + r k * 16 + j)).toNat).1
      acc t q (m.acol + c) = (List.range m.kb).foldl (fun v k => (accAdd v (part k)).1) (if bit w 27 then 0 else acc s q (m.acol + c))) ∧
  (iCls w = 2 → iOp w = 3 → st.acol + st.n ≤ 1024 → Runs (.unitComplete g 0) s fun t => keeps t ∧
    ∀ q c, c < 1024 → acc t q c = if inRange st.acol st.n q c then 0 else acc s q c) ∧
  (iCls w = 2 → iOp w = 2 → st.acol + st.n ≤ 1024 → Runs (.unitComplete g 0) s fun t => keeps t ∧
    ∀ q c, c < 1024 → acc t q c = if inRange st.acol st.n q c then s.stWord g (st.base + q * st.stride + 4 * (c - st.acol)) else acc s q c) ∧
  (iCls w = 2 → iOp w = 1 → (4 * st.n ≤ st.stride ∨ iP w = 1) → Runs (.unitComplete g 0) s fun t =>
    (∀ q c, q < iP w → c < st.n → t.stWord g (st.base + q * st.stride + 4 * c) = acc s q (st.acol + c)) ∧
    (∀ x, (∀ q, q < iP w → x < stagingAddr g + (st.base + q * st.stride) ∨ stagingAddr g + (st.base + q * st.stride) + 4 * st.n ≤ x) → t.byteAt x = s.byteAt x) ∧
    t.m.chip = { s.m.chip with tile := vput s.m.chip.tile g { y with mat := none } } ∧ t.pending = s.pending)

/-- R51, R52, R64 to R73: a block's scale comes from the largest finite magnitude; each element is the nearest value, or the one that SR's draw gives, with saturation,
NaN and the conditions of R70 to R73; the draws are those of R69. R132, R133: a finished CVTO has written the converted blocks and scales of its array and CVFR the
FP32 value of each element. -/
def Obligations.ConversionsWriteTheirArrays : Prop :=
  (∀ f k, (f, k) ∈ emaxOf → ∀ xs : List W32,
    ((∀ w ∈ xs, Fin32 w → val32 w = 0) → blockScale f xs = 0x7F) ∧
    (∀ w ∈ xs, Fin32 w → val32 w ≠ 0 → (∀ v ∈ xs, Fin32 v → absRat (val32 v) ≤ absRat (val32 w)) → ∀ e : Int, pow2 e ≤ absRat (val32 w) →
      absRat (val32 w) < pow2 (e + 1) → (blockScale f xs : Int) = max 0 (min 254 (e - k + 127)))) ∧
  (∀ (x : W32) (scale : Nat) (sr : Option Nat) (satOff : Bool), scale ≤ 254 →
    let neg := bit x 31
    let y := absRat (val32 x) * pow2 (127 - (scale : Int))
    (∀ row ∈ floatFormats, (row.1 ≤ 2 → scale = 127) →
      let sign := fun (c : Nat) => c + if neg then 2 ^ (row.2.2.2.1 - 1) else 0
      let most := fmtMax row.1
      let off := satOff = true ∧ row.1 ≤ 4
      let r := convElem row.1 x scale sr satOff
      magnitude row.2.1 row.2.2.1 most = row.2.2.2.2 ∧
      (Fin32 x → y ≤ row.2.2.2.2 → sr = none → ∃ c, Nearest row.2.1 row.2.2.1 y c ∧ r = (sign c, roundFlags row.2.1 row.2.2.1 y c)) ∧
      (Fin32 x → y ≤ row.2.2.2.2 → ∀ d c, sr = some d → magnitude row.2.1 row.2.2.1 c ≤ y → y < magnitude row.2.1 row.2.2.1 (c + 1) →
        let t := (y - magnitude row.2.1 row.2.2.1 c) / (magnitude row.2.1 row.2.2.1 (c + 1) - magnitude row.2.1 row.2.2.1 c)
        let k := if y = magnitude row.2.1 row.2.2.1 c then c else if 65536 ≤ (t * 65536).floor + (d : Int) then c + 1 else c
        r = (sign k, roundFlags row.2.1 row.2.2.1 y k)) ∧
      (Fin32 x → row.2.2.2.2 < y → ¬off → r = (sign most, cSAT ||| cNX)) ∧
      (Fin32 x → row.2.2.2.2 < y → off → ∃ c, Nearest row.2.1 row.2.2.1 y c ∧
        r = if c ≤ most then (sign most, cNX) else if row.1 = 3 then (sign 0x7F, cOF ||| cIV ||| cNX) else (sign (most + 1), cOF ||| cNX)) ∧
      (Inf32 x → r = if off then (sign (most + 1), 0) else (sign most, cSAT)) ∧
      (Nan32 x → row.1 ≤ 4 → r = (if row.1 = 1 then 0x7FC0 else if row.1 = 2 then 0x7E00 else sign 0x7F, cNI))) ∧
    (let r := convElem 8 x scale sr satOff
      let code := fun (n : Nat) => if neg = true ∧ n ≠ 0 then 256 - n else n
      let flags := fun (n : Nat) => if 64 * y = (n : Rat) then (0 : Cond6) else if n = 0 then cUF ||| cNX else cNX
      (Fin32 x → y ≤ 127 / 64 → sr = none → ∃ n : Nat, 2 * absRat (64 * y - (n : Rat)) ≤ 1 ∧ (2 * absRat (64 * y - (n : Rat)) = 1 → n % 2 = 0) ∧ r = (code n, flags n)) ∧
      (Fin32 x → y ≤ 127 / 64 → ∀ d (n : Nat), d < 65536 → sr = some d → (n : Rat) ≤ 64 * y → 64 * y < (n : Rat) + 1 →
        let k := if 65536 ≤ ((64 * y - (n : Rat)) * 65536).floor + (d : Int) ∧ 64 * y ≠ (n : Rat) then n + 1 else n
        r = (code k, flags k)) ∧
      (Fin32 x → 127 / 64 < y → r = (code 127, cSAT ||| cNX)) ∧ (Inf32 x → r = (code 127, cSAT))) ∧
    (let r := convElem 9 x scale sr satOff
      let code := fun (c : Nat) => if neg = true ∧ c ≠ 0 then c + 8 else c
      let flags := fun (c : Nat) => if y = (klPair c).1 ∧ (klPair c).2 = 0 then (0 : Cond6) else if c = 0 then cUF ||| cNX else cNX
      let upTo := fun (c : Nat) => SurdNonneg ((klPair c).1 + (klPair (c + 1)).1 - 2 * y) ((klPair c).2 + (klPair (c + 1)).2)
      (Fin32 x → y ≤ 8 → sr = none → ∃ c, c ≤ 7 ∧ (c < 7 → upTo c) ∧ (0 < c → ¬upTo (c - 1)) ∧ r = (code c, flags c)) ∧
      (Fin32 x → y ≤ 8 → ∀ d c, d < 65536 → sr = some d → c < 7 → SurdNonneg (y - (klPair c).1) (-(klPair c).2) → ¬SurdNonneg (y - (klPair (c + 1)).1) (-(klPair (c + 1)).2) →
        let p := (65536 - (d : Rat)) / 65536
        let up := SurdNonneg (y - (klPair c).1 - p * ((klPair (c + 1)).1 - (klPair c).1)) (-(klPair c).2 - p * ((klPair (c + 1)).2 - (klPair c).2))
        ∃ k, (up → k = c + 1) ∧ (¬up → k = c) ∧ r = (code k, flags k)) ∧
      (Fin32 x → 8 < y → r = (code 7, cSAT ||| cNX)) ∧ (Inf32 x → r = (code 7, cSAT)))) ∧
  (∀ seed ctr : W64,
    let z0 := (seed.toNat + (ctr.toNat + 1) * 0x9E3779B97F4A7C15) % 2 ^ 64
    let z1 := (z0 ^^^ z0 / 2 ^ 30) * 0xBF58476D1CE4E5B9 % 2 ^ 64
    let z2 := (z1 ^^^ z1 / 2 ^ 27) * 0x94D049BB133111EB % 2 ^ 64
    srDraw seed ctr = (z2 ^^^ z2 / 2 ^ 31) / 2 ^ 48) ∧
  (∀ (f : Nat) (sr off : Bool) (seed ctr : W64) (xs : List W32),
    let draw := fun (i : Nat) => if sr then some (srDraw seed (ctr + BitVec.ofNat 64 i)) else none
    let r := convArray f sr off seed ctr xs
    ((f = 1 ∨ f = 2) → r.1.length = 2 * xs.length ∧ ∀ i (h : i < xs.length), fieldLe r.1 (2 * i) 2 = (convElem f xs[i] 127 (draw i) off).1 % 2 ^ 16) ∧
    (fmtBlock f = true → ∀ b, 32 * b < xs.length →
      let blk := (xs.drop (32 * b)).take 32
      let bytes := (r.1.drop (b * fmtBytes f)).take (fmtBytes f)
      if f ≠ 3 ∧ f ≠ 4 ∧ ∃ w ∈ blk, Nan32 w then r.2.1[b]? = some 0xFF ∧ bit r.2.2 1 = true ∧ ∀ i, i < 32 → elemAt f bytes i = 0
      else r.2.1[b]? = some (BitVec.ofNat 8 (blockScale f blk)) ∧ ∀ i, i < 32 →
        elemAt f bytes i = match blk[i]? with
          | some w => (convElem f w (blockScale f blk) (draw (32 * b + i)) off).1 % 2 ^ fmtBits f
          | none => 0)) ∧
  (∀ f code scale, 1 ≤ f → f ≤ 9 → code < 2 ^ fmtBits f → scale < 256 →
    (fmtBlock f = true → scale = 255 → toFp32 f code scale = (nan32, cNI)) ∧
    ((fmtBlock f = true → scale ≠ 255) →
      ((elemVal f code).isNan = true → toFp32 f code scale = (nan32, cNI)) ∧ (infOf (elemVal f code) = true → toFp32 f code scale = (inf32 (negOf (elemVal f code)), 0)) ∧
      ((elemVal f code).isFin = true →
        Rounded (realOf (elemVal f code) * if fmtBlock f then pow2 ((scale : Int) - 127) else 1) (negOf (elemVal f code)) (toFp32 f code scale)))) ∧
  ∀ (s : State) (g : Fin 1024) (f : Flight), Finishes s g 1 f →
  let w := f.word
  let fm := iFa w
  let xd := xget f.x (iXd w)
  let xa := xget f.x (iXa w)
  let src := (List.range (iN w)).map (fun i => s.stWord g (fld xa 0 18 + 4 * i))
  let r := convArray fm (bit w 35) (bit w 34) f.seed f.ctr src
  let keeps := fun (t : State) (flags : Cond6) =>
    t.m.chip = { s.m.chip with tile := vput s.m.chip.tile g { (s.m.chip.tile[g]) with vec := none, flags := (s.m.chip.tile[g]).flags ||| flags } } ∧ t.pending = s.pending
  (iCls w = 5 → iOp w = 0 → 1 ≤ fm → fm ≤ 2 → Runs (.unitComplete g 1) s fun t => keeps t r.2.2 ∧ Stores s t (stagingAddr g + fld xd 0 18) r.1) ∧
  (iCls w = 5 → iOp w = 0 → fmtBlock fm = true → Runs (.unitComplete g 1) s fun t => keeps t r.2.2 ∧
    (∀ i (h : i < r.2.1.length), t.byteAt (stagingAddr g + fld xd 32 18 + i) = r.2.1[i]) ∧
    ((fld xd 0 18 + r.1.length ≤ fld xd 32 18 ∨ fld xd 32 18 + r.2.1.length ≤ fld xd 0 18) →
      ∀ i (h : i < r.1.length), t.byteAt (stagingAddr g + fld xd 0 18 + i) = r.1[i])) ∧
  (iCls w = 5 → iOp w = 1 → Runs (.unitComplete g 1) s fun t =>
    let block := fun (i : Nat) => (List.range (fmtBytes fm)).map (fun j => s.byteAt (stagingAddr g + (fld xa 0 18 + i / 32 * fmtBytes fm) + j))
    let value := fun (i : Nat) => toFp32 fm (elemAt fm (block i) (i % 32)) (if fmtBlock fm then (s.byteAt (stagingAddr g + (fld xa 32 18 + i / 32))).toNat else 127)
    (∃ flags, keeps t flags) ∧ Stores s t (stagingAddr g + fld xd 0 18) ((List.range (iN w)).flatMap (fun i => wordBytes (value i).1)))

/-- R140, R141, R110, R143, R142, R92, R93: a trapped condition stops the tile at its instruction, which has its flags set; a reserved word raises ILLEGAL; HALT and
RESUME stop and continue a program, and Gated tiles nap and wake. -/
def Obligations.TilesStopHaltAndNap : Prop := ∀ (s : State) (g : Fin 1024),
  let c := s.m.chip
  let y := c.tile[g]
  (∀ (u : Fin 3) (f : Flight), Mach.inUnit y u.val = some f → y.exec ≠ .idle → y.exec ≠ .faulted → y.stopped = none → c.errs = [] →
    ((s.m.runUnit g f).2 &&& f.trap) ≠ 0 → Runs (.unitComplete g u) s fun t =>
      (t.m.chip.tile[g]).exec = .exception ∧ (t.m.chip.tile[g]).excCode = 9 ∧ (t.m.chip.tile[g]).excPc = f.pc ∧
      (t.m.chip.tile[g]).excDetail = ((s.m.runUnit g f).2 &&& f.trap).toNat ∧ (t.m.chip.tile[g]).flags = y.flags ||| (s.m.runUnit g f).2) ∧
  (∀ w, isReserved w = true → Issues s g w noUse → y.stopped = none → Runs (.reservedInstructionIssue g) s fun t => StopsAtIssue s t g 1 (fld w 32 32)) ∧
  ((y.exec = .running ∨ y.exec = .waiting) → Runs (.halt g) s fun t => OnlyTile s t g (Chip.Tile.gate { y with exec := .halted })) ∧
  (y.exec = .halted → Runs (.resume g) s fun t => OnlyTile s t g (Chip.Tile.call c.time (Chip.Tile.ungate { y with exec := .running }))) ∧
  (y.exec ≠ .halted → Runs (.resume g) s fun t => OnlyTile s t g y) ∧
  (y.idle = 1 → y.napHeld.getD c.sk[skOf g].nap ≠ 0 → Runs (.napEntry g) s fun t => OnlyTile s t g { y with idle := 2, woken := none }) ∧
  (y.exec = .running → y.idle = 2 → s.m.behind g = false → (∃ l : Fin 2, ∃ p ∈ c.sk[skOf g].posts[l], p.2.2 = 2) → Runs (.tileWake g) s fun t =>
    OnlyTile s t g { y with idle := 0, woken := none }) ∧
  (∀ w, y.exec = .waiting → y.idle = 1 → (c.progOf g)[y.pc]? = some w → iCls w = 6 → iOp w = 1 → (∀ k : Fin 16, iXc w = k.val → (y.c[k]).toNat < fld w 0 32) →
    Runs (.tileWake g) s fun t => OnlyTile s t g (Chip.Tile.rest y)) ∧
  (y.exec ≠ .running → y.exec ≠ .waiting → (y.idle = 1 ∨ y.idle = 2 ∧ s.m.behind g = false) → Runs (.tileWake g) s fun t =>
    t.m.chip.tile[g] = Chip.Tile.rest y ∧ KeepsMem s t)

/-- R76, R83, R84, R85, R86, R87, R88, R89, R100, R101, R104, R149, R150, R151, R436, R437, R438: a faulted spare is retired; a faulted tile in use stops, the steps of its
skerry are aborted and the lowest free spare is loaded for it, or the skerry fails where none is free; the spare takes the tile's place; rows, skerry resets
and mesh links act by their own rules. -/
def Obligations.TilesRemapAndSkerriesReset : Prop := ∀ (s : State) (sk : Fin 16),
  let c := s.m.chip
  let k := c.sk[sk]
  let gOf := fun (t : Fin 64) => (Fin.ofNat 1024 (64 * sk.val + t.val) : Fin 1024)
  let posts := fun (t : State) (d : Chip) => OnlyChip s t { d with
    sk := t.m.chip.sk, hif := { d.hif with port := t.m.chip.hif.port, cmds := t.m.chip.hif.cmds } }
  let served := k.st ≠ .off ∧ k.st ≠ .failed
  -- a tile in use on a physical tile, with a mirror for what it would reload; the remap that begins; the failure without a spare
  let inUse := fun (p : Fin 68) (t : Fin 64) => k.phys[p] = (0, t.val) ∧ k.map[t].valid = true ∧ s.m.rowGap (gOf t) 0 sliceSize = false ∧ c.errs = []
  let remaps := fun (p : Nat) (t : Fin 64) (q : Fin 68) (cause : Nat) (u : State) =>
    u.m.chip.sk[sk].loading = some (t.val, q.val) ∧ u.m.chip.sk[sk].phys[q] = (4, t.val) ∧ u.m.chip.sk[sk].map[t].valid = false ∧
    u.m.chip.sk[sk].fiCause = cause ∧ u.m.chip.sk[sk].fiPhys = p ∧ u.m.chip.sk[sk].fiLog = t.val ∧
    u.m.chip.tile[gOf t] = { c.tile[gOf t] with exec := .faulted, idle := 3 } ∧
    (∀ g : Fin 1024, g ≠ gOf t → u.m.chip.tile[g] = c.tile[g]) ∧
    OnlyChip s u { c with
      sk := u.m.chip.sk, tile := u.m.chip.tile, dsq := u.m.chip.dsq,
      hif := { c.hif with port := u.m.chip.hif.port, cmds := u.m.chip.hif.cmds, plans := u.m.chip.hif.plans } }
  let fails := fun (u : State) => u.m.chip.sk[sk].st = .failed ∧ bit u.m.chip.sk[sk].fault 3 = true ∧ u.m.chip.sk[sk].applied = k.applied ∧
    ∀ g : Fin 1024, skOf g = sk → u.m.chip.tile[g].exec = .faulted ∧ u.m.chip.tile[g].idle = 3
  let code := fun (cause : Fin 4) => ([1, 3, 4, 5].getD cause.val 1 : Nat)
  (∀ (p : Fin 68) (cause : Fin 4), served → (k.phys[p]).1 = 1 → Runs (.tileFault sk p cause) s fun t =>
    t.m.chip.sk[sk].phys[p] = (3, 0xFF) ∧ (∀ q : Fin 68, q ≠ p → t.m.chip.sk[sk].phys[q] = k.phys[q]) ∧ t.m.chip.sk[sk].map = k.map ∧
    t.m.chip.sk[sk].retired = insertNat p.val k.retired ∧ t.m.chip.sk[sk].fiCause = code cause ∧ bit t.m.chip.sk[sk].fault 1 = true ∧ posts t c) ∧
  (∀ (p q : Fin 68) (t : Fin 64) (cause : Fin 4), served → inUse p t → k.auto = true → k.loading = none → Mach.freeSpare k = some q →
    Runs (.tileFault sk p cause) s (remaps p.val t q (code cause))) ∧
  (∀ (p : Fin 68) (t : Fin 64) (cause : Fin 4), served → inUse p t → Mach.freeSpare k = none → Runs (.tileFault sk p cause) s fails) ∧
  (∀ (q : Fin 68) (t : Fin 64), c.tile[gOf t].exec = .running → served → inUse (s.m.physOf (gOf t)) t → k.auto = true → k.loading = none →
    Mach.freeSpare k = some q → Runs (.tileWatchdogExpiry (gOf t)) s (remaps (s.m.physOf (gOf t)).val t q 2)) ∧
  (∀ g : Fin 1024, c.tile[g].exec ≠ .running → Runs (.tileWatchdogExpiry g) s fun t => t = s) ∧
  -- the new tile takes over: map and places; with no plan, sequence or held write in the way its slice reads as zero
  (∀ (t : Fin 64) (p : Fin 68), k.st = .ready → k.loading = some (t.val, p.val) → k.remapQ = [] → k.map[t].phys ≠ p.val → Runs (.remapReloadDone sk) s fun u =>
    u.m.chip.sk[sk].map[t] = ⟨true, true, p.val⟩ ∧ u.m.chip.sk[sk].phys[p] = (0, t.val) ∧
    (∀ q : Fin 68, q.val = k.map[t].phys → u.m.chip.sk[sk].phys[q] = (3, 0xFF)) ∧ u.m.chip.sk[sk].loading = none ∧ bit u.m.chip.sk[sk].fault 2 = true ∧
    ((∀ i : Fin 16, c.hif.plans[i].st ≠ .ready ∧ c.hif.plans[i].st ≠ .stopped) → (∀ i : Fin 128, c.seq[i].st = .free) → c.held = [] →
      c.gmc.rebuilding = [] → c.tile[gOf t].mirror = 0 →
      ∀ a, a < sramSize → u.byteAt a = if sliceAddr (gOf t) ≤ a ∧ a < sliceAddr (gOf t) + sliceSize then 0 else s.byteAt a)) ∧
  (∀ (port : Fin 2) (v : W32), c.portUp port = true → bit v 8 = false → Runs (.remapGo port sk v) s fun u =>
    OnlyChip s u { c with sk := vput c.sk sk { k with auto := bit v 31, remapTile := fld v 0 6 } }) ∧
  (∀ (port : Fin 2) (v : W32) (t : Fin 64) (p : Fin 68) (q : Fin 68), c.portUp port = true → bit v 8 = true → fld v 0 6 = t.val → k.st = .ready → k.map[t].phys = p.val →
    inUse p t → k.loading = none → t.val ∉ k.remapQ → Mach.freeSpare k = some q → Runs (.remapGo port sk v) s (remaps p.val t q 6)) ∧
  (∀ (port : Fin 2) (v : W32), c.portUp port = true → bit v 8 = true → (k.st ≠ .ready ∨ Mach.freeSpare k = none) → Runs (.remapGo port sk v) s fun u =>
    OnlyChip s u { c with
      sk := vput c.sk sk { k with auto := bit v 31, remapTile := fld v 0 6 },
      hif := { c.hif with err := setBit c.hif.err 3 true, cnt := upd c.hif.cnt 3 (fun n => satAdd 32 n 1) } }) ∧
  -- rows of a slice
  (∀ (g : Fin 1024) (row : Nat), skOf g = sk → k.st = .ready → row < 49152 → spGet 0 g.val c.ecc[sk].rowsUsed < 8 → c.tile[g].mirror = 0 →
    (∀ i : Fin 128, c.seq[i].st = .free) → (∀ i : Fin 16, bit c.hif.plans[i].mask sk.val = false) → c.gmc.rebuilding = [] → Runs (.sramRowRepair g row) s fun u =>
      spGet 0 g.val u.m.chip.ecc[sk].rowsUsed = spGet 0 g.val c.ecc[sk].rowsUsed + 1 ∧ u.m.chip.sk[sk].st = .ready ∧
      ∀ a, a < sramSize → u.byteAt a = if sliceAddr g + 256 * row ≤ a ∧ a < sliceAddr g + 256 * row + 256 then 0 else s.byteAt a) ∧
  (∀ (q : Fin 68) (t : Fin 64) (row : Nat), k.st = .ready → row < 49152 → 8 ≤ spGet 0 (gOf t).val c.ecc[sk].rowsUsed → inUse (s.m.physOf (gOf t)) t → k.auto = true →
    k.loading = none → Mach.freeSpare k = some q → Runs (.sramRowRepair (gOf t) row) s (remaps (s.m.physOf (gOf t)).val t q 1)) ∧
  (∀ a, k.st = .ready → a < sramSize → skOf (tileOfSram a) = sk → c.errs = [] →
    spGet 0 ((tileOfSram a).val * 65536 + a % sliceSize / 256) c.ecc[sk].rowCe < 2 → Runs (.sramPatrolScrub sk [⟨a, .correctable⟩]) s fun u =>
      u.m.chip.ecc[sk].ceCount = satAdd 16 c.ecc[sk].ceCount 1 ∧ u.m.chip.ecc[sk].rowsUsed = c.ecc[sk].rowsUsed ∧ OnlyChip s u { c with ecc := u.m.chip.ecc }) ∧
  (k.st ≠ .ready → ∀ l, Runs (.sramPatrolScrub sk l) s fun u => u = s) ∧
  -- a skerry reset: start, release, end; the supervisor's own
  (∀ (port : Fin 2) (v : W32), c.portUp port = true → fld v 16 16 = 0x5A5A → bit v 0 = true → k.st ≠ .resetting → k.st ≠ .failed → c.pwr.darkened = false →
    Runs (.skrReset port sk v) s fun u =>
      u.m.chip.sk[sk].st = .resetting ∧ u.m.chip.sk[sk].resetting = 1 ∧ u.m.chip.sk[sk].applied = k.applied ∧ u.m.chip.sk[sk].loading = none ∧
      u.m.chip.sk[sk].remapQ = [] ∧ (∀ i : Fin 16, i ≠ sk → u.m.chip.sk[i] = c.sk[i]) ∧
      (∀ g : Fin 1024, skOf g = sk → u.m.chip.tile[g].exec = (if c.tile[g].exec = .faulted then .faulted else .idle) ∧ u.m.chip.tile[g].pc = 0 ∧
        u.m.chip.tile[g].mirror = c.tile[g].mirror ∧ u.m.chip.tile[g].mirrorSlot = c.tile[g].mirrorSlot) ∧
      (∀ g : Fin 1024, skOf g ≠ sk → u.m.chip.tile[g] = c.tile[g]) ∧
      OnlyChip s u { c with
        sk := u.m.chip.sk, tile := u.m.chip.tile, dsq := u.m.chip.dsq, hif := { c.hif with plans := u.m.chip.hif.plans } }) ∧
  (∀ (port : Fin 2) (v : W32), ¬(fld v 16 16 = 0x5A5A ∧ bit v 0 = true) → Runs (.skrReset port sk v) s fun u => u = s) ∧
  (∀ (port : Fin 2) (v : W32), c.portUp port = true → fld v 16 16 = 0x5A5A → bit v 0 = true → (k.st = .resetting ∨ k.st = .failed) → Runs (.skrReset port sk v) s fun u =>
    OnlyChip s u { c with hif := { c.hif with err := setBit c.hif.err 3 true, cnt := upd c.hif.cnt 3 (fun n => satAdd 32 n 1) } }) ∧
  (∀ l, k.st = .resetting → k.resetting = 1 → Runs (.skerryResetRelease sk l) s fun u =>
    OnlyChip s u { c with sk := vput c.sk sk { k with
      resetting := 2, selfFails := (l.filter (fun p => (k.phys[p]).1 != 2 && (k.phys[p]).1 != 3)).map (·.val) } }) ∧
  (k.st = .resetting → k.resetting = 2 → k.selfFails = [] → c.errs = [] → (∀ t : Fin 64, s.m.noMirror (gOf t) 0 sliceSize = false) → Runs (.skerryResetDone sk) s fun u =>
    u.m.chip.sk[sk].st = .ready ∧ u.m.chip.sk[sk].resetting = 0 ∧ u.m.chip.sk[sk].applied = min k.req (clockLimit k) ∧ u.m.chip.sk[sk].map = k.map) ∧
  (served → ((c.time :: k.supvTimes).filter (fun t => c.time < t + secs 60)).length < 3 → Runs (.supvReset sk) s fun u =>
    u.m.chip.sk[sk].st = .resetting ∧ u.m.chip.sk[sk].resetting = 1 ∧ bit u.m.chip.sk[sk].fault 4 = true ∧ bit u.m.chip.sk[sk].fault 5 = true ∧
    u.m.chip.pwr = { c.pwr with supvResets := satAdd 32 c.pwr.supvResets 1 } ∧ KeepsMem s u) ∧
  (served → 3 ≤ ((c.time :: k.supvTimes).filter (fun t => c.time < t + secs 60)).length → Runs (.supvReset sk) s fails) ∧
  -- mesh links
  (∀ l : Fin 42, c.mesh.link[l].st = 1 → c.mesh.link[l].used < 2 → Runs (.meshLaneFault l) s fun u =>
    u.m.chip.mesh.link[l].st = 1 ∧ u.m.chip.mesh.link[l].used = c.mesh.link[l].used + 1 ∧ u.m.chip.mesh.link[l].spared = true ∧
    bit u.m.chip.mesh.err 1 = true ∧ (∀ j : Fin 42, j ≠ l → u.m.chip.mesh.link[j] = c.mesh.link[j]) ∧
    posts u { c with mesh := u.m.chip.mesh, free := c.free + 1 }) ∧
  (∀ l : Fin 42, c.mesh.link[l].st = 1 → 2 ≤ c.mesh.link[l].used → Runs (.meshLaneFault l) s fun u =>
    u.m.chip.mesh.link[l] = { c.mesh.link[l] with st := 0 } ∧ bit u.m.chip.mesh.err 2 = true ∧ u.m.chip.mesh.reroute = true ∧
    ∀ j : Fin 42, j ≠ l → u.m.chip.mesh.link[j] = c.mesh.link[j]) ∧
  (c.mesh.reroute = true → c.held = [] → c.str.waiting = [] → (∀ n : Fin 4, c.dsq[n].waiters = []) → Still { c.mesh with reroute := false } → Runs .rerouteDone s fun u =>
    OnlyChip s u { c with mesh := { c.mesh with reroute := false, avoid := u.m.chip.mesh.avoid, err := setBit c.mesh.err 3 true } } ∧
    ∀ l : Fin 42, bit u.m.chip.mesh.avoid l.val = true ↔ c.mesh.link[l].st ≠ 1)

/-- R157, R158, R160, R161, R164, R165, R166, R154, R167, R168, R169, R170, R181, R180: GDDR7 devices train, retire and keep mirrors and plan copies; scrubs record what they
meet; CXL ports train and go down with their windows, windows are enabled as R169 allows, and accesses of devices go out. -/
def Obligations.MemoryTiersServe : Prop := ∀ (s : State),
  let c := s.m.chip
  let gmcOnly := fun (t : State) (d : Chip) => OnlyChip s t { d with gmc := t.m.chip.gmc }
  let errBit := fun (g : Gmc) (i : Nat) => setBit g.err i true
  -- training
  (∀ (d : Fin 24) (rd wr : Byte), c.gmc.dev[d].st = 1 → 16 ≤ rd.toNat → rd.toNat ≤ 64 → 16 ≤ wr.toNat → wr.toNat ≤ 64 →
    Runs (.gddr7TrainingDone d rd wr true) s fun t =>
      t.m.chip.gmc.dev[d] = { c.gmc.dev[d] with st := 2, rdMargin := rd.toNat, wrMargin := wr.toNat } ∧
      (∀ e : Fin 24, e ≠ d → t.m.chip.gmc.dev[e] = c.gmc.dev[e]) ∧
      t.m.chip.gmc.trainDone = (c.gmc.trainDone || (fins 24).all (fun e => decide (e = d ∨ c.gmc.dev[e].st = 2 ∨ c.gmc.dev[e].st = 3))) ∧ KeepsMem s t) ∧
  (∀ (d : Fin 24) (rd wr : Byte), c.gmc.dev[d].st = 1 → rd.toNat ≤ 64 → wr.toNat ≤ 64 → (rd.toNat < 16 ∨ wr.toNat < 16) → c.gmc.dev[d].attempts < 2 →
    Runs (.gddr7TrainingDone d rd wr true) s fun t => OnlyChip s t { c with gmc := { c.gmc with
      dev := vput c.gmc.dev d { c.gmc.dev[d] with rdMargin := rd.toNat, wrMargin := wr.toNat, attempts := c.gmc.dev[d].attempts + 1 } } }) ∧
  (∀ (d : Fin 24) (rd wr : Byte), c.gmc.dev[d].st = 1 → rd.toNat ≤ 64 → wr.toNat ≤ 64 → 2 ≤ c.gmc.dev[d].attempts →
    Runs (.gddr7TrainingDone d rd wr false) s fun t => t.m.chip.gmc.dev[d].st = 3 ∧ t.m.chip.gmc.dev[d].cause = 1 ∧ bit t.m.chip.gmc.err 2 = true) ∧
  -- retirement, mirrors and plan copies
  (∀ (d : Fin 24), c.errs = [] → (c.gmc.dev[d].st = 1 ∨ c.gmc.dev[d].st = 2) → Runs (.deviceRetire d) s fun t =>
    t.m.chip.gmc.dev[d] = { c.gmc.dev[d] with st := 3, cause := s.m.retireCause d } ∧ (∀ e : Fin 24, e ≠ d → t.m.chip.gmc.dev[e] = c.gmc.dev[e]) ∧
    bit t.m.chip.gmc.err 2 = true ∧ t.pending = s.pending ∧
    ((∃ e : Fin 24, e ≠ d ∧ c.gmc.dev[e].st = 2) → ∀ (g : Fin 1024) (x : Nat), t.m.chip.tile[g].mirrorSlot ≠ some (d.val, x)) ∧
    ((∀ i : Fin 16, c.sk[i].loading = none) → ∀ k : Fin 16, t.m.chip.hif.plans[k].copies = c.hif.plans[k].copies.erase d.val)) ∧
  (∀ d : Fin 24, c.gmc.dev[d].st ≠ 1 → c.gmc.dev[d].st ≠ 2 → Runs (.deviceRetire d) s fun t => t = s) ∧
  (∀ (v : W32) (d : Fin 24), c.errs = [] → fld v 0 5 = d.val → fld v 16 16 = 0xA5A5 → bit v 8 = true → (c.gmc.dev[d].st = 1 ∨ c.gmc.dev[d].st = 2) →
    Runs (.gmcRetireCtrl v) s fun t => t.m.chip.gmc.dev[d] = { c.gmc.dev[d] with st := 3, cause := 3 } ∧ bit t.m.chip.gmc.err 2 = true) ∧
  (∀ v : W32, (fld v 16 16 ≠ 0xA5A5 ∨ bit v 8 = false ∨ 24 ≤ fld v 0 5) → Runs (.gmcRetireCtrl v) s fun t => t = s) ∧
  (c.errs = [] → c.gmc.moved = true → Runs .mirrorRebuildDone s fun t =>
    OnlyChip { s with m := { s.m with mem := t.m.mem, poison := t.m.poison } } t
      { c with gmc := { c.gmc with rebuilding := [], moved := false, err := errBit c.gmc 3 } } ∧
    (∀ (g : Fin 1024) (slot : Nat × Nat) (k off : Nat), s.memWf → c.gmc.rebuilding = [g.val] → c.tile[g].mirrorSlot = some slot → k < 192 →
      bit c.tile[g].mirror k = true → k * 0x10000 ≤ off → off < (k + 1) * 0x10000 → t.byteAt (mirrorAddr slot + off) = s.byteAt (sliceAddr g + off)) ∧
    ∀ a, a < gddrBase → t.byteAt a = s.byteAt a) ∧
  (c.gmc.moved = false → Runs .mirrorRebuildDone s fun t => t = s) ∧
  (∀ (k : Fin 16) (d e : Nat), c.hif.plans[k].copies = [d] → Mach.copyPlace c d c.hif.plans[k].copyLen = some e → Runs (.planCopyRebuild k) s fun t =>
    t.m.chip.hif.plans = vput c.hif.plans k { c.hif.plans[k] with copies := [d, e] } ∧
    t.m.chip.gmc.copyGap = (fins 16).any (fun j => j != k && c.hif.plans[j].copies.length == 1) ∧
    OnlyChip s t { c with hif := { c.hif with plans := t.m.chip.hif.plans }, gmc := { c.gmc with copyGap := t.m.chip.gmc.copyGap } }) ∧
  (∀ k : Fin 16, c.hif.plans[k].copies.length ≠ 1 → Runs (.planCopyRebuild k) s fun t => t = s) ∧
  -- the scrub
  (c.errs = [] → c.gmc.scrubOn = true → c.packageMapped = true → Runs (.gddr7ScrubPass []) s fun t => OnlyChip s t { c with gmc := { c.gmc with err := errBit c.gmc 5 } }) ∧
  (∀ a, c.errs = [] → c.gmc.scrubOn = true → c.packageMapped = true → regionOf a = .gddr → c.gmc.dev[devOf a].st = 2 →
    (c.gmc.dev[devOf a].ueTimes.filter (fun x => c.time < x + secs 1)).length < 16 → Runs (.gddr7ScrubPass [⟨a, .correctable⟩]) s fun t =>
    t.m.chip.gmc.dev = vput c.gmc.dev (devOf a) { c.gmc.dev[devOf a] with ce := satAdd 16 c.gmc.dev[devOf a].ce 1 } ∧
    bit t.m.chip.gmc.err 0 = true ∧ gmcOnly t c) ∧
  (∀ a, c.errs = [] → c.gmc.scrubOn = true → c.packageMapped = true → regionOf a = .gddr → c.gmc.dev[devOf a].st = 2 → a / 64 * 64 ∉ s.m.poison →
    (c.gmc.dev[devOf a].ueTimes.filter (fun x => c.time < x + secs 1)).length < 15 → Runs (.gddr7ScrubPass [⟨a, .uncorrectable⟩]) s fun t =>
      t.m.chip.gmc.dev[devOf a].ue = satAdd 8 c.gmc.dev[devOf a].ue 1 ∧ bit t.m.chip.gmc.err 1 = true ∧ t.m.chip.gmc.ueValid = true ∧
      t.m.chip.gmc.ueDev = (devOf a).val ∧ t.m.chip.gmc.ueAddr = a / 64 * 64 ∧ t.m.mem = s.m.mem ∧
      (∀ u, u ∈ t.m.poison ↔ u ∈ s.m.poison ∨ u = a / 64 * 64)) ∧
  (∀ l, (c.gmc.scrubOn = false ∨ c.packageMapped = false) → Runs (.gddr7ScrubPass l) s fun t => t = s) ∧
  -- CXL windows and ports
  (∀ (w : Fin 16) (v : W64), c.railsOn = true → c.cxl.win[w].enable = false → bit v 63 = true → c.winOk w (fld v 30 14 * gib) = true →
    Runs (.cxpWinEnable w v) s fun t => OnlyChip s t { c with cxl := { c.cxl with
      win := vput c.cxl.win w { c.cxl.win[w] with base := fld v 30 14 * gib, enable := true, wstate := 1 } } }) ∧
  (∀ (w : Fin 16) (v : W64), c.railsOn = true → c.cxl.win[w].enable = false → (bit v 63 = false ∨ c.winOk w (fld v 30 14 * gib) = false) →
    Runs (.cxpWinEnable w v) s fun t => OnlyChip s t { c with cxl := { c.cxl with
      win := vput c.cxl.win w { c.cxl.win[w] with base := fld v 30 14 * gib } } }) ∧
  (∀ (w : Fin 16) (v : W64), c.railsOn = true → c.cxl.win[w].enable = true → Runs (.cxpWinEnable w v) s fun t =>
    OnlyChip s t { c with cxl := { c.cxl with
      win := vput c.cxl.win w (if bit v 63 then c.cxl.win[w] else { c.cxl.win[w] with enable := false, wstate := 0 }) } }) ∧
  (∀ (p : Fin 4) (cause : Fin 3), c.railsOn = true → c.cxl.port[p].st ≠ 0 → Runs (.cxlWindowDown p cause) s fun t =>
    (∀ w : Fin 16, t.m.chip.cxl.win[w] = if c.cxl.win[w].enable = true ∧ c.cxl.win[w].wstate = 1 ∧ p.val ∈ Mach.winPorts c.cxl.win[w] then
      { c.cxl.win[w] with wstate := 2 } else c.cxl.win[w]) ∧
    (∀ q : Fin 4, q ≠ p → t.m.chip.cxl.port[q] = c.cxl.port[q]) ∧ bit t.m.chip.cxl.port[p].err ([0, 2, 4].getD cause.val 0) = true ∧
    (cause = 0 → t.m.chip.cxl.port[p].st = 0 ∧ t.m.chip.cxl.port[p].width = 0 ∧ t.m.chip.cxl.port[p].devices = 0) ∧
    ((∀ n : Fin 4, c.dsq[n].pageIns = []) → OnlyChip s t { c with
      cxl := t.m.chip.cxl, sk := t.m.chip.sk, hif := { c.hif with port := t.m.chip.hif.port, cmds := t.m.chip.hif.cmds } })) ∧
  (∀ p : Fin 4, c.railsOn = true → bit c.mesh.cut (6 + p.val / 2) = false → (c.cxl.port[p].st = 0 ∨ c.cxl.port[p].st = 4) → Runs (.cxlRetrain p) s fun t =>
    OnlyChip s t { c with cxl := { c.cxl with port := vput c.cxl.port p { c.cxl.port[p] with st := if c.cxl.port[p].st = 4 then 3 else 1 } } }) ∧
  (∀ (p : Fin 4) (width : Nat) (fast lopt : Bool) (devices : Nat), c.railsOn = true → c.lit (6 + p.val / 2) = true →
    (c.cxl.port[p].st = 0 ∨ c.cxl.port[p].st = 1 ∨ c.cxl.port[p].st = 3) →
    (width = 4 ∨ width = 8 ∨ width = 16) → devices ≤ 8 → Runs (.cxlPortTrained p width fast lopt devices false) s fun t =>
      OnlyChip s t { c with cxl := { c.cxl with port := vput c.cxl.port p { c.cxl.port[p] with
        st := 2, width := width, speed := if fast then 6 else 5, flit := true, lopt := lopt, devices := devices } } }) ∧
  -- accesses of devices below a port
  (∀ v : W64, c.railsOn = true → c.cxl.cfgBusy = false → bit v 63 = true → Runs (.cxpCfgAccess v) s fun t =>
    Sends s t (.cxlCfg (fld v 56 2) (fld v 40 16) (fld v 2 10) (bit v 62) (if bit v 62 then c.cxl.cfgData.toNat else 0)) ∧
    OnlyChip s t { c with sent := t.m.chip.sent, cxl := { c.cxl with
      cfgBusy := true, cfgRun := bit v 62, cfgWrite := bit v 62, cfgPort := fld v 56 2, cfgBdf := fld v 40 16, cfgDword := fld v 2 10 } }) ∧
  (∀ v : W64, c.railsOn = true → c.cxl.cfgBusy = true → bit v 63 = true → Runs (.cxpCfgAccess v) s fun t => t = s) ∧
  (∀ (err : Bool) (data : W32), c.cxl.cfgBusy = true → Runs (.cxpCfgDone err data) s fun t => OnlyChip s t { c with cxl := { c.cxl with
    cfgBusy := false, cfgErr := err, cfgData := if err = true ∨ c.cxl.cfgRun = true then c.cxl.cfgData else data } }) ∧
  (∀ (hp : Fin 2) (off : BitVec 26) (size : Nat) (d answer : Bytes), c.portUp hp = true → (size = 4 ∨ size = 8) → off.toNat % size = 0 →
    Runs (.cxlApertureAccess hp off size (some d) answer) s (fun t =>
      Sends s t (.cxlMem (off.toNat / 0x1000000) (off.toNat % 0x1000000) (some (slice d 0 size)) size) ∧ OnlyChip s t { c with sent := t.m.chip.sent }) ∧
    Runs (.cxlApertureAccess hp off size none answer) s (fun t =>
      t.m.chip.sent = .barRead hp (slice answer 0 size) false :: .cxlMem (off.toNat / 0x1000000) (off.toNat % 0x1000000) none size :: c.sent ∧
      OnlyChip s t { c with sent := t.m.chip.sent }))

/-- R9, R10, R13, R186, R187, R188, R189, R162, R196, R197, R206, R232, R233, R234: writes of registers and accesses of module memory through a port, doorbells, the admin
queue's enable, and what a host's link and failure do. -/
def Obligations.RegistersAndPortsAct : Prop := ∀ (s : State) (hp : Fin 2),
  let c := s.m.chip
  let hif := fun (t : State) (h : Hif) => OnlyChip s t { c with hif := h }
  let counted := fun (b : Nat) (k : Fin 8) => ({ c.hif with err := setBit c.hif.err b true, cnt := upd c.hif.cnt k (fun n => satAdd 32 n 1) } : Hif)
  let port := fun (t : State) => OnlyChip s t { c with hif := { c.hif with port := t.m.chip.hif.port } }
  -- registers: write-one-to-clear, plain and reserved values, narrow and unmapped accesses, the MSI-X table
  (∀ v : W64, c.portUp hp = true → Runs (.registerWrite hp false 0x10 4 (some v)) s fun t => hif t { c.hif with err := c.hif.err &&& ~~~ BitVec.ofNat 7 (v.toNat % 2 ^ 32) }) ∧
  (∀ v : W64, c.portUp hp = true → v.toNat < 65536 → Runs (.registerWrite hp false 0x500010 4 (some v)) s fun t => OnlyChip s t { c with str := { c.str with
    window := if 40 ≤ v.toNat ∧ v.toNat ≤ 1000 then v.toNat else c.str.window } }) ∧
  (∀ (k : Fin 16) (off : W32) (v : W64), c.portUp hp = true → off.toNat = 0x10000C + 0x10000 * k.val → Runs (.registerWrite hp false off 4 (some v)) s fun t =>
    OnlyChip s t { c with sk := vput c.sk k { c.sk[k] with nap := BitVec.ofNat 16 v.toNat }, tile := t.m.chip.tile } ∧
    ∀ g : Fin 1024, t.m.chip.tile[g] = if skOf g = k ∧ c.tile[g].idle = 1 ∧ c.tile[g].napHeld = none then { c.tile[g] with napHeld := some c.sk[k].nap }
      else c.tile[g]) ∧
  (∀ (off : W32) (size : Nat) (v : W64), c.portUp hp = true → listed off.toNat = true → (size = 1 ∨ size = 2 ∨ off.toNat % size ≠ 0) →
    Runs (.registerWrite hp false off size (some v)) s (fun t => hif t (counted 0 0)) ∧
    Runs (.registerWrite hp false off size none) s fun t =>
      Sends s t (.barRead hp (List.replicate size 0) false) ∧ OnlyChip s t { c with sent := t.m.chip.sent, hif := counted 0 0 }) ∧
  (∀ (off : W32) (size : Nat) (v : W64), c.portUp hp = true → listed off.toNat = false →
    Runs (.registerWrite hp false off size (some v)) s (fun t => hif t (counted 1 1)) ∧
    Runs (.registerWrite hp false off size none) s fun t =>
      Sends s t (.barRead hp (List.replicate size 0xFF) false) ∧ OnlyChip s t { c with sent := t.m.chip.sent, hif := counted 1 1 }) ∧
  (c.portUp hp = true → Runs (.registerWrite hp false 0x10 4 none) s fun t =>
    Sends s t (.barRead hp (bytesLe 4 c.hif.err.toNat) false) ∧ OnlyChip s t { c with sent := t.m.chip.sent }) ∧
  (∀ (b : Bool) (off : W32) (size : Nat) (v : Option W64), c.portUp hp = false → Runs (.registerWrite hp b off size v) s fun t => t = s) ∧
  (∀ (k : Nat) (off : W32) (v : W64), c.portUp hp = true → k < 2048 → off.toNat = 16 * k → k ∉ c.hif.port[hp].pba → Runs (.registerWrite hp true off 8 (some v)) s fun t =>
    (fld (spGet (BitVec.ofNat 128 (2 ^ 96)) k t.m.chip.hif.port[hp].msix) 0 64 = v.toNat) ∧ port t) ∧
  -- BAR2
  (∀ (a : BitVec 38) (n : Nat) (d : Bytes), c.portUp hp = true → c.errs = [] → 0 < n → (∀ i, i < n → c.mapped (a.toNat + i) = true) →
    c.holds (some (portSkerry hp).val) a.toNat n = false → Mach.mirrorPieces c a.toNat (slice d 0 n) = [] → Runs (.bar2Access hp a n (some d) []) s fun t =>
      Stores s t a.toNat (slice d 0 n) ∧ t.m.chip = c ∧ t.pending = s.pending ∧ ∀ u, u ∈ t.m.poison ↔ u ∈ s.m.poison ∧ ¬(a.toNat ≤ u ∧ u + 64 ≤ a.toNat + n)) ∧
  (∀ (a : BitVec 38) (d : Bytes) (slot : Nat × Nat), c.portUp hp = true → c.errs = [] → a.toNat < sramSize → c.mapped a.toNat = true →
    c.holds (some (portSkerry hp).val) a.toNat 1 = false →
    c.granule (tileOfSram a.toNat) (a.toNat % sliceSize) = true → c.tile[tileOfSram a.toNat].mirrorSlot = some slot → Runs (.bar2Access hp a 1 (some d) []) s fun t =>
      t.byteAt a.toNat = d.headD 0 ∧ t.byteAt (mirrorAddr slot + a.toNat % sliceSize) = d.headD 0 ∧ t.m.chip = c) ∧
  (∀ (a : BitVec 38) (n : Nat), c.portUp hp = true → c.errs = [] → 0 < n → (∀ i, i < n → c.mapped (a.toNat + i) = true) →
    c.holds (some (portSkerry hp).val) a.toNat n = false → s.m.badUnits a.toNat n = [] →
    Runs (.bar2Access hp a n none []) s fun t =>
      Sends s t (.barRead hp ((List.range n).map (fun i => s.byteAt (a.toNat + i))) false) ∧ OnlyChip s t { c with sent := t.m.chip.sent, free := c.free + n }) ∧
  (∀ (a : BitVec 38) (n : Nat), c.portUp hp = true → c.errs = [] → 0 < n → (∀ i, i < n → c.mapped (a.toNat + i) = false) →
    c.holds (some (portSkerry hp).val) a.toNat n = false →
    Runs (.bar2Access hp a n none []) s fun t =>
      Sends s t (.barRead hp (List.replicate n 0xFF) false) ∧ OnlyChip s t { c with sent := t.m.chip.sent, free := c.free + n, hif := counted 1 1 }) ∧
  -- doorbells
  (∀ (slot : BitVec 18) (v : W32) (q : Queue), c.portUp hp = true → c.queue? slot.toNat = some q → q.st = .active → q.port = hp →
    fld v 18 14 = spGet 1 slot.toNat c.hif.qgen →
    (fld v 0 16 < q.ring.n → Runs (.submissionTailDoorbell hp (.io slot) v) s fun t =>
      t.m.chip.ringOf (.io slot) = some { q.ring with sqTail := fld v 0 16 } ∧ OnlyChip s t { c with hif := { c.hif with queues := t.m.chip.hif.queues } }) ∧
    (fld v 0 16 < q.ring.m → Runs (.completionHeadDoorbell hp (.io slot) v) s fun t =>
      t.m.chip.ringOf (.io slot) = some { q.ring with cqHead := fld v 0 16 } ∧ OnlyChip s t { c with hif := { c.hif with queues := t.m.chip.hif.queues } }) ∧
    (q.ring.n ≤ fld v 0 16 → Runs (.submissionTailDoorbell hp (.io slot) v) s fun t => hif t (counted 2 2))) ∧
  (∀ (slot : BitVec 18) (v : W32), c.portUp hp = true → c.queue? slot.toNat = none → Runs (.completionHeadDoorbell hp (.io slot) v) s fun t => hif t (counted 2 2)) ∧
  (∀ v : W32, c.portUp hp = true → Runs (.submissionTailDoorbell hp (.admin (other hp)) v) s fun t => hif t (counted 3 3)) ∧
  -- the admin queue
  (∀ v : W32, c.portUp hp = true → c.hif.port[hp].aq.enable = false → bit v 31 = true → 4 ≤ fld v 16 4 → fld v 16 4 ≤ 12 → 4 ≤ fld v 20 4 → fld v 20 4 ≤ 12 →
    Runs (.aqEnable hp hp v) s fun t =>
      t.m.chip.hif.port[hp].aq.enable = true ∧ t.m.chip.hif.port[hp].aq.ready = true ∧ t.m.chip.hif.port[hp].aq.vector = fld v 0 11 ∧
      t.m.chip.hif.port[hp].aq.ring = { resetRing with
        sqBase := c.hif.port[hp].aq.asq.toNat, cqBase := c.hif.port[hp].aq.acq.toNat, n := 2 ^ fld v 16 4, m := 2 ^ fld v 20 4, vector := fld v 0 11 } ∧
      t.m.chip.hif.port[other hp] = c.hif.port[other hp] ∧ port t) ∧
  (∀ v : W32, c.portUp hp = true → Runs (.aqEnable hp (other hp) v) s fun t => hif t (counted 3 3)) ∧
  (∀ v : W32, c.portUp hp = true → c.hif.port[hp].aq.enable = true → c.hif.port[hp].aq.ready = true → bit v 31 = false → Runs (.aqDisable hp hp v) s fun t =>
    t.m.chip.hif.port[hp].aq = { c.hif.port[hp].aq with enable := false, closing := true } ∧ t.m.chip.hif.port[hp].evReq = [] ∧
    (∀ x ∈ t.m.chip.hif.cmds, x.q = .admin hp → x.detached = true) ∧ KeepsMem s t) ∧
  -- links and hosts
  (∀ (width : Nat) (fn : PciFn), c.railsOn = true → c.lit (6 + hp.val) = true → (width = 4 ∨ width = 8 ∨ width = 16) →
    (fn.payload = 128 ∨ fn.payload = 256 ∨ fn.payload = 512) → fn.readReq ≤ 4096 → Runs (.hostLinkUp hp width fn) s fun t =>
    t.m.chip.hif.port[hp] = { c.hif.port[hp] with
      st := if c.hif.port[hp].st = 2 then 2 else 1, width := width, speed := if fn.fast then 6 else 5, fn := fn, pba := t.m.chip.hif.port[hp].pba } ∧
    ((fn.msixOn = false ∨ c.hif.port[hp].pba = []) → t.m.chip.hif.port[hp].pba = c.hif.port[hp].pba ∧ t.m.chip.sent = c.sent) ∧
    t.m.chip.hif.port[other hp] = c.hif.port[other hp] ∧ OnlyChip s t { c with sent := t.m.chip.sent, hif := { c.hif with port := t.m.chip.hif.port } }) ∧
  Runs (.hostLinkDown hp) s (fun t =>
    t.m.chip.hif.port[hp] = { c.hif.port[hp] with st := if c.hif.port[hp].st = 2 then 2 else 0, width := 0, speed := 0 } ∧
    t.m.chip.hif.port[other hp] = c.hif.port[other hp] ∧ port t) ∧
  (c.railsOn = true → c.hif.port[hp].st ≠ 2 → Runs (.hostFailure ⟨hp, false⟩) s fun t =>
    t.m.chip.hif.port[hp].st = 2 ∧ t.m.chip.hif.port[hp].aq = resetAdminQ ∧ t.m.chip.hif.port[hp].msix = [] ∧ bit t.m.chip.hif.err (5 + hp.val) = true ∧
    (∀ q ∈ t.m.chip.hif.queues, q.port ≠ hp) ∧ (∀ r ∈ t.m.chip.hif.regions, r.port ≠ hp) ∧
    (∀ r ∈ t.m.chip.sec.roles, r.client.path ≠ if hp = 0 then .pcie0 else .pcie1) ∧ KeepsMem s t) ∧
  (c.hif.port[hp].st = 2 → Runs (.hostCleanupDone hp) s fun t =>
    t.m.chip.hif.port[hp] = { c.hif.port[hp] with st := if c.hif.port[hp].width = 0 then 0 else 1 } ∧
    t.m.chip.hif.port[other hp] = c.hif.port[other hp] ∧ KeepsMem s t) ∧
  (c.hif.port[hp].st ≠ 2 → Runs (.hostCleanupDone hp) s fun t => t = s)

/-- R194, R195, R198, R199, R200, R201, R202, R203, R206, R209, R210, R211: entries are fetched and checked, completions written with their interrupts, queues created, stopped
and freed; IDENTIFY, regions, permission, ABORT, events, NOP and COPY complete with their status (R212 to R218). -/
def Obligations.HostCommandsComplete : Prop := ∀ (s : State) (id : Nat) (x : Cmd),
  let c := s.m.chip
  let hif := fun (t : State) => OnlyChip s t { c with hif := t.m.chip.hif, sent := t.m.chip.sent }
  let cmds := fun (t : State) (h : Hif) => OnlyChip s t { c with hif := { h with cmds := t.m.chip.hif.cmds } }
  let own := fun (op : Nat) => c.take op id = some x ∧ x.detached = false
  let ends := fun (t : State) (status result : Nat) => t.m.chip.cmd? id = some { x with started := true, ended := some (status, result) }
  -- fetch
  (∀ (p : Fin 2) (e : BitVec 512) (q : QRef) (r : Ring), c.portUp p = true → (c.hif.cmds.filter (fun y => y.port == p)).length < 4096 → c.nextQueue p = some q →
    c.ringOf q = some r → (∀ y ∈ c.hif.cmds, y.id ≠ c.hif.nextId) → Runs (.commandFetch p e) s fun t =>
      let st := firstChecks (match q with | .admin _ => true | .io _ => false) e
      t.m.chip.cmd? c.hif.nextId = some
        { id := c.hif.nextId, port := p, q := q, tag := fld e 32 32, sqHead := (r.sqHead + 1) % r.n, entry := e, started := decide (st ≠ 0),
          ended := if st = 0 then none else some (st, 0), detached := false, late := decide (c.mod.st = .draining) || (decide (c.mod.st = .ochre) && decide (c.mod.before = .draining)),
          serving := decide (c.mod.st = .serving), moved := 0, stopAt := none, part := [],
          bar := c.runBar (match q with | .admin _ => false | .io _ => true) e } ∧
      t.m.chip.hif.nextId = c.hif.nextId + 1 ∧ t.m.chip.ringOf q = some { r with sqHead := (r.sqHead + 1) % r.n } ∧
      Sends s t (.dmaRead p (r.sqBase + 64 * r.sqHead) 64) ∧ hif t) ∧
  -- completions and interrupts
  (∀ (st res : Nat) (r : Ring), c.cmd? id = some x → x.ended = some (st, res) → x.detached = false → c.ringOf x.q = some r → c.servedQ x.q = true → c.portUp x.port = true →
    (∀ h ∈ c.held, h.who ≠ .copy id) → (r.cqTail + 1) % r.m ≠ r.cqHead →
    let entry := Msg.dmaWrite x.port (r.cqBase + 16 * r.cqTail)
      (bytesLe 4 x.tag ++ bytesLe 4 res ++ bytesLe 2 x.sqHead ++ bytesLe 2 0 ++ bytesLe 2 st ++ bytesLe 1 (b2n r.phase) ++ bytesLe 1 0) false
    let phase := if r.cqTail + 1 = r.m then !r.phase else r.phase
    (∀ slot, x.q = .io slot → st = 0 → r.cnt ≠ 0 → r.tim ≠ 0 → r.unsig + 1 < r.cnt → Runs (.completionWrite id) s fun t =>
      Sends s t entry ∧ t.m.chip.cmd? id = none ∧
      t.m.chip.ringOf x.q = some { r with cqTail := (r.cqTail + 1) % r.m, phase := phase, unsig := r.unsig + 1 } ∧ hif t) ∧
    ((∃ p, x.q = .admin p) ∨ st ≠ 0 ∨ r.cnt = 0 ∨ r.tim = 0 ∨ r.cnt ≤ r.unsig + 1 → Runs (.completionWrite id) s fun t =>
      (∃ l, t.m.chip.sent = l ++ entry :: c.sent) ∧ t.m.chip.cmd? id = none ∧
      t.m.chip.ringOf x.q = some { r with cqTail := (r.cqTail + 1) % r.m, phase := phase, unsig := 0 } ∧ hif t)) ∧
  (∀ (st res : Nat) (r : Ring), c.cmd? id = some x → x.ended = some (st, res) → c.ringOf x.q = some r → (r.cqTail + 1) % r.m = r.cqHead →
    Runs (.completionWrite id) s fun t => t = s) ∧
  (∀ (q : QRef) (p : Fin 2) (r : Ring), c.portOf q = some p → c.ringOf q = some r → 0 < r.unsig → r.vector < 2048 → c.portUp p = true →
    c.hif.port[p].fn.msixOn = true → c.hif.port[p].fn.msixMask = false → bit (spGet (BitVec.ofNat 128 (2 ^ 96)) r.vector c.hif.port[p].msix) 96 = false → Runs (.interruptTimerExpiry q) s fun t =>
      Sends s t (.msix p r.vector) ∧ t.m.chip.ringOf q = some { r with unsig := 0 } ∧ hif t) ∧
  -- queues
  (∀ (slot : BitVec 18) (q : Queue), c.queue? slot.toNat = some q → q.st = .active → Runs (.queueStop (.io slot)) s fun t =>
    t.m.chip.queue? slot.toNat = some { q with st := .stopped } ∧ bit t.m.chip.hif.err 4 = true ∧ hif t) ∧
  (∀ (slot : BitVec 18) (q : Queue), c.queue? slot.toNat = some q → q.st = .destroying → Runs (.queueFreed (.io slot)) s fun t =>
    t.m.chip.queue? slot.toNat = none ∧ spGet 1 slot.toNat t.m.chip.hif.qgen = nextGen (spGet 1 slot.toNat c.hif.qgen) ∧ KeepsMem s t) ∧
  (∀ (a b : Region) (slot : Nat), own 2 → c.twoRegions x.port (x.f 8 4) (x.f 12 4) = .ok (a, b) → 4 ≤ x.f 32 1 → x.f 32 1 ≤ 16 → 4 ≤ x.f 33 1 → x.f 33 1 ≤ 16 →
    (x.f 34 2 ≤ 2047 ∨ x.f 34 2 = 0xFFFF) → x.f 16 8 % 4096 = 0 → x.f 24 8 % 4096 = 0 → a.holds (x.f 16 8) (64 * 2 ^ x.f 32 1) false = true →
    b.holds (x.f 24 8) (16 * 2 ^ x.f 33 1) true = true → c.hif.queues.length < 262144 → slot = lowestFree (c.hif.queues.map (fun q => q.slot)) →
    Runs (.createQueue id) s fun t =>
      ends t 0 (handleOf slot (spGet 1 slot c.hif.qgen)) ∧
      cmds t { c.hif with queues := c.hif.queues ++ [{
        slot := slot, st := .active, port := x.port, cls := x.f 40 1, sqReg := x.f 8 4, cqReg := x.f 12 4, destroyer := none,
        ring := { resetRing with
          sqBase := a.base + x.f 16 8, cqBase := b.base + x.f 24 8, n := 2 ^ x.f 32 1, m := 2 ^ x.f 33 1, vector := x.f 34 2, cnt := x.f 36 2, tim := x.f 38 2 } }] }) ∧
  (∀ q : Queue, own 3 → c.queueOf x.port (x.f 8 4) = .ok q → q.st ≠ .destroying → Runs (.destroyQueue id) s fun t =>
    t.m.chip.queue? q.slot = some { q with st := .destroying, destroyer := some x.id } ∧ KeepsMem s t) ∧
  (∀ q : Queue, own 3 → c.queueOf x.port (x.f 8 4) = .ok q → q.st = .destroying → Runs (.destroyQueue id) s fun t => ends t 6 0 ∧ cmds t c.hif) ∧
  -- identity and regions
  (∀ r : Region, own 1 → c.portUp x.port = true → c.regionAt x.port (x.f 8 4) = .ok r → x.f 16 8 % 4096 = 0 → r.holds (x.f 16 8) 4096 true = true →
    Runs (.identify id) s fun t => ends t 0 0 ∧ Sends s t (.dmaWrite x.port (r.base + x.f 16 8) (c.identifyPage x.port) false) ∧ hif t) ∧
  (∀ e, own 1 → c.regionAt x.port (x.f 8 4) = .error e → Runs (.identify id) s fun t => ends t e 0 ∧ cmds t c.hif) ∧
  (∀ slot, own 4 → x.f 8 8 % 4096 = 0 → x.f 16 8 % 4096 = 0 → 4096 ≤ x.f 16 8 → x.f 16 8 ≤ 2 ^ 40 → x.f 24 1 ≠ 0 → c.hif.regions.length < 65536 →
    slot = lowestFree (c.hif.regions.map (fun r => r.slot)) → Runs (.registerRegion id) s fun t =>
      ends t 0 (handleOf slot (spGet 1 slot c.hif.rgen)) ∧
      cmds t { c.hif with regions := c.hif.regions ++ [⟨slot, x.port, x.f 8 8, x.f 16 8, nbit (x.f 24 1) 0, nbit (x.f 24 1) 1⟩] }) ∧
  (own 4 → (x.f 8 8 % 4096 ≠ 0 ∨ x.f 16 8 = 0 ∨ 2 ^ 40 < x.f 16 8 ∨ x.f 24 1 = 0) → Runs (.registerRegion id) s fun t => ends t 2 0 ∧ cmds t c.hif) ∧
  (∀ r : Region, own 5 → c.regionAt x.port (x.f 8 4) = .ok r → (∀ q ∈ c.hif.queues, q.sqReg ≠ x.f 8 4 ∧ q.cqReg ≠ x.f 8 4) →
    (∀ y ∈ c.hif.cmds, y.id ≠ x.id → namesRegion y (x.f 8 4) = false) → (∀ i : Fin 128, c.seq[i].st ≠ .generating) → Runs (.releaseRegion id) s fun t =>
      ends t 0 0 ∧ t.m.chip.region? r.slot = none ∧ spGet 1 r.slot t.m.chip.hif.rgen = nextGen (spGet 1 r.slot c.hif.rgen) ∧ hif t) ∧
  (∀ r : Region, own 5 → c.regionAt x.port (x.f 8 4) = .ok r → (∃ q ∈ c.hif.queues, q.sqReg = x.f 8 4) → Runs (.releaseRegion id) s fun t => ends t 0x0D 0 ∧ cmds t c.hif) ∧
  -- permission, ABORT, events, NOP
  (own 9 → x.f 8 1 ≠ 0 → x.f 8 1 ≤ 2 → (c.mod.st = .packageOn ∨ c.mod.st = .serving) → c.sec.ret = 0 → Runs (.setPermission id) s fun t => ends t 0 0 ∧ cmds t c.hif) ∧
  (own 9 → x.f 8 1 = 0 → c.mod.st = .standby → Runs (.setPermission id) s fun t =>
    ends t 0 0 ∧ t.m.chip.mod = { c.mod with permit := 0, opening := .idle } ∧
    OnlyChip s t { c with mod := t.m.chip.mod, ad := { c.ad with ch := t.m.chip.ad.ch }, hif := { c.hif with cmds := t.m.chip.hif.cmds } }) ∧
  (own 9 → x.f 8 1 = 0 → canDrain c.mod.st = true → Runs (.setPermission id) s fun t =>
    ends t 0 0 ∧ OnlyChip s t { c with mod := { c.mod with stopReq := some (c.mod.stopReq.getD 2) }, hif := { c.hif with cmds := t.m.chip.hif.cmds } }) ∧
  (own 9 → 2 < x.f 8 1 → Runs (.setPermission id) s fun t => ends t 2 0 ∧ cmds t c.hif) ∧
  (own 9 → x.f 8 1 ≤ 2 → c.mod.st = .ochre → Runs (.setPermission id) s fun t => ends t 0x12 0 ∧ cmds t c.hif) ∧
  (∀ q : Queue, own 0x0A → c.queueOf x.port (x.f 8 4) = .ok q → (∀ y ∈ c.hif.cmds, y.q ≠ .io (BitVec.ofNat 18 q.slot) ∨ y.tag ≠ x.f 12 4 ∨ y.ended.isSome = true ∨ y.detached = true) →
    Runs (.abort id) s fun t => ends t 0 0 ∧ cmds t c.hif) ∧
  (∀ (q : Queue) (y : Cmd), own 0x0A → c.queueOf x.port (x.f 8 4) = .ok q → c.cmd? y.id = some y → y.id ≠ x.id → y.q = .io (BitVec.ofNat 18 q.slot) → y.tag = x.f 12 4 →
    y.started = false → y.ended = none → y.detached = false → (∀ z ∈ c.hif.cmds, z ≠ y → z.q ≠ y.q ∨ z.tag ≠ y.tag) → Runs (.abort id) s fun t =>
      ends t 0 1 ∧ t.m.chip.cmd? y.id = some { y with started := true, ended := some (0x11, 0) } ∧ hif t) ∧
  (own 0x0B → c.hif.port[x.port].evReq.length < 8 → c.hif.port[x.port].evQ = [] → Runs (.eventRequest id) s fun t =>
    t.m.chip.hif.port[x.port] = { c.hif.port[x.port] with evReq := c.hif.port[x.port].evReq ++ [x.id] } ∧ t.m.chip.cmd? id = some { x with started := true } ∧ hif t) ∧
  (∀ w rest, own 0x0B → c.hif.port[x.port].evReq.length < 8 → c.hif.port[x.port].evQ = w :: rest → Runs (.eventRequest id) s fun t =>
    ends t 0 (w + if c.hif.port[x.port].evLost then 2 ^ 27 else 0) ∧
    t.m.chip.hif.port[x.port] = { c.hif.port[x.port] with evQ := rest, evLost := false } ∧ hif t) ∧
  (own 0x0B → 8 ≤ c.hif.port[x.port].evReq.length → Runs (.eventRequest id) s fun t => ends t 5 0 ∧ cmds t c.hif) ∧
  (own 0x20 → Runs (.ioNop id) s fun t => ends t 0 0 ∧ cmds t c.hif) ∧
  -- COPY
  (∀ (r : Region) (a : Nat), own 0x21 → s.m.copyCheck x = .ok (r, a) → c.portUp x.port = true → x.f 12 1 ≠ 0 →
    c.holds (some (portSkerry x.port).val) a (x.f 32 8) = false →
    c.errs = [] → s.m.badUnits a (x.f 32 8) = [] → Runs (.copy id) s fun t =>
      ends t 0 0 ∧ Sends s t (.dmaWrite x.port (r.base + x.f 16 8) ((List.range (x.f 32 8)).map (fun i => s.byteAt (a + i))) false) ∧ hif t) ∧
  (∀ (r : Region) (a : Nat), own 0x21 → s.m.copyCheck x = .ok (r, a) → c.portUp x.port = true → x.f 12 1 = 0 → Runs (.copy id) s fun t =>
    t.m.chip.cmd? id = some { x with started := true } ∧ Sends s t (.dmaRead x.port (r.base + x.f 16 8) (x.f 32 8)) ∧ hif t) ∧
  (∀ e, own 0x21 → s.m.copyCheck x = .error e → Runs (.copy id) s fun t => ends t e 0 ∧ (e ≠ 7 ∨ x.f 12 1 ≠ 0 → t.m.chip.gmc = c.gmc) ∧
    OnlyChip s t { c with gmc := { c.gmc with err := t.m.chip.gmc.err }, hif := { c.hif with cmds := t.m.chip.hif.cmds } }) ∧
  (∀ (a : Nat) (b : Bytes), c.cmd? id = some x → x.detached = false → x.op = 0x21 → x.started = true → x.ended = none → x.f 12 1 = 0 → c.portUp x.port = true → c.held = [] →
    c.errs = [] → c.localOf (x.f 24 8) = some a → c.rangeMapped a (x.f 32 8) = true →
    let l := x.part ++ b
    let n := if copyGoal x - x.moved ≤ l.length then copyGoal x - x.moved else (a + x.moved + l.length) / 16 * 16 - (a + x.moved)
    let y := { x with moved := x.moved + n, part := l.drop n }
    c.holds (some (portSkerry x.port).val) (a + x.moved) n = false → Mach.mirrorPieces c (a + x.moved) (slice l 0 n) = [] → Runs (.hostDmaCompletion id (.data b)) s fun t =>
      (copyGoal x ≤ x.moved + n → t.m.chip.cmd? id = some { y with ended := some (if x.stopAt.isSome then 0x11 else 0, 0) }) ∧
      (x.moved + n < copyGoal x → t.m.chip.cmd? id = some y) ∧ Stores s t (a + x.moved) (slice l 0 n) ∧ (regionOf (a + x.moved) ≠ .staging → t.m.chip.tile = c.tile) ∧
      OnlyChip { s with m := { s.m with mem := t.m.mem, poison := t.m.poison } } t
        { c with tile := t.m.chip.tile, hif := { c.hif with cmds := t.m.chip.hif.cmds } }) ∧
  (c.cmd? id = some x → x.detached = false → x.op = 0x21 → x.started = true → x.ended = none → c.portUp x.port = true → c.hif.loads = [] →
    Runs (.hostDmaCompletion id .error) s fun t => ends t 9 0 ∧ bit t.m.chip.hif.err 4 = true ∧ hif t)

/-- R219, R220, R221, R224, R229, R230, R231: a plan is loaded in its three steps, run by the runner, stopped by its timeout, restarted, unloaded and freed. -/
def Obligations.PlansLoadRunAndUnload : Prop := ∀ (s : State) (id : Nat) (x : Cmd) (k : Fin 16),
  let c := s.m.chip
  let p := c.hif.plans[k]
  let own := fun (op : Nat) => c.take op id = some x ∧ x.detached = false
  let ends := fun (t : State) (status result : Nat) => t.m.chip.cmd? id = some { x with started := true, ended := some (status, result) }
  let hif := fun (t : State) => OnlyChip s t { c with hif := t.m.chip.hif, sent := t.m.chip.sent }
  let serving := !x.late && (x.serving || decide (c.mod.st = .serving))
  -- load: the checks, the slot taken, the image, the plan Ready
  (∀ (r : Region) (head table : Bytes), own 6 → c.regionAt x.port (x.f 8 4) = .ok r → r.holds (x.f 16 8) (x.f 24 8) false = true →
    c.loadCheck serving (x.f 24 8) head (sectsOf head table) = 0 → c.portUp x.port = true → (fins 16).find? (fun j => decide (c.hif.plans[j].st = .free)) = some k →
    Runs (.loadPlan id head table) s fun t =>
      t.m.chip.hif.plans[k].st = .loading ∧ t.m.chip.hif.plans[k].gen = p.gen ∧ t.m.chip.hif.plans[k].kind = fieldLe head 16 1 ∧
      t.m.chip.hif.plans[k].planId = slice head 48 16 ∧ t.m.chip.hif.plans[k].params = slice head 64 64 ∧
      t.m.chip.hif.plans[k].imgs.map (fun i => i.tile) = tilesWith 1 (sectsOf head table) ∧ t.m.chip.hif.plans[k].copies.length = 2 ∧
      t.m.chip.hif.loads = c.hif.loads ++ [⟨x.id, k.val, head, table, c.hif.policy, c.hif.keys, 1⟩] ∧
      Sends s t (.dmaRead x.port (r.base + x.f 16 8) (x.f 24 8)) ∧ t.m.chip.cmd? id = some { x with started := true } ∧ hif t) ∧
  (∀ (r : Region) (head table : Bytes) (st : Nat), own 6 → c.regionAt x.port (x.f 8 4) = .ok r → r.holds (x.f 16 8) (x.f 24 8) false = true →
    c.loadCheck serving (x.f 24 8) head (sectsOf head table) = st → st ≠ 0 → Runs (.loadPlan id head table) s fun t => ends t st 0 ∧ t.m.chip.hif.plans = c.hif.plans ∧ hif t) ∧
  (∀ (ld : Load) (image : Bytes), c.hif.loads = [ld] → ld.stage = 1 → ld.slot = k.val → sectsOf ld.head ld.table = [] →
    (Chip.signatureOk ld (slice image 0 (fieldLe ld.head 8 8)) = true → Runs (.planImageReadDone image) s fun t =>
      OnlyChip s t { c with hif := { c.hif with loads := [{ ld with stage := 2 }] } }) ∧
    (Chip.signatureOk ld (slice image 0 (fieldLe ld.head 8 8)) = false → c.cmd? id = some x → ld.cmd = id → x.ended = none → x.detached = false →
      Runs (.planImageReadDone image) s fun t =>
        ends t 0x0C 0 ∧ t.m.chip.hif.loads = [] ∧ t.m.chip.hif.plans[k] = { resetPlan with gen := if p.gen = 16383 then 1 else p.gen + 1 } ∧ hif t)) ∧
  (∀ (ld : Load) (sec : Sect) (image : Bytes), c.hif.loads = [ld] → ld.stage = 1 → ld.slot = k.val → sectsOf ld.head ld.table = [sec] → sec.typ = 1 →
    ((chunks 8 (slice (slice image 0 (fieldLe ld.head 8 8)) sec.off sec.len)).map (fun b => BitVec.ofNat 64 (numLe b))).all wordLoads = true →
    Chip.signatureOk ld (slice image 0 (fieldLe ld.head 8 8)) = true → Runs (.planImageReadDone image) s fun t =>
      t.m.chip.hif.plans[k].imgs = p.imgs.map (fun i => if i.tile = sec.target then
        { i with prog := (chunks 8 (slice (slice image 0 (fieldLe ld.head 8 8)) sec.off sec.len)).map (fun b => BitVec.ofNat 64 (numLe b)) } else i) ∧ hif t) ∧
  (∀ ld : Load, c.hif.loads = [ld] → ld.stage = 2 → ld.slot = k.val → c.held = [] → c.cmd? id = some x → ld.cmd = id → x.ended = none → x.detached = false →
    Runs .planLoadComplete s fun t =>
      ends t 0 (handleOf k.val p.gen) ∧ t.m.chip.hif.plans[k] = { p with st := .ready } ∧ t.m.chip.hif.loads = [] ∧
      (∀ i ∈ p.imgs, t.m.chip.tile[(Fin.ofNat 1024 i.tile : Fin 1024)].plan = some k) ∧
      (∀ i ∈ p.imgs, i.tile < 1024 → s.m.tileWhole (Fin.ofNat 1024 i.tile) = true → (∀ j ∈ p.imgs, j.tile = i.tile → j = i) →
        let y := t.m.chip.tile[(Fin.ofNat 1024 i.tile : Fin 1024)]
        y.exec = .running ∧ y.pc = 0 ∧ y.x = Vector.replicate 16 0 ∧ y.c = Vector.replicate 16 0 ∧ y.flags = 0 ∧ y.entry = i.entry ∧ y.trap = i.trap ∧ y.seed = i.seed ∧
        y.ctr = i.ctr) ∧
      t.pending = s.pending) ∧
  -- unload
  (own 7 → c.planOf (x.f 8 4) = .ok k → (p.st = .ready ∨ p.st = .stopped) → p.run = none → c.waitingRuns k = [] →
    (∀ i : Fin 128, c.seq[i].st = .free ∨ (c.seq[i].plan ≠ k.val ∧ c.seq[i].draft ≠ some k.val)) → (∀ n : Fin 4, c.dsq[n].run = none) → Runs (.unloadPlan id) s fun t =>
      t.m.chip.hif.plans[k] = { p with st := .unloading, unloader := some x.id } ∧ t.m.chip.cmd? id = some { x with started := true } ∧ hif t) ∧
  (own 7 → c.planOf (x.f 8 4) = .ok k → (p.st = .loading ∨ p.st = .unloading) → Runs (.unloadPlan id) s fun t => ends t 6 0 ∧ t.m.chip.hif.plans = c.hif.plans ∧ hif t) ∧
  (p.st = .unloading → c.cmd? id = some x → p.unloader = some id → x.ended = none → x.detached = false → Runs (.unloadComplete k) s fun t =>
    ends t 0 0 ∧ t.m.chip.hif.plans[k] = { resetPlan with gen := if p.gen = 16383 then 1 else p.gen + 1 } ∧
    (∀ i ∈ p.imgs, t.m.chip.tile[(Fin.ofNat 1024 i.tile : Fin 1024)].plan = none ∧ t.m.chip.tile[(Fin.ofNat 1024 i.tile : Fin 1024)].mirror = 0) ∧ KeepsMem s t) ∧
  -- run
  (own 0x22 → x.bar ≠ 0 → Runs (.runPlan id) s fun t => ends t x.bar 0 ∧ hif t) ∧
  (own 0x22 → x.bar = 0 → c.planOf (x.f 8 4) = .ok k → p.kind = 2 → p.st = .ready → x.late = false → Runs (.runPlan id) s fun t =>
    t.m.chip.hif.plans[k] = { p with queue := insertNat x.id p.queue } ∧ t.m.chip.cmd? id = some { x with started := true } ∧ hif t) ∧
  (own 0x22 → x.bar = 0 → c.planOf (x.f 8 4) = .ok k → p.kind = 2 → p.st = .stopped → x.late = false → Runs (.runPlan id) s fun t => ends t 0x0E 0 ∧ hif t) ∧
  (∀ rest, p.st = .ready → p.queue = id :: rest → p.run = none → c.cmd? id = some x → s.m.planWhole k = true →
    (∀ g ∈ p.schedule, c.tile[(Fin.ofNat 1024 g : Fin 1024)].exec ≠ .exception) → (∀ y ∈ c.hif.cmds, y.id < id → y.started = true ∨ c.runsPlan k y = false) →
    let words := (Vector.ofFn (fun (i : Fin 4) => BitVec.ofNat 64 (x.f (16 + 8 * i.val) 8)) : Vector W64 4)
    Runs (.runnerStepStart k) s fun t =>
      t.m.chip.hif.plans[k] = { p with queue := rest, run := some ⟨id, words, x.f 48 4, p.schedule, false⟩, serial := p.serial + 1 } ∧
      OnlyChip s t { c with
        hif := t.m.chip.hif, mesh := { c.mesh with sync := c.mesh.sync ++ p.schedule.map (fun g => ⟨.runner, .tile (Fin.ofNat 1024 g), .start words⟩) } }) ∧
  (∀ r : RunStep, p.st = .ready → p.run = some r → r.waiting = [] → r.aborted = false → r.cmd = id → c.cmd? id = some x → x.ended = none → x.detached = false →
    Runs (.runnerStepComplete k) s fun t => ends t 0 0 ∧ t.m.chip.hif.plans[k] = { p with run := none } ∧ hif t) ∧
  (∀ r : RunStep, p.st = .ready → p.kind = 2 → p.run = some r → r.timeout ≠ 0 → r.aborted = false → r.cmd = id → id ∉ p.queue → c.cmd? id = some x → x.ended = none →
    x.detached = false → c.hif.port[(0 : Fin 2)].evReq = [] → c.hif.port[(1 : Fin 2)].evReq = [] → Runs (.runPlanTimeout k) s fun t =>
      ends t 0x10 0 ∧ t.m.chip.hif.plans[k] = { p with st := .stopped, run := none, queue := [] } ∧
      (∀ i ∈ p.imgs, t.m.chip.tile[(Fin.ofNat 1024 i.tile : Fin 1024)].exec ≠ .running) ∧ KeepsMem s t) ∧
  -- restart
  (own 8 → c.planOf (x.f 8 4) = .ok k → p.st = .stopped → (∀ i : Fin 16, bit p.mask i.val = true → c.sk[i].st ≠ .failed) → p.copies ≠ [] → Runs (.restartPlan id) s fun t =>
    ends t 0 0 ∧ t.m.chip.hif.plans[k] = { p with st := .ready, run := none } ∧ t.pending = s.pending) ∧
  (own 8 → c.planOf (x.f 8 4) = .ok k → p.st ≠ .stopped → Runs (.restartPlan id) s fun t => ends t 6 0 ∧ hif t)

/-- R171 to R175: the walk of a sequence's tables stops at the first test that fails, with its code, and else gives the frame. R235, R240, R242, R243, R244, R260, R261,
R264, R265, R202: the commands on sequences: created, generating, stopped, trimmed, forked and destroyed, their sampler and
trees, their pages and the pools. -/
def Obligations.SequenceCommandsAct : Prop :=
  (∀ (s : State) (root pos fshift : Nat), 12 ≤ fshift → fshift ≤ 23 →
    let read := fun (a : Nat) => numLe ((List.range 8).map (fun i => s.byteAt (a + i)))
    let sram := fun (a n : Nat) => decide (a + n ≤ 0x300000000)
    let general := fun (a n : Nat) => (List.range 24).any fun d =>
      decide (0x1000000000 + d * 0xF0000000 ≤ a) && decide (a + n ≤ 0x1000000000 + d * 0xF0000000 + 0xCC000000)
    let unmapped := fun (a n : Nat) => !s.m.chip.rangeMapped a n
    let spoilt := fun (a n : Nat) => !(s.m.badUnits a n).isEmpty
    let size := 2 ^ fshift
    let lp := pos / 64
    let de := read (root + lp / 256 * 8)
    let leaf := de / 2 ^ 12 % 2 ^ 36 * 2 ^ 12
    let entry := leaf + lp % 256 * 16
    let w0 := read entry
    let w1 := read (entry + 8)
    let tier := w0 / 2 ^ 56 % 4
    let frame := w0 % 2 ^ 48
    let backing := w1 % 2 ^ 48
    let inTier := tier = 0 ∧ sram frame 1 = true ∧ frame / 0xC00000 = (frame + size - 1) / 0xC00000 ∨ tier = 1 ∧ general frame 1 = true ∨
      tier = 2 ∧ 0x100000000000 ≤ frame ∧ frame < 0x200000000000
    let tests : List (Bool × Nat) :=
      [(decide (16384 ≤ lp), 1), (decide (root % 512 ≠ 0), 4), (!(sram root 512 || general root 512), 5), (unmapped root 512, 7), (spoilt (root + lp / 256 * 8) 8, 8),
       (decide (de / 2 ^ 63 % 2 = 0), 2), (decide (de / 2 ^ 48 % 2 ^ 15 ≠ 0 ∨ de % 2 ^ 12 ≠ 0), 9),
       (!(sram leaf 4096 || general leaf 4096), 5), (unmapped leaf 4096, 7), (spoilt entry 16, 8),
       (decide (w0 / 2 ^ 63 % 2 = 0), 3), (decide (w0 / 2 ^ 58 % 16 ≠ 0 ∨ w0 / 2 ^ 48 % 256 ≠ 0), 9), (decide (tier = 0 ∧ w1 / 2 ^ 48 % 2 ^ 15 ≠ 0), 9),
       (decide (frame % size ≠ 0), 4), (decide ¬inTier, 5), (decide (tier = 0 ∧ w1 / 2 ^ 63 % 2 = 0), 6), (decide (tier = 0) && !general backing size, 5),
       (unmapped frame size, 7), (decide (tier = 0) && unmapped backing size, 7)]
    match tests.find? (·.1) with
    | some t => s.m.walk root pos fshift = .error t.2
    | none => s.m.walk root pos fshift = .ok ⟨entry, frame, BitVec.ofNat 64 w0, BitVec.ofNat 64 w1⟩) ∧
  ∀ (s : State) (id : Nat) (x : Cmd) (q : Fin 128),
  let c := s.m.chip
  let v := c.seq[q]
  let own := fun (op : Nat) => c.take op id = some x ∧ x.detached = false ∧ s.m.cmdHeld x = false
  let ends := fun (t : State) (status result : Nat) => t.m.chip.cmd? id = some { x with started := true, ended := some (status, result) }
  let keeps := fun (t : State) => OnlyChip s t { c with
    seq := t.m.chip.seq, dsq := t.m.chip.dsq, sk := t.m.chip.sk, sent := t.m.chip.sent, hif := { c.hif with cmds := t.m.chip.hif.cmds } }
  -- as `keeps`, with the plan's times of an announcement
  let stepping := fun (t : State) => OnlyChip s t { c with
      seq := t.m.chip.seq, dsq := t.m.chip.dsq, sk := t.m.chip.sk, sent := t.m.chip.sent,
      hif := { c.hif with cmds := t.m.chip.hif.cmds, plans := t.m.chip.hif.plans } } ∧
    ∀ j : Fin 16, t.m.chip.hif.plans[j] = { c.hif.plans[j] with holdTo := t.m.chip.hif.plans[j].holdTo, fall := t.m.chip.hif.plans[j].fall }
  let refused := fun (t : State) (status : Nat) => ends t status 0 ∧ OnlyChip s t { c with hif := { c.hif with cmds := t.m.chip.hif.cmds } }
  let mine := c.seqAt (x.f 8 4) = .ok q
  let here := fun (t : State) (y : Seq) => t.m.chip.seq[q] = y ∧ ∀ r : Fin 128, r ≠ q → t.m.chip.seq[r] = c.seq[r]
  -- create, destroy
  (∀ names : Mach.CtxNames, own 0x40 → s.m.ctxCheck (x.f 8 8) true = .ok names → c.hif.plans[names.plan].st = .ready → c.freeSeq (x.f 16 1 % 16) = some q →
    Runs (.createSequence id) s fun t =>
      ends t 0 (handleOf q.val v.gen) ∧ keeps t ∧ here t { resetSeq with
        st := .idle, gen := v.gen, ctx := x.f 8 8, plan := names.plan.val, draft := names.draft.map (·.val), length := s.m.readNat (x.f 8 8 + 84) 4 }) ∧
  (∀ e, own 0x40 → s.m.ctxCheck (x.f 8 8) true = .error e → Runs (.createSequence id) s fun t => refused t e) ∧
  (own 0x41 → mine → v.st ≠ .generating → v.shadow = none → Runs (.destroySequence id) s fun t =>
    ends t 0 0 ∧ here t { resetSeq with gen := nextGen v.gen } ∧ (∀ page, t.m.rebuilding q page = false) ∧
    ((∀ page, s.m.rebuilding q page = false) → keeps t)) ∧
  (own 0x41 → mine → v.st = .generating → Runs (.destroySequence id) s fun t => refused t 0x0100) ∧
  -- generate, stop
  (∀ names : Mach.CtxNames, own 0x42 → mine → 1 ≤ x.f 12 4 → x.f 12 4 ≤ 1048576 → s.m.ctxCheck v.ctx true = .ok names → v.st = .idle → c.mod.st ≠ .draining →
    c.hif.plans[names.plan].st = .ready → nbit (s.m.ctx q 13 1) 0 = false → nbit (s.m.ctx q 13 1) 2 = false → s.m.ctx q 88 4 < s.m.ctx q 80 4 →
    c.dsq[dsqOf q].failed = false →
    Runs (.generate id) s fun t =>
      t.m.chip.cmd? id = some { x with started := true } ∧ stepping t ∧ here t { v with
        st := .generating, plan := names.plan.val, draft := names.draft.map (·.val), cmd := some x.id, limit := x.f 12 4, made := 0, stopReq := false, loose := false,
        length := s.m.ctx q 84 4, drafted := false, draftTree := [], endWith := none, ring := [] }) ∧
  (own 0x42 → mine → (x.f 12 4 = 0 ∨ 1048576 < x.f 12 4) → Runs (.generate id) s fun t => refused t 2) ∧
  (∀ names : Mach.CtxNames, own 0x42 → mine → 1 ≤ x.f 12 4 → x.f 12 4 ≤ 1048576 → s.m.ctxCheck v.ctx true = .ok names → v.st = .generating →
    Runs (.generate id) s fun t => refused t 0x0100) ∧
  (own 0x43 → mine → v.st ≠ .generating → Runs (.stopSequence id) s fun t => refused t 0) ∧
  (own 0x43 → mine → v.st = .generating → c.inRun q = true → Runs (.stopSequence id) s fun t => ends t 0 0 ∧ keeps t ∧ here t { v with stopReq := true }) ∧
  (∀ y : Cmd, own 0x43 → mine → v.st = .generating → c.inRun q = false → v.endWith = none → v.loose = false → v.commits = false → v.ring = [] → v.cmd = some y.id →
    c.cmd? y.id = some y → y.ended = none → y.detached = false → y.id ≠ x.id → Runs (.stopSequence id) s fun t =>
      ends t 0 0 ∧ stepping t ∧ t.m.chip.seq[q].st = .idle ∧ t.m.chip.seq[q].cmd = none ∧
      t.m.chip.cmd? y.id = some { y with started := true, ended := some (0, 5 * 2 ^ 24 + v.made) }) ∧
  -- sampler, tree
  (let w := fun (o : Nat) => BitVec.ofNat 32 (x.f o 4)
   own 0x44 → mine → v.shadow = none → c.rangeHeld (v.ctx + 64) 16 = false → Mach.mirrorPieces c (v.ctx + 64) (bytesLe 16 (x.f 12 16)) = [] → finite32 (w 12) = true → 0 ≤ rank32 (w 12) → isNan32 (w 16) = false →
    0 < rank32 (w 16) → finite32 (w 20) = true → 0 < rank32 (w 20) → x.f 24 2 ≤ 1024 → x.f 26 2 ≤ 4096 → Runs (.setSampler id) s fun t =>
      ends t 0 0 ∧ Stores s t (v.ctx + 64) (bytesLe 16 (x.f 12 16)) ∧ t.m.chip.seq = c.seq) ∧
  (own 0x44 → mine → (isNan32 (BitVec.ofNat 32 (x.f 12 4)) = true ∨ 1024 < x.f 24 2 ∨ 4096 < x.f 26 2) → Runs (.setSampler id) s fun t => refused t 2) ∧
  (∀ (r : Region) (b : Bytes) (tree : List (Nat × Nat)), own 0x45 → mine → c.portUp x.port = true → c.regionAt x.port (x.f 12 4) = .ok r → 1 ≤ x.f 24 1 → x.f 24 1 ≤ 64 →
    r.holds (x.f 16 8) (8 * x.f 24 1) false = true → Chip.treeNodes (x.f 24 1) b = some tree → Chip.treeOk ((c.planAt v.plan).prm 0 4) tree = true →
    Runs (.submitTree id (.data b)) s fun t =>
      ends t 0 0 ∧ keeps t ∧ here t { v with tree := tree, submitted := true } ∧ Sends s t (.dmaRead x.port (r.base + x.f 16 8) (8 * x.f 24 1))) ∧
  (∀ (r : Region) (d : DmaResult), own 0x45 → mine → c.regionAt x.port (x.f 12 4) = .ok r → (x.f 24 1 = 0 ∨ 64 < x.f 24 1) → Runs (.submitTree id d) s fun t => refused t 0x0107) ∧
  -- fork, trim
  (∀ (names : Mach.CtxNames) (child : Fin 128), own 0x46 → mine → c.errs = [] → s.m.ctxCheck (x.f 16 8) false = .ok names → s.m.readNat (x.f 16 8) 8 = s.m.readNat v.ctx 8 →
    x.f 12 4 ≤ s.m.readNat (x.f 16 8 + 80) 4 → 1 ≤ x.f 12 4 → x.f 12 4 ≤ s.m.ctx q 88 4 → v.st = .idle → c.freeSeq (2 ^ (dsqOf q).val) = some child →
    (s.m.forkLeaves q (min (s.m.ctx q 84 4) (x.f 12 4 - 1))).length ≤ c.dsq[dsqOf q].leaves.length → Runs (.forkSequence id) s fun t =>
      ends t 0 (handleOf child.val c.seq[child].gen) ∧ t.m.chip.seq[q] = v ∧
      t.m.chip.seq[child] = { resetSeq with
        st := .idle, gen := c.seq[child].gen, ctx := x.f 16 8, plan := v.plan, draft := v.draft, length := min (s.m.ctx q 84 4) (x.f 12 4 - 1),
        poolLeaves := t.m.chip.seq[child].poolLeaves } ∧
      OnlyChip { s with m := { s.m with mem := t.m.mem, poison := t.m.poison } } t
        { c with seq := t.m.chip.seq, dsq := t.m.chip.dsq, held := t.m.chip.held, hif := { c.hif with cmds := t.m.chip.hif.cmds } }) ∧
  (let len := min (s.m.ctx q 84 4) (x.f 12 4 - 1)
   let cut := (s.m.setCtx q 88 4 (x.f 12 4)).setCtx q 84 4 len
   own 0x47 → mine → 1 ≤ x.f 12 4 → x.f 12 4 ≤ s.m.ctx q 88 4 → v.st = .idle → v.shadow = none → v.poolLeaves = [] → (∀ e ∈ cut.pagesOf q, 64 * e.1 < len) →
    Runs (.trimSequence id) s fun t => ends t 0 0 ∧ here t { v with length := len } ∧ t.m.mem = cut.mem) ∧
  (own 0x47 → mine → (x.f 12 4 = 0 ∨ s.m.ctx q 88 4 < x.f 12 4) → Runs (.trimSequence id) s fun t => refused t 2) ∧
  -- pages, pools
  (∀ (r : Region) (b : Bytes) (leaf : Nat), own 0x48 → mine → c.portUp x.port = true → c.regionAt x.port (x.f 20 4) = .ok r → x.f 16 4 = 1 → x.f 12 4 < 16384 →
    r.holds (x.f 24 8) 16 false = true → v.st = .idle → s.m.leafAt q (x.f 12 4) = some leaf → s.m.leafAt q (256 * (x.f 12 4 / 256)) = some leaf →
    bit (s.m.word (leaf + x.f 12 4 % 256 * 16)) 63 = false → Runs (.setPages id (.data b)) s fun t =>
      ends t 0 0 ∧ Sends s t (.dmaRead x.port (r.base + x.f 24 8) 16) ∧ t.m.chip.seq = c.seq ∧
      t.m.mem = (s.m.setEntry (leaf + x.f 12 4 % 256 * 16) (s.m.listAt q (x.f 12 4)) (BitVec.ofNat 64 (fieldLe b 0 8)) (BitVec.ofNat 64 (fieldLe b 8 8))).mem) ∧
  (∀ (r : Region) (n : Fin 4) (b : Bytes), own 0x49 → c.portUp x.port = true → s.m.poolArgs x false = .ok (r, n) → x.f 29 1 = 1 → x.f 24 4 + c.dsq[n].leaves.length ≤ 4096 →
    (∀ i, i < x.f 24 4 → c.leafOk (BitVec.ofNat 64 (fieldLe b (16 * i) 8)) (BitVec.ofNat 64 (fieldLe b (16 * i + 8) 8)) = 0) → Runs (.addFrames id (.data b)) s fun t =>
      ends t 0 (x.f 24 4) ∧ keeps t ∧ Sends s t (.dmaRead x.port (r.base + x.f 16 8) (16 * x.f 24 4)) ∧
      t.m.chip.dsq[n] = { c.dsq[n] with leaves := c.dsq[n].leaves ++ (List.range (x.f 24 4)).map (fun i => fld (BitVec.ofNat 64 (fieldLe b (16 * i) 8)) 0 48) }) ∧
  (∀ (r : Region) (n : Fin 4), own 0x4A → c.portUp x.port = true → s.m.poolArgs x true = .ok (r, n) → x.f 29 1 = 1 → c.dsq[n].leaves ≠ [] → Runs (.takeFrames id) s fun t =>
    ends t 0 (min (x.f 24 4) c.dsq[n].leaves.length) ∧ keeps t ∧ t.m.chip.dsq[n] = { c.dsq[n] with leaves := c.dsq[n].leaves.drop (x.f 24 4) } ∧
    ∃ b, Sends s t (.dmaWrite x.port (r.base + x.f 16 8) b false)) ∧
  (∀ e, own 0x49 → s.m.poolArgs x false = .error e → ∀ d, Runs (.addFrames id d) s fun t => refused t e) ∧
  (∀ e, own 0x4A → s.m.poolArgs x true = .error e → Runs (.takeFrames id) s fun t => refused t e)

/-- R248, R249, R251, R252, R239, R257, R260, R267, R269, R271: a sequencer starts a step with its table and its starts, takes the events of tiles, samples rows, commits what
was drawn, writes the ring, pages in experts, and fails a step whose logits or time run out. -/
def Obligations.SequencerStepsRun : Prop := ∀ (s : State) (n : Fin 4),
  let c := s.m.chip
  let d := c.dsq[n]
  let mem := fun (t : State) (e : Chip) => OnlyChip { s with m := { s.m with mem := t.m.mem, poison := t.m.poison } } t e
  let sync := fun (k : Fin 16) (g : Fin 1024) (v : W32) => (⟨.tile g, .dsq n, .event k v⟩ : MeshPkt)
  let flag := fun (b : Nat) => vput c.dsq n { d with err := setBit d.err b true }
  -- an expert table that is not held and meets no error
  let plain := fun (k : Fin 16) => s.m.expertHeld c.hif.plans[k] = false ∧ c.errs = [] ∧ s.m.badUnits (c.hif.plans[k].prm 24 8) (16 * c.hif.plans[k].prm 32 2) = []
  -- the start of a target step
  (d.run.isSome = true → Runs (.dsqStepStart n) s fun t => t = s) ∧
  (d.run = none → (∀ q : Fin 128, dsqOf q = n → s.m.seqReady q = false) → d.commitMap = 0 → Runs (.dsqStepStart n) s fun t => t = s) ∧
  (∀ (k : Fin 16) (q : Fin 128) (rest : List (Fin 128)) (m : Mach) (rows : List Row), d.run = none → d.commitMap = 0 →
    (s.m.slotsFrom n).filter (fun q => s.m.seqReady q) = q :: rest → c.seq[q].plan = k.val → s.m.dsqTurn n k.val = true → s.m.planFree k = true →
    (∀ r ∈ q :: rest, s.m.draftFor r = none) → d.failed = false → s.m.dsqHeld n = false → c.hif.plans[k].holdTo ≤ c.time →
    s.m.gather n k.val = (m, rows) → rows ≠ [] → m.commitDue n = false → m.chip.dsq[n].run = none → m.planWhole k = true →
    m.chip.hif.plans[k].kind = 0 → (∀ g ∈ m.chip.hif.plans[k].schedule, m.chip.tile[(Fin.ofNat 1024 g : Fin 1024)].exec ≠ .exception) → Runs (.dsqStepStart n) s fun t =>
      let p := m.chip.hif.plans[k]
      let table := p.prm 16 8 + n.val * 8192 + 4096 * b2n m.chip.dsq[n].toggle
      (∃ r, t.m.chip.dsq[n].run = some r ∧ r.plan = k ∧ r.serial = p.serial ∧ r.kind = 0 ∧ r.table = table ∧ r.rows = rows ∧ r.waiting = p.schedule ∧ r.aborted = false ∧
        r.ready = [] ∧ r.drawn = []) ∧
      t.m.chip.dsq[n].toggle = !m.chip.dsq[n].toggle ∧ t.m.chip.dsq[n].prevTable = table ∧
      t.m.chip.hif.plans[k].serial = (p.serial + 1) % 2 ^ 64 ∧ t.m.chip.hif.plans[k].turn = n.val ∧
      t.m.chip.mesh = { m.chip.mesh with
        sync := m.chip.mesh.sync ++ p.schedule.map (fun g => ⟨.dsq n, .tile (Fin.ofNat 1024 g), .start (Chip.dsqWords table p.serial)⟩) }) ∧
  -- events of tiles
  (∀ (g : Fin 1024) (v : W32) (r : DsqRun), s.m.runFor n g = some r → r.aborted = false →
    (c.mesh.due (sync 1 g v) = true → Still (c.mesh.took (sync 1 g v)) → Runs (.logitsReady n g v) s fun t => OnlyChip s t { c with
      mesh := c.mesh.took (sync 1 g v), dsq := vput c.dsq n { d with run := some { r with ready := r.ready ++ [(g.val, v.toNat)] } } }) ∧
    (c.mesh.due (sync 2 g v) = true → Still (c.mesh.took (sync 2 g v)) → Runs (.treeReady n g v) s fun t => OnlyChip s t { c with
      mesh := c.mesh.took (sync 2 g v), dsq := vput c.dsq n { d with run := some { r with treeN := some v.toNat } } })) ∧
  (∀ (g : Fin 1024) (v : W32), s.m.runFor n g = none →
    (c.mesh.due (sync 1 g v) = true → Still (c.mesh.took (sync 1 g v)) → Runs (.logitsReady n g v) s fun t =>
      OnlyChip s t { c with mesh := c.mesh.took (sync 1 g v), dsq := flag 7 }) ∧
    (c.mesh.due (sync 2 g v) = true → Still (c.mesh.took (sync 2 g v)) → Runs (.treeReady n g v) s fun t => OnlyChip s t { c with mesh := c.mesh.took (sync 2 g v), dsq := flag 7 })) ∧
  (∀ (g : Fin 1024) (v : W32), (c.mesh.due (sync 1 g v) = false → Runs (.logitsReady n g v) s fun t => t = s) ∧
    (c.mesh.due (sync 2 g v) = false → Runs (.treeReady n g v) s fun t => t = s) ∧ (c.mesh.due (sync 3 g v) = false → Runs (.expertReq n g v) s fun t => t = s)) ∧
  (∀ (g : Fin 1024) (v : W32), c.mesh.due (sync 3 g v) = true → Still (c.mesh.took (sync 3 g v)) → c.tile[g].plan = none → Runs (.expertReq n g v) s fun t =>
    OnlyChip s t { c with mesh := c.mesh.took (sync 3 g v), dsq := flag 7 }) ∧
  (∀ (g : Fin 1024) (v : W32) (k : Fin 16), c.mesh.due (sync 3 g v) = true → Still (c.mesh.took (sync 3 g v)) → c.tile[g].plan = some k → plain k → Clear c.mesh (.dsq n) (.tile g) →
    c.tile[g].exec = .running → Mach.cget c.tile[g] 13 < 0xFFFFFFFF →
    let p := c.hif.plans[k]
    p.kind = 0 → p.schedule.contains g.val = true → p.prm 7 1 = n.val → v.toNat < p.prm 32 2 → s.m.readNat (Mach.expertAt p v.toNat + 10) 1 = 3 → Runs (.expertReq n g v) s fun t =>
      Mach.cget t.m.chip.tile[g] 13 = Mach.cget c.tile[g] 13 + 1 ∧ (∀ h : Fin 1024, h ≠ g → t.m.chip.tile[h] = c.tile[h]) ∧
      (∃ l, t.m.chip.dsq[n].used = l ++ [(k.val, v.toNat, (c.tile[g].step[(1 : Fin 4)]).toNat)]) ∧ OnlyChip s t { c with
        mesh := c.mesh.took (sync 3 g v), tile := t.m.chip.tile, dsq := t.m.chip.dsq }) ∧
  (∀ (g : Fin 1024) (v : W32) (k : Fin 16) (slot : Nat), c.mesh.due (sync 3 g v) = true → Still (c.mesh.took (sync 3 g v)) → c.tile[g].plan = some k → plain k → d.waiters = [] → d.pageIns.length < 4 →
    let p := c.hif.plans[k]
    p.st = .ready → p.kind = 0 → p.schedule.contains g.val = true → p.prm 7 1 = n.val → v.toNat < p.prm 32 2 → s.m.readNat (Mach.expertAt p v.toNat + 10) 1 = 1 →
    s.m.imageGone p v.toNat = false → s.m.expertSlot n k.val = some (slot, none) → c.holds (some (dsqSkerry n).val) (Mach.expertAt p v.toNat + 8) 3 = false → Runs (.expertReq n g v) s fun t =>
      t.m.chip.dsq[n].waiters = [(k.val, v.toNat, g.val)] ∧ t.m.chip.dsq[n].pageIns = d.pageIns ++ [(k.val, v.toNat, slot)] ∧
      t.m.mem = (Mach.setExpert p v.toNat slot 2 s.m).mem ∧
      mem t { c with mesh := c.mesh.took (sync 3 g v), dsq := t.m.chip.dsq }) ∧
  (∀ x, d.pageIns.find? (fun e => e.2.1 == x) = none → Runs (.expertPageInDone n x) s fun t => t = s) ∧
  (∀ (k : Fin 16) (x slot : Nat) (g : Fin 1024), d.pageIns = [(k.val, x, slot)] → d.waiters = [(k.val, x, g.val)] → plain k → Clear c.mesh (.dsq n) (.tile g) →
    s.m.imageGone c.hif.plans[k] x = false →
    (let p := c.hif.plans[k]
     (∀ i, i < p.prm 46 2 → c.sliceHeld (Fin.ofNat 1024 (p.prm 44 2 + i)) = false) ∧
       c.holds (some (dsqSkerry (Fin.ofNat 4 (p.prm 7 1))).val) (Mach.expertAt p x + 8) 3 = false ∧
       s.m.badUnits (s.m.readNat (Mach.expertAt p x) 8) (p.prm 46 2 * p.prm 36 4) = []) →
    c.tile[g].exec = .running → Mach.cget c.tile[g] 13 < 0xFFFFFFFF → Runs (.expertPageInDone n x) s fun t =>
      t.m.chip.dsq[n].pageIns = [] ∧ t.m.chip.dsq[n].waiters = [] ∧ t.m.chip.dsq[n].count[(3 : Fin 4)] = (d.count[(3 : Fin 4)] + 1) % 2 ^ 64 ∧
      Mach.cget t.m.chip.tile[g] 13 = Mach.cget c.tile[g] 13 + 1 ∧ mem t { c with dsq := t.m.chip.dsq, tile := t.m.chip.tile }) ∧
  -- sampling, the end of a step
  (∀ (r : DsqRun) (q : Fin 128) (row ns : Nat), d.run = some r → r.kind = 0 → r.aborted = false →
    r.live.findSome? (fun s' => (s.m.trace r s').need.bind fun i => if s.m.rowReady r i then some (s', i) else none) = some (q, row) → s.m.dsqHeld n = false →
    c.errs = [] →
    let p := c.hif.plans[r.plan]
    let logits := p.prm 8 8 + n.val * p.prm 5 1 * p.prm 0 4 * 4 + row * p.prm 0 4 * 4
    s.m.badUnits logits (4 * p.prm 0 4) = [] → Runs (.sampleRow n ns) s fun t =>
      let drawn := s.m.sample q logits (p.prm 0 4) ((r.rows[row]?).elim 0 (fun w => w.pos + 1)) (s.m.trace r q).toks
      OnlyChip s t { c with dsq := vput c.dsq n { d with
        run := some { r with drawn := r.drawn ++ [(row, match drawn with | .ok v => v | .error e => 2 ^ 32 + e)] },
        lastNs := min ns 0xFFFF, maxNs := max d.maxNs (min ns 0xFFFF) } }) ∧
  (∀ r : DsqRun, d.run = some r → (r.aborted = true ∨ r.waiting ≠ []) → Runs (.dsqStepEnd n) s fun t => t = s) ∧
  (∀ (r : DsqRun) (q : Fin 128), d.run = some r → r.kind = 0 → r.aborted = false → r.waiting = [] → r.live = [q] → dsqOf q = n → c.seq[q].st = .generating →
    (s.m.trace r q).need = none → (∀ i : Fin 4, c.dsq[i].waiters = []) → c.seq[q].endWith = none → s.m.dsqHeld n = false → Runs (.dsqStepEnd n) s fun t =>
      t.m.chip.dsq[n].run = none ∧ t.m.chip.seq[q].made = c.seq[q].made + (s.m.trace r q).toks.length ∧
      t.m.ctx q 88 4 = (s.m.ctx q 88 4 + (s.m.trace r q).toks.length) % 2 ^ 32) ∧
  -- the ring
  (∀ q : Fin 128, c.seq[q].st ≠ .generating → Runs (.ringHeadPoll q) s fun t => t = s) ∧
  (∀ q : Fin 128, c.seq[q].st = .generating → s.m.seqHeld q = false → c.seq[q].ring ≠ [] → 2 ^ s.m.ctx q 12 1 ≤ s.m.ctx q 132 4 → Runs (.ringHeadPoll q) s fun t =>
    OnlyChip s t { c with dsq := vput c.dsq (dsqOf q) { c.dsq[dsqOf q] with err := setBit c.dsq[dsqOf q].err 8 true } }) ∧
  (∀ (q : Fin 128) (r : Region), c.seq[q].st = .generating → s.m.seqHeld q = false → c.seq[q].ring ≠ [] → c.seq[q].endWith = none → s.m.ctx q 132 4 < 2 ^ s.m.ctx q 12 1 →
    c.regionLive (s.m.ctx q 8 4) = some r → c.portUp r.port = true → c.errs = [] →
    c.seq[q].ring.length ≤ (s.m.ctx q 132 4 + 2 ^ s.m.ctx q 12 1 - s.m.ctx q 128 4 - 1) % 2 ^ s.m.ctx q 12 1 → Runs (.ringHeadPoll q) s fun t =>
      t.m.chip.seq[q] = { c.seq[q] with ring := [] } ∧ (∃ l, t.m.chip.sent = l ++ c.sent ∧ l.length = c.seq[q].ring.length) ∧
      mem t { c with seq := t.m.chip.seq, sent := t.m.chip.sent }) ∧
  -- failed steps
  (∀ (r : DsqRun) (i : Nat) (w : Row), d.run = some r → r.kind = 0 → r.aborted = false → r.waiting = [] → (w, i) ∈ r.rows.zipIdx → w.sample = true →
    s.m.rowReady r i = false → c.hif.plans[r.plan].st = .ready → Runs (.logitsMissing n) s fun t =>
      bit t.m.chip.dsq[n].err 9 = true ∧ t.m.chip.hif.plans[r.plan].st = .stopped ∧ t.m.chip.hif.plans[r.plan].run = none) ∧
  (∀ r : DsqRun, d.run = some r → r.waiting ≠ [] → Runs (.logitsMissing n) s fun t => t = s) ∧
  (∀ r : DsqRun, d.run = some r → r.aborted = false → c.hif.plans[r.plan].prm 48 4 ≠ 0 → c.hif.plans[r.plan].st = .ready → c.hif.plans[r.plan].kind = 0 →
    Runs (.stepTimeout n) s fun t => t.m.chip.hif.plans[r.plan].st = .stopped ∧ t.m.chip.dsq[n].run = none) ∧
  (∀ r : DsqRun, d.run = some r → c.hif.plans[r.plan].prm 48 4 = 0 → Runs (.stepTimeout n) s fun t => t = s)

/-- R273, R274, R275, R277, R278, R279, R280, R281, R282, R308: straits train, say HELLO, come up, take an identity and reach tables, exchange flits, packets for credits and
keepalives, lose lanes, go down alone or with their engine, and train again. The credits of a trained strait are a free value (log 41). -/
def Obligations.StraitsComeUpAndGoDown : Prop := ∀ (s : State) (i : Fin 12),
  let c := s.m.chip
  let l := c.str.link[i]
  let str := fun (t : State) => OnlyChip s t { c with str := t.m.chip.str, sent := t.m.chip.sent }
  let others := fun (t : State) => ∀ j : Fin 12, j ≠ i → t.m.chip.str.link[j] = c.str.link[j]
  -- a packet for the link itself that keeps R282 to R284, on a strait that takes packets
  let good := fun (typ : Nat) (p : Packet) => (l.st = 2 ∨ l.st = 3 ∨ l.st = 4) ∧ p.crc = pktCrc p ∧ p.typ.toNat = typ ∧ p.dest = 0xFFFF ∧ p.flags.toNat < 8 ∧ p.rsv = 0 ∧
    p.len.toNat = p.payload.length
  -- nothing waits on the strait, and a packet of its own, of the response class, has its credit
  let goes := l.outReq = [] ∧ l.outRsp = [] ∧ 1 ≤ l.credRsp
  -- a packet of its own leaves on the strait, in a flit under the strait's next number
  let replied := fun (t : State) (typ : Nat) (payload : Bytes) => ∃ (p : Packet) (b : Bytes), t.m.chip.sent = .flit i b :: .strait i p :: c.sent ∧ p.typ.toNat = typ ∧
    p.dest = 0xFFFF ∧ p.src = BitVec.ofNat 16 c.str.modId ∧ p.payload = slice payload 0 ((payload.length + 15) / 16 * 16) ∧ p.seq = c.str.seqNo ∧ p.crc = pktCrc p ∧
    t.m.chip.str.seqNo = c.str.seqNo + 1 ∧ t.m.chip.str.link[i].tx = (l.tx + 1) % 4096 ∧ t.m.chip.str.link[i].buffer = l.buffer ++ [(l.tx, b)] ∧
    t.m.chip.str.link[i].credRsp = l.credRsp - 1 ∧ t.m.chip.str.link[i].outRsp = []
  let down := fun (t : State) (st : Nat) => t.m.chip.str.link[i].st = st ∧ t.m.chip.str.link[i].lanes = 0 ∧ (∀ k : Fin 10, t.m.chip.str.link[i].reach[k] = none) ∧ t.pending = s.pending
  -- lanes and flits
  (∀ lane : Fin 8, l.st ≠ 0 → l.st ≠ 5 → bit l.lanes lane.val = true → 4 ≤ popCount (setBit l.lanes lane.val false) → Runs (.laneRemove i lane) s fun t =>
    t.m.chip.str.link[i].lanes = setBit l.lanes lane.val false ∧ t.m.chip.str.link[i].st = l.st ∧ bit t.m.chip.str.err 0 = true ∧
    t.m.chip.str.link[i].replaysNow = satAdd 8 l.replaysNow l.buffer.length) ∧
  (∀ lane : Fin 8, l.st ≠ 0 → l.st ≠ 5 → bit l.lanes lane.val = true → popCount (setBit l.lanes lane.val false) < 4 → Runs (.laneRemove i lane) s fun t =>
    down t 0 ∧ bit t.m.chip.str.err 0 = true ∧ bit t.m.chip.str.err 1 = true) ∧
  (∀ f : Bytes, (l.st = 2 ∨ l.st = 3 ∨ l.st = 4) → (f.length ≠ 512 ∨ BitVec.ofNat 32 (fieldLe f 508 4) ≠ crc32 (f.take 508)) → Runs (.flitReceive i f) s fun t =>
    Sends s t (.flit i (flitBytes 2 l.tx l.rx 0 0 [])) ∧ OnlyChip s t { c with sent := t.m.chip.sent }) ∧
  (∀ f : Bytes, (l.st = 2 ∨ l.st = 3 ∨ l.st = 4) → f.length = 512 → BitVec.ofNat 32 (fieldLe f 508 4) = crc32 (f.take 508) → fieldLe f 496 2 / 4096 = 0 →
    fieldLe f 496 2 = (l.rx + 1) % 4096 → l.buffer = [] → l.outReq = [] → l.outRsp = [] → Runs (.flitReceive i f) s fun t =>
      let u := unpack 32 (l.inPart ++ f.take 496)
      let y := t.m.chip.str.link[i]
      y.rx = (l.rx + 1) % 4096 ∧ y.credReq = l.credReq + fieldLe f 500 2 ∧ y.credRsp = l.credRsp + fieldLe f 502 2 ∧ y.inPart = u.2 ∧
      y.inReq = l.inReq ++ u.1.filter (fun p => !isRsp p) ∧ y.inRsp = l.inRsp ++ u.1.filter isRsp ∧ y.oweReq = 0 ∧ y.oweRsp = 0 ∧ y.st = l.st ∧
      Sends s t (.flit i (flitBytes 1 l.tx ((l.rx + 1) % 4096) l.oweReq l.oweRsp [])) ∧ others t ∧
      OnlyChip s t { c with sent := t.m.chip.sent, str := { c.str with link := t.m.chip.str.link } }) ∧
  (∀ (f : Bytes) (n : Nat) (b : Bytes) (rest : List (Nat × Bytes)), (l.st = 2 ∨ l.st = 3 ∨ l.st = 4) → f.length = 512 →
    BitVec.ofNat 32 (fieldLe f 508 4) = crc32 (f.take 508) → fieldLe f 496 2 / 4096 = 1 → l.buffer = (n, b) :: rest → fieldLe f 498 2 % 4096 = n → l.outReq = [] → l.outRsp = [] →
    Runs (.flitReceive i f) s fun t =>
      t.m.chip.str.link[i].buffer = rest ∧ t.m.chip.str.link[i].rx = l.rx ∧ others t ∧ t.m.chip.sent = c.sent) ∧
  (∀ f : Bytes, (l.st = 2 ∨ l.st = 3 ∨ l.st = 4) → f.length = 512 → BitVec.ofNat 32 (fieldLe f 508 4) = crc32 (f.take 508) → fieldLe f 496 2 / 4096 = 0 →
    fieldLe f 496 2 ≠ (l.rx + 1) % 4096 → l.buffer = [] → l.outReq = [] → l.outRsp = [] →
    -- one that was received before has no effect and returns no credit; behind a gap the flits are asked for again
    ((l.rx + 4096 - fieldLe f 496 2) % 4096 < 2048 → Runs (.flitReceive i f) s fun t => t = s) ∧
    (2048 ≤ (l.rx + 4096 - fieldLe f 496 2) % 4096 → Runs (.flitReceive i f) s fun t =>
      Sends s t (.flit i (flitBytes 2 l.tx l.rx 0 0 [])) ∧ OnlyChip s t { c with sent := t.m.chip.sent })) ∧
  Runs (.replayRequest i) s (fun t =>
    t.m.chip.sent = (l.buffer.map (fun b => Msg.flit i b.2)).reverse ++ c.sent ∧
    t.m.chip.str.link[i] = { l with replaysNow := satAdd 8 l.replaysNow l.buffer.length } ∧ others t ∧ str t) ∧
  -- training and discovery
  (∀ lanes : Byte, c.railsOn = true → c.lit (i.val / 2) = true → l.st = 1 → 4 ≤ popCount lanes → Runs (.straitTrained i lanes) s fun t =>
    t.m.chip.str.link[i] = { dropReach l with
      st := 2, lanes := lanes, tx := 0, rx := 4095, buffer := [], credReq := Config.linkCredits 0, credRsp := Config.linkCredits 1 } ∧ others t ∧
    OnlyChip s t { c with str := { c.str with link := t.m.chip.str.link } }) ∧
  ((l.st = 2 ∨ l.st = 4) → goes → Runs (.hello i) s fun t =>
    replied t 0xF0 (wordBytes Config.serial ++ bytesLe 1 i.val ++ bytesLe 1 (popCount l.lanes) ++ bytesLe 2 c.str.modId) ∧ others t ∧ str t) ∧
  (∀ p : Packet, good 0xF1 p → l.st ≠ 3 → fieldLe p.payload 8 1 = i.val → (c.str.modId = 0 ∨ fieldLe p.payload 0 4 = c.str.domain) → Runs (.helloAck i p) s fun t =>
    t.m.chip.str.link[i].st = 3 ∧ t.m.chip.str.link[i].switch = fieldLe p.payload 4 3 ∧ t.m.chip.str.link[i].port = fieldLe p.payload 7 1 ∧
    t.m.chip.str.link[i].plane = i.val) ∧
  (∀ p : Packet, good 0xF1 p → l.st ≠ 3 → (fieldLe p.payload 8 1 ≠ i.val ∨ (c.str.modId ≠ 0 ∧ fieldLe p.payload 0 4 ≠ c.str.domain)) → Runs (.helloAck i p) s fun t =>
    t.m.chip.str.link[i].st = 4 ∧ t.m.chip.str.link[i].lanes = l.lanes ∧ t.m.chip.str.link[i].switch = fieldLe p.payload 4 3 ∧
    t.m.chip.str.link[i].port = fieldLe p.payload 7 1 ∧ t.m.chip.str.link[i].plane = fieldLe p.payload 8 1 ∧ (l.st = 2 → bit t.m.chip.str.err 2 = true)) ∧
  (∀ p : Packet, good 0xF2 p → l.st = 3 → 1 ≤ fieldLe p.payload 4 2 → fieldLe p.payload 4 2 ≤ 20480 → c.str.modId = 0 → Runs (.assign i p) s fun t =>
    t.m.chip.str.modId = fieldLe p.payload 4 2 ∧ t.m.chip.str.domain = fieldLe p.payload 0 4 ∧ t.m.chip.str.link[i].st = 3) ∧
  (∀ p : Packet, good 0xF2 p → l.st = 3 → c.str.modId ≠ 0 → fieldLe p.payload 4 2 ≠ c.str.modId → Runs (.assign i p) s fun t =>
    t.m.chip.str.modId = c.str.modId ∧ t.m.chip.str.link[i].st = 4 ∧ bit t.m.chip.str.err 2 = true) ∧
  (∀ (p : Packet) (k : Fin 10), good 0xF4 p → l.st = 3 → fld p.addr 0 4 = k.val → Runs (.reach i p) s fun t =>
    t.m.chip.str.link[i].reach[k] = some (slice p.payload 0 256) ∧ (∀ j : Fin 10, j ≠ k → t.m.chip.str.link[i].reach[j] = l.reach[j]) ∧ t.m.chip.str.link[i].st = 3) ∧
  -- keepalives, losses, retraining
  (∀ p : Packet, good 0xF5 p → p ∉ l.inRsp → Runs (.keepalive i p) s fun t =>
    OnlyChip s t { c with str := { c.str with count := upd c.str.count 1 (fun n => (n + 1) % 2 ^ 64) } }) ∧
  (∀ p : Packet, good 0xF5 p → l.inRsp = [p] → 0 < l.heldRsp → Runs (.keepalive i p) s fun t =>
    t.m.chip.str.link[i] = { l with inRsp := [], heldRsp := 0, oweReq := 0, oweRsp := 0 } ∧
    Sends s t (.flit i (flitBytes 1 l.tx l.rx l.oweReq (l.oweRsp + l.heldRsp) [])) ∧ others t ∧ str t) ∧
  (∀ p : Packet, (l.st = 2 ∨ l.st = 3 ∨ l.st = 4) → p.crc ≠ pktCrc p → p ∉ l.inReq → p ∉ l.inRsp → Runs (.keepalive i p) s fun t =>
    bit t.m.chip.str.err 10 = true ∧ t.m.chip.str.count[(6 : Fin 8)] = (c.str.count[(6 : Fin 8)] + 1) % 2 ^ 64 ∧ t.m.chip.str.link = c.str.link ∧ str t) ∧
  (l.st = 3 → goes → Runs (.keepaliveSend i) s fun t => replied t 0xF5 [] ∧ others t ∧ str t) ∧
  (l.st = 3 → l.outReq = [] → l.outRsp = [] → l.credRsp = 0 → Runs (.keepaliveSend i) s fun t =>
    (∃ p : Packet, t.m.chip.str.link[i] = { l with outRsp := [p] } ∧ p.typ = 0xF5) ∧ t.m.chip.sent = c.sent ∧ others t ∧ str t) ∧
  (l.st = 3 → Runs (.keepaliveLoss i) s fun t => down t 5 ∧ bit t.m.chip.str.err 1 = true) ∧
  (l.st ≠ 3 → c.str.waiting = [] → (∀ (e : Fin 6) (k : Fin 16), c.str.ce[e].slots[k].run = none) → Runs (.keepaliveLoss i) s fun t => t = s) ∧
  (l.st ≠ 0 → Runs (.straitDown ⟨i, false⟩) s fun t => down t 0 ∧ bit t.m.chip.str.err 1 = true) ∧
  (c.railsOn = true → bit c.pwr.engFailed (i.val / 2) = false → Runs (.straitDown ⟨i, true⟩) s fun t =>
    bit t.m.chip.pwr.engFailed (i.val / 2) = true ∧ ∀ j : Fin 12, j.val / 2 = i.val / 2 → t.m.chip.str.link[j].st = 0) ∧
  (bit c.pwr.engFailed (i.val / 2) = true → Runs (.straitDown ⟨i, true⟩) s fun t => t = s) ∧
  ((l.st = 1 ∨ l.st = 2) → Runs (.discoveryTimeout i) s fun t => down t 5 ∧ bit t.m.chip.str.err 1 = true) ∧
  (c.railsOn = true → c.lit (i.val / 2) = true → (l.st = 0 ∨ l.st = 5) → Runs (.straitRetrain i) s fun t =>
    t.m.chip.str.link[i] = { dropReach l with st := 1 } ∧ others t ∧ OnlyChip s t { c with str := { c.str with link := t.m.chip.str.link } })

/-- R179, R282, R283, R284, R285, R286, R289, R290, R292, R298: peers' requests are served, refused or discarded, answers end the requests they name, and requests
without an answer go again or fail. -/
def Obligations.PeersAreServed : Prop := ∀ (s : State) (i : Fin 12) (p : Packet),
  let c := s.m.chip
  let a := p.addr.toNat
  let die := some (Chip.strSkerry i).val
  -- a routed packet that keeps R282 and R283, no twin copy; its answer leaves towards its sender, or waits for its credit
  let good := fun (typ : Nat) => c.str.link[i].st = 3 ∧ Chip.pktBad typ p = false ∧ bit p.flags 0 = false
  let answered := fun (t : State) (typ code : Nat) (data : Bytes) => (∃ j ∈ c.candidates p.src.toNat, c.str.link[j].lanes = 0xFF) →
    ∃ (j : Fin 12) (q : Packet), (Msg.strait j q ∈ t.m.chip.sent ∨ q ∈ t.m.chip.str.link[j].outRsp) ∧ q.typ.toNat = typ ∧ q.dest = p.src ∧ q.ref = p.seq ∧ q.code.toNat = code ∧ q.payload = data
  let fab := fun (t : State) => OnlyChip s t { c with str := t.m.chip.str, sent := t.m.chip.sent }
  let counts := fun (t : State) (k : Fin 8) => t.m.chip.str.count[k] = (c.str.count[k] + 1) % 2 ^ 64
  -- it did not come out of a flit that the strait still holds, so that no credits go back with it
  let bare := p ∉ c.str.link[i].inReq ∧ p ∉ c.str.link[i].inRsp
  -- a request that has left the send queues (R312)
  let gone := fun (r : Req) => ∀ j : Fin 12, ∀ q ∈ c.str.link[j].outReq, q.seq ≠ r.pkt.seq
  -- requests
  (good 1 → c.refusal p = 0 → c.holds die a p.payload.length = false → bit p.flags 2 = false → Mach.mirrorPieces c a p.payload = [] → c.errs = [] → Runs (.write i p) s fun t =>
    Stores s t a p.payload ∧ answered t 0x81 0 [] ∧ counts t 1 ∧
    OnlyChip { s with m := { s.m with mem := t.m.mem, poison := t.m.poison } } t { c with
      str := t.m.chip.str, sent := t.m.chip.sent, tile := if regionOf a = .staging then t.m.chip.tile else c.tile }) ∧
  (good 1 → c.refusal p = 0 → c.holds die a p.payload.length = true → Mach.holdRuns a p.payload.length = [(0, p.payload.length)] → c.errs = [] → bare → Runs (.write i p) s fun t =>
    t.m.chip.held = c.held ++ [⟨a, p.payload, .packet i p, die⟩] ∧ t.m.chip.sent = c.sent ∧ KeepsMem s t) ∧
  (∀ code, good 1 → code ≠ 0 → c.refusal p = code → code < 256 → Runs (.write i p) s fun t =>
    answered t 0x8F code [] ∧ bit t.m.chip.str.err 4 = true ∧ counts t 5 ∧ (code = 1 → fab t) ∧ (code ≠ 1 → c.reservedIn a p.payload.length = true → bit t.m.chip.gmc.err 6 = true) ∧
    OnlyChip s t { c with str := t.m.chip.str, sent := t.m.chip.sent, gmc := { c.gmc with err := t.m.chip.gmc.err } }) ∧
  (c.str.link[i].st = 3 → Chip.pktBad 1 p = true → bare → Runs (.write i p) s fun t => bit t.m.chip.str.err 10 = true ∧ counts t 1 ∧ counts t 6 ∧ t.m.chip.sent = c.sent ∧ fab t) ∧
  (good 2 → c.refusal p = 0 → c.holds die a p.len.toNat = false → s.m.badUnits a p.len.toNat = [] → c.errs = [] → Runs (.readReq i p) s fun t =>
    answered t 0x82 0 ((List.range p.len.toNat).map (fun k => s.byteAt (a + k))) ∧ fab t) ∧
  (∀ e : Fin 6, good 3 → c.refusal p = 0 → s.m.engWaits i p = false → engOf (fld p.addr 4 4) = some e →
    let k : Fin 16 := Fin.ofNat 16 (fld p.addr 0 4)
    c.str.ce[e].slots[k].run = none → c.str.ce[e].rx = [] → fld p.addr 32 16 = c.str.ce[e].slots[k].serial → Runs (.collData i p) s fun t =>
      t.m.chip.str.ce[e].rx = [⟨k.val, fld p.addr 32 16, fld p.addr 8 1, fld p.addr 16 16, fld p.addr 48 16, p.payload, bit p.flags 2⟩] ∧ answered t 0x83 0 [] ∧ fab t) ∧
  (∀ e : Fin 6, good 4 → c.refusal p = 0 → s.m.engWaits i p = false → engOf (fld p.addr 4 4) = some e → c.str.ce[e].valid = true → c.str.ce[e].failed = false →
    let k : Fin 16 := Fin.ofNat 16 (fld p.addr 0 4)
    let sum := min (c.str.ce[e].slots[k].arrivals + p.ref.toNat) 0xFFFFFFFF
    sum < dsc (s.m.read (c.str.ce[e].table + 64 * k.val) 64) 4 4 → Runs (.arrive i p) s fun t =>
      t.m.chip.str.ce[e].slots[k] = { c.str.ce[e].slots[k] with arrivals := sum } ∧ answered t 0x84 0 [] ∧ fab t) ∧
  -- answers and missing answers
  (∀ (r : Req) (g : Fin 1024) (key : Nat), good 0x81 → bare → c.str.outst = [r] → c.str.waiting = [] → s.m.answerWaits i r = false → r.pkt.seq = p.ref → r.pkt.dest = p.src → p.dest.toNat = c.str.modId →
    r.pkt.typ.toNat = 1 → r.owner = .tilePut g key → Runs (.writeAck i p) s fun t => t.m.chip.str.outst = [] ∧ t.m.chip.sent = c.sent ∧ fab t) ∧
  (∀ (r : Req) (g : Fin 1024) (d : Dma) (at' : Nat), good 0x82 → bit p.flags 2 = false → c.str.outst = [r] → c.str.waiting = [] → s.m.answerWaits i r = false → r.pkt.seq = p.ref → r.pkt.dest = p.src →
    p.dest.toNat = c.str.modId → r.pkt.typ.toNat = 2 → p.payload.length = r.pkt.len.toNat → r.owner = .tileGet g d.key at' → d.get = true → c.tile[g].dm = [d] →
    Runs (.readResp i p) s fun t => t.m.chip.str.outst = [] ∧ t.m.mem = (s.m.stPut g at' p.payload).mem ∧ t.m.chip.tile = c.tile) ∧
  (∀ (r : Req) (e : Fin 6) (k : Fin 16) (serial : Nat), good 0x83 → bare → c.str.outst = [r] → c.str.waiting = [] → s.m.answerWaits i r = false → r.pkt.seq = p.ref → r.pkt.dest = p.src → p.dest.toNat = c.str.modId →
    r.pkt.typ.toNat = 3 → r.owner = .coll e k serial → c.str.ce[e].slots[k].run = none → Runs (.collAck i p) s fun t => t.m.chip.str.outst = [] ∧ t.m.chip.sent = c.sent ∧ fab t) ∧
  (∀ (r : Req) (e : Fin 6) (k : Fin 16) (o : CeOp), good 0x84 → c.str.outst = [r] → c.str.waiting = [] → s.m.answerWaits i r = false → r.pkt.seq = p.ref → r.pkt.dest = p.src → p.dest.toNat = c.str.modId →
    r.pkt.typ.toNat = 4 → r.owner = .arrive e k o.serial → c.str.ce[e].slots[k].run = some o → Runs (.arriveAck i p) s fun t =>
      t.m.chip.str.outst = [] ∧ t.m.chip.str.ce[e].slots[k].run = some { o with arriveAcked := true } ∧ fab t) ∧
  (∀ (r : Req) (g : Fin 1024) (key : Nat), good 0x8F → c.str.outst = [r] → c.str.waiting = [] → s.m.answerWaits i r = false → r.pkt.seq = p.ref → r.pkt.dest = p.src → p.dest.toNat = c.str.modId →
    r.owner = .tilePut g key → Runs (.nack i p) s fun t => t.m.chip.str.outst = [] ∧ bit t.m.chip.str.err 3 = true ∧ counts t 4 ∧ t.m.chip.tile = c.tile ∧ KeepsMem s t) ∧
  (good 0x81 → bare → (∀ r ∈ c.str.outst, r.pkt.seq ≠ p.ref) → Runs (.writeAck i p) s fun t =>
    OnlyChip s t { c with str := { c.str with count := upd c.str.count 1 (fun n => (n + 1) % 2 ^ 64) } }) ∧
  (∀ r : Req, c.str.outst = [r] → c.str.waiting = [] → gone r → r.tries < c.str.retries → Runs (.resendTimeout r.pkt.seq) s fun t =>
    (∃ y, t.m.chip.str.outst = [y] ∧ y.tries = r.tries + 1 ∧ y.owner = r.owner ∧ y.pkt.payload = r.pkt.payload ∧ y.pkt.seq = c.str.seqNo ∧ y.pkt.addr = r.pkt.addr) ∧
    counts t 2 ∧ fab t) ∧
  (∀ (r : Req) (g : Fin 1024) (key : Nat), c.str.outst = [r] → c.str.waiting = [] → gone r → c.str.retries ≤ r.tries → r.owner = .tilePut g key → Runs (.resendTimeout r.pkt.seq) s fun t =>
    t.m.chip.str.outst = [] ∧ bit t.m.chip.str.err 3 = true) ∧
  (∀ seq, (∀ r ∈ c.str.outst, r.pkt.seq ≠ seq) → Runs (.resendTimeout seq) s fun t => t = s) ∧
  (∀ seq (j : Fin 12), (∃ q ∈ c.str.link[j].outReq, q.seq = seq) → Runs (.resendTimeout seq) s fun t => t = s)

/-- R178, R292, R293, R294, R299, R300, R302, R303, R304, R309, R310, R311: collective operations complete and fail, engine tables, export windows and the partner follow their
registers, and the fabric commands of hosts complete with their status. -/
def Obligations.CollectivesAndShadowsRun : Prop := ∀ (s : State) (e : Fin 6) (k : Fin 16),
  let c := s.m.chip
  let g := c.str.ce[e]
  let strOnly := fun (t : State) => OnlyChip s t { c with str := t.m.chip.str }
  -- a BARRIER without an action, a SEND whose ARRIVE is acknowledged, one that still waits; a timeout
  (∀ o : CeOp, g.slots[k].run = some o → g.slots[k].queued = none → (dsc o.desc 0 1 = 5 ∨ (dsc o.desc 0 1 = 1 ∧ o.arriveAcked = true)) → dsc o.desc 42 1 = 3 →
    Runs (.collectiveComplete e k) s fun t =>
      t.m.chip.str.ce[e].slots[k] = { g.slots[k] with run := none } ∧ (∀ r ∈ t.m.chip.str.ce[e].rx, r ∈ g.rx ∧ ¬(r.slot = k.val ∧ r.serial = o.serial)) ∧ strOnly t) ∧
  (∀ o : CeOp, g.slots[k].run = some o → dsc o.desc 0 1 = 1 → o.arriveAcked = false → Runs (.collectiveComplete e k) s fun t => t = s) ∧
  (∀ (o : CeOp) (l : List (Nat × Bytes)), g.slots[k].run = some o → g.slots[k].queued = none → dsc o.desc 0 1 ≠ 5 → dsc o.desc 0 1 ≠ 1 → dsc o.desc 42 1 = 3 →
    Mach.atLast o = true → s.m.resultOf e k o = some l → c.holds (some (Mach.engSk e).val) (dsc o.desc 16 8) (Mach.dstLen o.desc) = false →
    c.rangeMapped (dsc o.desc 16 8) (Mach.dstLen o.desc) = true → Runs (.collectiveComplete e k) s fun t =>
      t.m.mem = (each l (fun (p : Nat × Bytes) (x : Mach) => x.write (dsc o.desc 16 8 + p.1) p.2) s.m).mem ∧ t.m.chip.str.ce[e].slots[k] = { g.slots[k] with run := none } ∧
      (∀ b, l = [(0, b)] → Mach.mirrorPieces c (dsc o.desc 16 8) b = [] → Stores s t (dsc o.desc 16 8) b)) ∧
  (∀ o : CeOp, g.slots[k].run = some o → dsc o.desc 0 1 ≠ 5 → dsc o.desc 0 1 ≠ 1 → (s.m.resultOf e k o = none ∨ (Mach.atLast o = false ∧ s.m.srcHeld e o.desc = true)) →
    Runs (.collectiveComplete e k) s fun t => t = s) ∧
  -- its DONE action: a counter of a tile, or of a skerry's tiles
  (∀ o : CeOp, g.slots[k].run = some o → g.slots[k].queued = none → dsc o.desc 0 1 = 5 → dsc o.desc 42 1 = 0 →
    Clear c.mesh (.ce e) (.tile (Fin.ofNat 1024 (dsc o.desc 44 2))) → Runs (.collectiveComplete e k) s fun t =>
    t.m.chip.tile = (s.m.addCounter (Fin.ofNat 1024 (dsc o.desc 44 2)) (Fin.ofNat 16 (dsc o.desc 43 1)) (dsc o.desc 48 4) 0xFFFFFFFF).chip.tile ∧
    t.m.chip.str.ce[e].slots[k].run = none) ∧
  (g.slots[k].run = none → g.slots[k].queued = none → Runs (.collectiveComplete e k) s fun t => t = s) ∧
  (let timedOut := fun (t : State) => t.m.chip.str.ce[e].slots[k].run = none ∧ t.m.chip.str.ce[e].fails = satAdd 8 g.fails 1 ∧ t.m.chip.str.ce[e].lastSlot = k.val ∧
     t.m.chip.str.ce[e].lastCause = 2 ∧ bit t.m.chip.str.err 6 = true
   let after := fun (t : State) (e' : Chip) => { e' with str := t.m.chip.str, sk := t.m.chip.sk, hif := { c.hif with port := t.m.chip.hif.port, cmds := t.m.chip.hif.cmds } }
   (∀ o : CeOp, g.slots[k].run = some o → g.slots[k].queued = none → Mach.dstLen o.desc = 0 → Runs (.collectiveTimeout e k) s fun t => timedOut t ∧ OnlyChip s t (after t c)) ∧
   (∀ o : CeOp, g.slots[k].run = some o → g.slots[k].queued = none →
     let a := dsc o.desc 16 8
     let n := Mach.dstLen o.desc
     n ≠ 0 → n ≤ 0x1000000 → c.rangeMapped a n = true → c.holds (some (Mach.engSk e).val) a n = false → c.errs = [] → Mach.mirrorPieces c a (c.freeBytes n) = [] → Runs (.collectiveTimeout e k) s fun t =>
       timedOut t ∧ Stores s t a (c.freeBytes n) ∧
       OnlyChip { s with m := { s.m with mem := t.m.mem, poison := t.m.poison } } t (after t { c with free := c.free + n }))) ∧
  (g.slots[k].run = none → Runs (.collectiveTimeout e k) s fun t => t = s) ∧
  -- registers
  (∀ v : W64, c.railsOn = true → bit v 63 = true → Runs (.strCeTable e v) s fun t =>
    t.m.chip.str.ce[e].valid = true ∧ t.m.chip.str.ce[e].table = fld v 10 38 * 1024 ∧ (∀ j : Fin 16, t.m.chip.str.ce[e].slots[j] = { g.slots[j] with serial := 0 }) ∧ strOnly t) ∧
  (∀ v : W64, c.railsOn = true → bit v 63 = false → Runs (.strCeTable e v) s fun t =>
    t.m.chip.str.ce[e] = { g with valid := false, table := fld v 10 38 * 1024 } ∧ strOnly t) ∧
  (∀ (w : Fin 16) (v : W64), c.railsOn = true → c.str.exp[w].enable = false → bit v 63 = true → c.str.exp[w].len ≠ 0 →
    Mach.spanMapped c (fld v 16 32 * 65536) c.str.exp[w].len = true → Runs (.strExportEnable w v) s fun t => OnlyChip s t { c with str := { c.str with
      exp := vput c.str.exp w { c.str.exp[w] with enable := true, rd := bit v 62, wr := bit v 61, base := fld v 16 32 * 65536 } } }) ∧
  (∀ (w : Fin 16) (v : W64), c.railsOn = true → c.str.exp[w].enable = false → bit v 63 = true →
    (c.str.exp[w].len = 0 ∨ Mach.spanMapped c (fld v 16 32 * 65536) c.str.exp[w].len = false) → Runs (.strExportEnable w v) s fun t =>
    OnlyChip s t { c with str := { c.str with
      exp := vput c.str.exp w { c.str.exp[w] with rd := bit v 62, wr := bit v 61, base := fld v 16 32 * 65536 }, err := setBit c.str.err 9 true } }) ∧
  (∀ (w : Fin 16) (v : W64), c.railsOn = true → c.str.exp[w].enable = true → bit v 63 = false → Runs (.strExportEnable w v) s fun t => OnlyChip s t { c with str := { c.str with
    exp := vput c.str.exp w { c.str.exp[w] with enable := false } } }) ∧
  (∀ (w : Fin 16) (v : W64), c.railsOn = true → c.str.exp[w].enable = true → bit v 63 = true → Runs (.strExportEnable w v) s fun t => t = s) ∧
  (∀ v : W32, c.railsOn = true → Runs (.strPartnerEnable v) s fun t => OnlyChip s t { c with str := { c.str with
    partner := fld v 0 16, partnerEn := bit v 31 && decide (1 ≤ fld v 0 16) && decide (fld v 0 16 ≤ 20480) && fld v 0 16 != c.str.modId } }) ∧
  -- fabric commands
  (∀ (id : Nat) (x : Cmd) (q : Fin 128),
    let own := fun (op : Nat) => c.take op id = some x ∧ x.detached = false
    let ends := fun (t : State) (status result : Nat) => t.m.chip.cmd? id = some { x with started := true, ended := some (status, result) }
    let refused := fun (t : State) (status : Nat) => ends t status 0 ∧ OnlyChip s t { c with hif := { c.hif with cmds := t.m.chip.hif.cmds } }
    let fab := fun (t : State) => OnlyChip s t { c with str := t.m.chip.str, sent := t.m.chip.sent, seq := t.m.chip.seq, hif := { c.hif with cmds := t.m.chip.hif.cmds } }
    let mine := c.seqAt (x.f 8 4) = .ok q
    let waits := fun (t : State) (o : Owner) (typ addr : Nat) => ∃ r ∈ t.m.chip.str.outst ++ t.m.chip.str.waiting,
      r.owner = o ∧ r.pkt.typ.toNat = typ ∧ r.pkt.addr = BitVec.ofNat 64 addr ∧ r.pkt.dest = BitVec.ofNat 16 c.str.partner
    (∀ local' : Nat, own 0x80 → s.m.cmdHeld x = false → 16 ≤ x.f 24 8 → x.f 24 8 ≤ 2 ^ 32 → x.f 24 8 % 16 = 0 → x.f 33 1 ≤ 2 → c.localOf (x.f 8 8) = some local' → c.rangeMapped local' (x.f 24 8) = true →
      c.localOf (x.f 16 8) = none → local' % 16 = 0 → x.f 16 8 % 16 = 0 → x.f 16 8 % 2 ^ 48 + x.f 24 8 ≤ 2 ^ 48 → c.str.modId ≠ 0 →
      c.reachable (x.f 16 8 / 2 ^ 48) = true → (x.f 32 1 = 1 ∨ (c.errs = [] ∧ s.m.badUnits local' (x.f 24 8) = [])) → Runs (.fabricCopy id) s fun t =>
        t.m.chip.cmd? id = some { x with started := true } ∧ (x.id, 0, 0, 0) ∈ t.m.chip.str.fcopy ∧
        (t.m.chip.str.outst ++ t.m.chip.str.waiting).length = (c.str.outst ++ c.str.waiting).length + (Chip.pieces (x.f 16 8 % 2 ^ 48) (x.f 24 8)).length ∧ fab t) ∧
    (own 0x80 → s.m.cmdHeld x = false → (x.f 24 8 < 16 ∨ 2 ^ 32 < x.f 24 8 ∨ x.f 24 8 % 16 ≠ 0 ∨ 2 < x.f 33 1) → Runs (.fabricCopy id) s fun t => refused t 2) ∧
    (∀ d : Fin 6, own 0x81 → engOf (x.f 8 1) = some d → x.f 9 1 = k.val → c.str.ce[d].valid = true → c.str.ce[d].failed = false →
      let sum := min (c.str.ce[d].slots[k].arrivals + x.f 12 4) 0xFFFFFFFF
      sum < dsc (s.m.read (c.str.ce[d].table + 64 * k.val) 64) 4 4 → Runs (.fireSlot id) s fun t =>
        ends t 0 0 ∧ t.m.chip.str.ce[d].slots[k] = { c.str.ce[d].slots[k] with arrivals := sum } ∧ fab t) ∧
    (own 0x81 → (engOf (x.f 8 1) = none ∨ 15 < x.f 9 1) → Runs (.fireSlot id) s fun t => refused t 0x0205) ∧
    (own 0x82 → mine → x.f 16 8 = 0 → c.seq[q].st = .idle → c.seq[q].shadow = none → Runs (.setShadow id) s fun t => ends t 0 0 ∧ t.m.chip.seq = c.seq ∧ fab t) ∧
    (own 0x82 → mine → x.f 16 8 ≠ 0 → x.f 16 8 % 512 = 0 → x.f 16 8 + 512 ≤ 2 ^ 48 → c.seq[q].st = .idle → c.str.modId ≠ 0 → c.str.partnerEn = true →
      c.reachable c.str.partner = true → Runs (.setShadow id) s fun t =>
        t.m.chip.cmd? id = some { x with started := true } ∧ t.m.chip.seq = c.seq ∧ waits t (.setShadow x.id q 0) 2 (x.f 16 8 + 16) ∧ fab t) ∧
    (own 0x82 → mine → (x.f 16 8 % 512 ≠ 0 ∨ 2 ^ 48 < x.f 16 8 + 512) → Runs (.setShadow id) s fun t => refused t 2) ∧
    (own 0x83 → mine → c.seq[q].shadow = none → Runs (.shadowSync id) s fun t => refused t 0x0203) ∧
    (∀ h : Shadow, own 0x83 → mine → c.seq[q].shadow = some h → c.str.partnerEn = true → h.due = false → c.str.outst = [] → c.str.waiting = [] → Runs (.shadowSync id) s fun t =>
      ends t 0 h.serial ∧ t.m.chip.seq = c.seq ∧ fab t) ∧
    (∀ h : Shadow, own 0x83 → mine → c.seq[q].shadow = some h → c.str.partnerEn = true → h.due = true → Runs (.shadowSync id) s fun t =>
      t.m.chip.cmd? id = some { x with started := true } ∧ t.m.chip.seq[q] = { c.seq[q] with shadow := some { h with syncs := h.syncs ++ [(x.id, 2 ^ 32, 0x0204)] } } ∧ fab t) ∧
    (∀ h : Shadow, c.seq[q].shadow = some h → h.due = true → c.str.partnerEn = true → c.str.outst = [] → c.str.waiting = [] → Runs (.shadowCommitWord q) s fun t =>
      t.m.chip.seq[q] = { c.seq[q] with shadow := some { h with serial := (h.serial + 1) % 2 ^ 32, pages := h.asked, due := false } } ∧
      waits t (.shadowWord q ((h.serial + 1) % 2 ^ 32)) 1 h.record ∧ fab t) ∧
    (∀ h : Shadow, c.seq[q].shadow = some h → h.due = false → Runs (.shadowCommitWord q) s fun t => t = s))

/-- The queue (the model's own, log 2): a step takes the command at the front and runs it with the queue's rest; on an empty queue the block idles; every
command completes and leaves the queue as it is. -/
def Obligations.StepTakesTheFront : Prop := ∀ (s : State),
  (s.pending = [] → step s = .next s) ∧ (∀ i : Instr, step { s with pending := i :: s.pending } = exec i s) ∧ ∀ i : Instr, Runs i s fun t => t.pending = s.pending

/-- R12, R40, R76, R103, R161, R180, R234, R235, R271, R311, R435: the machine after reset: without auxiliary power, the package registers at their Reset column, every object slot
free, no memory listed and no command waiting. Slot generations and mirror slots are as the rules give them. The model's own choices in it: reset is the loss of
auxiliary power (log 1), an unwritten byte reads 0 (log 5), the tiles' PC, FLAGS and the like before a program (log 6), the factory tile map (log 7). -/
def Obligations.ResetIsAsSpecified : Prop :=
  let c := State.reset.m.chip
  State.reset.pending = [] ∧ State.reset.memWf ∧ (∀ a, State.reset.byteAt a = 0) ∧ c.mod.st = .unpowered ∧ c.mod.permit = 0 ∧ c.pwr.enabled = 0 ∧ c.pwr.good = 0 ∧ c.pwr.laser = false ∧
  (∀ k : Fin 16, c.sk[k].st = .off ∧ c.sk[k].req = 0x20 ∧ c.sk[k].applied = 0 ∧ c.sk[k].nap = 0x0032 ∧ c.sk[k].fault = 0 ∧ c.sk[k].auto = true ∧ c.sk[k].fiLog = 0xFF) ∧
  (∀ g : Fin 1024, c.tile[g].exec = .idle ∧ c.tile[g].idle = 3 ∧ c.tile[g].pc = 0 ∧ c.tile[g].flags = 0 ∧ c.tile[g].trap = 0 ∧ c.tile[g].plan = none ∧
    c.tile[g].mirrorSlot = some (g.val % 24, g.val / 24)) ∧
  (∀ d : Fin 24, c.gmc.dev[d] = resetGddr) ∧ c.gmc.scrubOn = true ∧ c.gmc.scrubHours = 0x18 ∧ (∀ w : Fin 16, c.cxl.win[w].enable = false) ∧
  c.hif.err = 0 ∧ (∀ k : Fin 8, c.hif.cnt[k] = 0) ∧ c.hif.queues = [] ∧ c.hif.regions = [] ∧ c.hif.cmds = [] ∧ (∀ k : Fin 16, c.hif.plans[k].st = .free ∧ c.hif.plans[k].gen = 1) ∧
  (∀ k : Fin 4, c.dsq[k].loadEn = true ∧ c.dsq[k].lead = 0xC8 ∧ c.dsq[k].err = 0) ∧ (∀ k : Fin 128, c.seq[k].st = .free ∧ c.seq[k].gen = 1) ∧
  c.str.modId = 0 ∧ c.str.smallMax = 0x10 ∧ c.str.mSmall = 2 ∧ c.str.retries = 3 ∧ c.str.timeout = 0x32 ∧ c.str.window = 0x64 ∧ c.str.partnerEn = false ∧ c.str.err = 0 ∧
  ∀ k : Fin 12, c.str.link[k].st = 0

/-- The invariant of the addressed memory (R145, R146, R156): in every state whose bytes and poison marks stand in their canonical forms, every step keeps them so. -/
def Obligations.MemoryKeepsItsForm : Prop := ∀ s t : State, s.memWf → step s = .next t → t.memWf
end

