-- ==== Sys2Proof/Laws/State.lean ====
section
/-!
SUPPORT. The fields of the chip after each named update: one lemma per field per update.
-/
namespace Sys2Proof.Machine
namespace Chip

@[simp] theorem send_mod (m : Msg) (c : Chip) : (c.send m).mod = c.mod := rfl
@[simp] theorem send_pins (m : Msg) (c : Chip) : (c.send m).pins = c.pins := rfl
@[simp] theorem send_pwr (m : Msg) (c : Chip) : (c.send m).pwr = c.pwr := rfl
@[simp] theorem send_recv (m : Msg) (c : Chip) : (c.send m).recv = c.recv := rfl
@[simp] theorem send_mc (m : Msg) (c : Chip) : (c.send m).mc = c.mc := rfl
@[simp] theorem send_nv (m : Msg) (c : Chip) : (c.send m).nv = c.nv := rfl
@[simp] theorem send_pair (m : Msg) (c : Chip) : (c.send m).pair = c.pair := rfl
@[simp] theorem send_comm (m : Msg) (c : Chip) : (c.send m).comm = c.comm := rfl
@[simp] theorem send_ad (m : Msg) (c : Chip) : (c.send m).ad = c.ad := rfl
@[simp] theorem send_blow (m : Msg) (c : Chip) : (c.send m).blow = c.blow := rfl
@[simp] theorem send_sec (m : Msg) (c : Chip) : (c.send m).sec = c.sec := rfl
@[simp] theorem send_sk (m : Msg) (c : Chip) : (c.send m).sk = c.sk := rfl
@[simp] theorem send_ecc (m : Msg) (c : Chip) : (c.send m).ecc = c.ecc := rfl
@[simp] theorem send_tile (m : Msg) (c : Chip) : (c.send m).tile = c.tile := rfl
@[simp] theorem send_mesh (m : Msg) (c : Chip) : (c.send m).mesh = c.mesh := rfl
@[simp] theorem send_gmc (m : Msg) (c : Chip) : (c.send m).gmc = c.gmc := rfl
@[simp] theorem send_cxl (m : Msg) (c : Chip) : (c.send m).cxl = c.cxl := rfl
@[simp] theorem send_hif (m : Msg) (c : Chip) : (c.send m).hif = c.hif := rfl
@[simp] theorem send_str (m : Msg) (c : Chip) : (c.send m).str = c.str := rfl
@[simp] theorem send_dsq (m : Msg) (c : Chip) : (c.send m).dsq = c.dsq := rfl
@[simp] theorem send_seq (m : Msg) (c : Chip) : (c.send m).seq = c.seq := rfl
@[simp] theorem send_held (m : Msg) (c : Chip) : (c.send m).held = c.held := rfl
@[simp] theorem send_errs (m : Msg) (c : Chip) : (c.send m).errs = c.errs := rfl
@[simp] theorem send_sent (m : Msg) (c : Chip) : (c.send m).sent = m :: c.sent := rfl
@[simp] theorem send_free (m : Msg) (c : Chip) : (c.send m).free = c.free := rfl
@[simp] theorem send_time (m : Msg) (c : Chip) : (c.send m).time = c.time := rfl

@[simp] theorem draw_mod (c : Chip) : (c.draw).mod = c.mod := rfl
@[simp] theorem draw_pins (c : Chip) : (c.draw).pins = c.pins := rfl
@[simp] theorem draw_pwr (c : Chip) : (c.draw).pwr = c.pwr := rfl
@[simp] theorem draw_recv (c : Chip) : (c.draw).recv = c.recv := rfl
@[simp] theorem draw_mc (c : Chip) : (c.draw).mc = c.mc := rfl
@[simp] theorem draw_nv (c : Chip) : (c.draw).nv = c.nv := rfl
@[simp] theorem draw_pair (c : Chip) : (c.draw).pair = c.pair := rfl
@[simp] theorem draw_comm (c : Chip) : (c.draw).comm = c.comm := rfl
@[simp] theorem draw_ad (c : Chip) : (c.draw).ad = c.ad := rfl
@[simp] theorem draw_blow (c : Chip) : (c.draw).blow = c.blow := rfl
@[simp] theorem draw_sec (c : Chip) : (c.draw).sec = c.sec := rfl
@[simp] theorem draw_sk (c : Chip) : (c.draw).sk = c.sk := rfl
@[simp] theorem draw_ecc (c : Chip) : (c.draw).ecc = c.ecc := rfl
@[simp] theorem draw_tile (c : Chip) : (c.draw).tile = c.tile := rfl
@[simp] theorem draw_mesh (c : Chip) : (c.draw).mesh = c.mesh := rfl
@[simp] theorem draw_gmc (c : Chip) : (c.draw).gmc = c.gmc := rfl
@[simp] theorem draw_cxl (c : Chip) : (c.draw).cxl = c.cxl := rfl
@[simp] theorem draw_hif (c : Chip) : (c.draw).hif = c.hif := rfl
@[simp] theorem draw_str (c : Chip) : (c.draw).str = c.str := rfl
@[simp] theorem draw_dsq (c : Chip) : (c.draw).dsq = c.dsq := rfl
@[simp] theorem draw_seq (c : Chip) : (c.draw).seq = c.seq := rfl
@[simp] theorem draw_held (c : Chip) : (c.draw).held = c.held := rfl
@[simp] theorem draw_errs (c : Chip) : (c.draw).errs = c.errs := rfl
@[simp] theorem draw_sent (c : Chip) : (c.draw).sent = c.sent := rfl
@[simp] theorem draw_free (c : Chip) : (c.draw).free = c.free + 1 := rfl
@[simp] theorem draw_time (c : Chip) : (c.draw).time = c.time := rfl

@[simp] theorem onMc_mod (i : Fin 2) (f : Ctrl → Ctrl) (c : Chip) : (c.onMc i f).mod = c.mod := rfl
@[simp] theorem onMc_pins (i : Fin 2) (f : Ctrl → Ctrl) (c : Chip) : (c.onMc i f).pins = c.pins := rfl
@[simp] theorem onMc_pwr (i : Fin 2) (f : Ctrl → Ctrl) (c : Chip) : (c.onMc i f).pwr = c.pwr := rfl
@[simp] theorem onMc_recv (i : Fin 2) (f : Ctrl → Ctrl) (c : Chip) : (c.onMc i f).recv = c.recv := rfl
@[simp] theorem onMc_mc (i : Fin 2) (f : Ctrl → Ctrl) (c : Chip) : (c.onMc i f).mc = upd c.mc i f := rfl
@[simp] theorem onMc_nv (i : Fin 2) (f : Ctrl → Ctrl) (c : Chip) : (c.onMc i f).nv = c.nv := rfl
@[simp] theorem onMc_pair (i : Fin 2) (f : Ctrl → Ctrl) (c : Chip) : (c.onMc i f).pair = c.pair := rfl
@[simp] theorem onMc_comm (i : Fin 2) (f : Ctrl → Ctrl) (c : Chip) : (c.onMc i f).comm = c.comm := rfl
@[simp] theorem onMc_ad (i : Fin 2) (f : Ctrl → Ctrl) (c : Chip) : (c.onMc i f).ad = c.ad := rfl
@[simp] theorem onMc_blow (i : Fin 2) (f : Ctrl → Ctrl) (c : Chip) : (c.onMc i f).blow = c.blow := rfl
@[simp] theorem onMc_sec (i : Fin 2) (f : Ctrl → Ctrl) (c : Chip) : (c.onMc i f).sec = c.sec := rfl
@[simp] theorem onMc_sk (i : Fin 2) (f : Ctrl → Ctrl) (c : Chip) : (c.onMc i f).sk = c.sk := rfl
@[simp] theorem onMc_ecc (i : Fin 2) (f : Ctrl → Ctrl) (c : Chip) : (c.onMc i f).ecc = c.ecc := rfl
@[simp] theorem onMc_tile (i : Fin 2) (f : Ctrl → Ctrl) (c : Chip) : (c.onMc i f).tile = c.tile := rfl
@[simp] theorem onMc_mesh (i : Fin 2) (f : Ctrl → Ctrl) (c : Chip) : (c.onMc i f).mesh = c.mesh := rfl
@[simp] theorem onMc_gmc (i : Fin 2) (f : Ctrl → Ctrl) (c : Chip) : (c.onMc i f).gmc = c.gmc := rfl
@[simp] theorem onMc_cxl (i : Fin 2) (f : Ctrl → Ctrl) (c : Chip) : (c.onMc i f).cxl = c.cxl := rfl
@[simp] theorem onMc_hif (i : Fin 2) (f : Ctrl → Ctrl) (c : Chip) : (c.onMc i f).hif = c.hif := rfl
@[simp] theorem onMc_str (i : Fin 2) (f : Ctrl → Ctrl) (c : Chip) : (c.onMc i f).str = c.str := rfl
@[simp] theorem onMc_dsq (i : Fin 2) (f : Ctrl → Ctrl) (c : Chip) : (c.onMc i f).dsq = c.dsq := rfl
@[simp] theorem onMc_seq (i : Fin 2) (f : Ctrl → Ctrl) (c : Chip) : (c.onMc i f).seq = c.seq := rfl
@[simp] theorem onMc_held (i : Fin 2) (f : Ctrl → Ctrl) (c : Chip) : (c.onMc i f).held = c.held := rfl
@[simp] theorem onMc_errs (i : Fin 2) (f : Ctrl → Ctrl) (c : Chip) : (c.onMc i f).errs = c.errs := rfl
@[simp] theorem onMc_sent (i : Fin 2) (f : Ctrl → Ctrl) (c : Chip) : (c.onMc i f).sent = c.sent := rfl
@[simp] theorem onMc_free (i : Fin 2) (f : Ctrl → Ctrl) (c : Chip) : (c.onMc i f).free = c.free := rfl
@[simp] theorem onMc_time (i : Fin 2) (f : Ctrl → Ctrl) (c : Chip) : (c.onMc i f).time = c.time := rfl

@[simp] theorem onNv_mod (i : Fin 2) (f : CtrlNv → CtrlNv) (c : Chip) : (c.onNv i f).mod = c.mod := rfl
@[simp] theorem onNv_pins (i : Fin 2) (f : CtrlNv → CtrlNv) (c : Chip) : (c.onNv i f).pins = c.pins := rfl
@[simp] theorem onNv_pwr (i : Fin 2) (f : CtrlNv → CtrlNv) (c : Chip) : (c.onNv i f).pwr = c.pwr := rfl
@[simp] theorem onNv_recv (i : Fin 2) (f : CtrlNv → CtrlNv) (c : Chip) : (c.onNv i f).recv = c.recv := rfl
@[simp] theorem onNv_mc (i : Fin 2) (f : CtrlNv → CtrlNv) (c : Chip) : (c.onNv i f).mc = c.mc := rfl
@[simp] theorem onNv_nv (i : Fin 2) (f : CtrlNv → CtrlNv) (c : Chip) : (c.onNv i f).nv = upd c.nv i f := rfl
@[simp] theorem onNv_pair (i : Fin 2) (f : CtrlNv → CtrlNv) (c : Chip) : (c.onNv i f).pair = c.pair := rfl
@[simp] theorem onNv_comm (i : Fin 2) (f : CtrlNv → CtrlNv) (c : Chip) : (c.onNv i f).comm = c.comm := rfl
@[simp] theorem onNv_ad (i : Fin 2) (f : CtrlNv → CtrlNv) (c : Chip) : (c.onNv i f).ad = c.ad := rfl
@[simp] theorem onNv_blow (i : Fin 2) (f : CtrlNv → CtrlNv) (c : Chip) : (c.onNv i f).blow = c.blow := rfl
@[simp] theorem onNv_sec (i : Fin 2) (f : CtrlNv → CtrlNv) (c : Chip) : (c.onNv i f).sec = c.sec := rfl
@[simp] theorem onNv_sk (i : Fin 2) (f : CtrlNv → CtrlNv) (c : Chip) : (c.onNv i f).sk = c.sk := rfl
@[simp] theorem onNv_ecc (i : Fin 2) (f : CtrlNv → CtrlNv) (c : Chip) : (c.onNv i f).ecc = c.ecc := rfl
@[simp] theorem onNv_tile (i : Fin 2) (f : CtrlNv → CtrlNv) (c : Chip) : (c.onNv i f).tile = c.tile := rfl
@[simp] theorem onNv_mesh (i : Fin 2) (f : CtrlNv → CtrlNv) (c : Chip) : (c.onNv i f).mesh = c.mesh := rfl
@[simp] theorem onNv_gmc (i : Fin 2) (f : CtrlNv → CtrlNv) (c : Chip) : (c.onNv i f).gmc = c.gmc := rfl
@[simp] theorem onNv_cxl (i : Fin 2) (f : CtrlNv → CtrlNv) (c : Chip) : (c.onNv i f).cxl = c.cxl := rfl
@[simp] theorem onNv_hif (i : Fin 2) (f : CtrlNv → CtrlNv) (c : Chip) : (c.onNv i f).hif = c.hif := rfl
@[simp] theorem onNv_str (i : Fin 2) (f : CtrlNv → CtrlNv) (c : Chip) : (c.onNv i f).str = c.str := rfl
@[simp] theorem onNv_dsq (i : Fin 2) (f : CtrlNv → CtrlNv) (c : Chip) : (c.onNv i f).dsq = c.dsq := rfl
@[simp] theorem onNv_seq (i : Fin 2) (f : CtrlNv → CtrlNv) (c : Chip) : (c.onNv i f).seq = c.seq := rfl
@[simp] theorem onNv_held (i : Fin 2) (f : CtrlNv → CtrlNv) (c : Chip) : (c.onNv i f).held = c.held := rfl
@[simp] theorem onNv_errs (i : Fin 2) (f : CtrlNv → CtrlNv) (c : Chip) : (c.onNv i f).errs = c.errs := rfl
@[simp] theorem onNv_sent (i : Fin 2) (f : CtrlNv → CtrlNv) (c : Chip) : (c.onNv i f).sent = c.sent := rfl
@[simp] theorem onNv_free (i : Fin 2) (f : CtrlNv → CtrlNv) (c : Chip) : (c.onNv i f).free = c.free := rfl
@[simp] theorem onNv_time (i : Fin 2) (f : CtrlNv → CtrlNv) (c : Chip) : (c.onNv i f).time = c.time := rfl

@[simp] theorem onSk_mod (i : Fin 16) (f : Skerry → Skerry) (c : Chip) : (c.onSk i f).mod = c.mod := rfl
@[simp] theorem onSk_pins (i : Fin 16) (f : Skerry → Skerry) (c : Chip) : (c.onSk i f).pins = c.pins := rfl
@[simp] theorem onSk_pwr (i : Fin 16) (f : Skerry → Skerry) (c : Chip) : (c.onSk i f).pwr = c.pwr := rfl
@[simp] theorem onSk_recv (i : Fin 16) (f : Skerry → Skerry) (c : Chip) : (c.onSk i f).recv = c.recv := rfl
@[simp] theorem onSk_mc (i : Fin 16) (f : Skerry → Skerry) (c : Chip) : (c.onSk i f).mc = c.mc := rfl
@[simp] theorem onSk_nv (i : Fin 16) (f : Skerry → Skerry) (c : Chip) : (c.onSk i f).nv = c.nv := rfl
@[simp] theorem onSk_pair (i : Fin 16) (f : Skerry → Skerry) (c : Chip) : (c.onSk i f).pair = c.pair := rfl
@[simp] theorem onSk_comm (i : Fin 16) (f : Skerry → Skerry) (c : Chip) : (c.onSk i f).comm = c.comm := rfl
@[simp] theorem onSk_ad (i : Fin 16) (f : Skerry → Skerry) (c : Chip) : (c.onSk i f).ad = c.ad := rfl
@[simp] theorem onSk_blow (i : Fin 16) (f : Skerry → Skerry) (c : Chip) : (c.onSk i f).blow = c.blow := rfl
@[simp] theorem onSk_sec (i : Fin 16) (f : Skerry → Skerry) (c : Chip) : (c.onSk i f).sec = c.sec := rfl
@[simp] theorem onSk_sk (i : Fin 16) (f : Skerry → Skerry) (c : Chip) : (c.onSk i f).sk = upd c.sk i f := rfl
@[simp] theorem onSk_ecc (i : Fin 16) (f : Skerry → Skerry) (c : Chip) : (c.onSk i f).ecc = c.ecc := rfl
@[simp] theorem onSk_tile (i : Fin 16) (f : Skerry → Skerry) (c : Chip) : (c.onSk i f).tile = c.tile := rfl
@[simp] theorem onSk_mesh (i : Fin 16) (f : Skerry → Skerry) (c : Chip) : (c.onSk i f).mesh = c.mesh := rfl
@[simp] theorem onSk_gmc (i : Fin 16) (f : Skerry → Skerry) (c : Chip) : (c.onSk i f).gmc = c.gmc := rfl
@[simp] theorem onSk_cxl (i : Fin 16) (f : Skerry → Skerry) (c : Chip) : (c.onSk i f).cxl = c.cxl := rfl
@[simp] theorem onSk_hif (i : Fin 16) (f : Skerry → Skerry) (c : Chip) : (c.onSk i f).hif = c.hif := rfl
@[simp] theorem onSk_str (i : Fin 16) (f : Skerry → Skerry) (c : Chip) : (c.onSk i f).str = c.str := rfl
@[simp] theorem onSk_dsq (i : Fin 16) (f : Skerry → Skerry) (c : Chip) : (c.onSk i f).dsq = c.dsq := rfl
@[simp] theorem onSk_seq (i : Fin 16) (f : Skerry → Skerry) (c : Chip) : (c.onSk i f).seq = c.seq := rfl
@[simp] theorem onSk_held (i : Fin 16) (f : Skerry → Skerry) (c : Chip) : (c.onSk i f).held = c.held := rfl
@[simp] theorem onSk_errs (i : Fin 16) (f : Skerry → Skerry) (c : Chip) : (c.onSk i f).errs = c.errs := rfl
@[simp] theorem onSk_sent (i : Fin 16) (f : Skerry → Skerry) (c : Chip) : (c.onSk i f).sent = c.sent := rfl
@[simp] theorem onSk_free (i : Fin 16) (f : Skerry → Skerry) (c : Chip) : (c.onSk i f).free = c.free := rfl
@[simp] theorem onSk_time (i : Fin 16) (f : Skerry → Skerry) (c : Chip) : (c.onSk i f).time = c.time := rfl

@[simp] theorem onEcc_mod (i : Fin 16) (f : SramEcc → SramEcc) (c : Chip) : (c.onEcc i f).mod = c.mod := rfl
@[simp] theorem onEcc_pins (i : Fin 16) (f : SramEcc → SramEcc) (c : Chip) : (c.onEcc i f).pins = c.pins := rfl
@[simp] theorem onEcc_pwr (i : Fin 16) (f : SramEcc → SramEcc) (c : Chip) : (c.onEcc i f).pwr = c.pwr := rfl
@[simp] theorem onEcc_recv (i : Fin 16) (f : SramEcc → SramEcc) (c : Chip) : (c.onEcc i f).recv = c.recv := rfl
@[simp] theorem onEcc_mc (i : Fin 16) (f : SramEcc → SramEcc) (c : Chip) : (c.onEcc i f).mc = c.mc := rfl
@[simp] theorem onEcc_nv (i : Fin 16) (f : SramEcc → SramEcc) (c : Chip) : (c.onEcc i f).nv = c.nv := rfl
@[simp] theorem onEcc_pair (i : Fin 16) (f : SramEcc → SramEcc) (c : Chip) : (c.onEcc i f).pair = c.pair := rfl
@[simp] theorem onEcc_comm (i : Fin 16) (f : SramEcc → SramEcc) (c : Chip) : (c.onEcc i f).comm = c.comm := rfl
@[simp] theorem onEcc_ad (i : Fin 16) (f : SramEcc → SramEcc) (c : Chip) : (c.onEcc i f).ad = c.ad := rfl
@[simp] theorem onEcc_blow (i : Fin 16) (f : SramEcc → SramEcc) (c : Chip) : (c.onEcc i f).blow = c.blow := rfl
@[simp] theorem onEcc_sec (i : Fin 16) (f : SramEcc → SramEcc) (c : Chip) : (c.onEcc i f).sec = c.sec := rfl
@[simp] theorem onEcc_sk (i : Fin 16) (f : SramEcc → SramEcc) (c : Chip) : (c.onEcc i f).sk = c.sk := rfl
@[simp] theorem onEcc_ecc (i : Fin 16) (f : SramEcc → SramEcc) (c : Chip) : (c.onEcc i f).ecc = upd c.ecc i f := rfl
@[simp] theorem onEcc_tile (i : Fin 16) (f : SramEcc → SramEcc) (c : Chip) : (c.onEcc i f).tile = c.tile := rfl
@[simp] theorem onEcc_mesh (i : Fin 16) (f : SramEcc → SramEcc) (c : Chip) : (c.onEcc i f).mesh = c.mesh := rfl
@[simp] theorem onEcc_gmc (i : Fin 16) (f : SramEcc → SramEcc) (c : Chip) : (c.onEcc i f).gmc = c.gmc := rfl
@[simp] theorem onEcc_cxl (i : Fin 16) (f : SramEcc → SramEcc) (c : Chip) : (c.onEcc i f).cxl = c.cxl := rfl
@[simp] theorem onEcc_hif (i : Fin 16) (f : SramEcc → SramEcc) (c : Chip) : (c.onEcc i f).hif = c.hif := rfl
@[simp] theorem onEcc_str (i : Fin 16) (f : SramEcc → SramEcc) (c : Chip) : (c.onEcc i f).str = c.str := rfl
@[simp] theorem onEcc_dsq (i : Fin 16) (f : SramEcc → SramEcc) (c : Chip) : (c.onEcc i f).dsq = c.dsq := rfl
@[simp] theorem onEcc_seq (i : Fin 16) (f : SramEcc → SramEcc) (c : Chip) : (c.onEcc i f).seq = c.seq := rfl
@[simp] theorem onEcc_held (i : Fin 16) (f : SramEcc → SramEcc) (c : Chip) : (c.onEcc i f).held = c.held := rfl
@[simp] theorem onEcc_errs (i : Fin 16) (f : SramEcc → SramEcc) (c : Chip) : (c.onEcc i f).errs = c.errs := rfl
@[simp] theorem onEcc_sent (i : Fin 16) (f : SramEcc → SramEcc) (c : Chip) : (c.onEcc i f).sent = c.sent := rfl
@[simp] theorem onEcc_free (i : Fin 16) (f : SramEcc → SramEcc) (c : Chip) : (c.onEcc i f).free = c.free := rfl
@[simp] theorem onEcc_time (i : Fin 16) (f : SramEcc → SramEcc) (c : Chip) : (c.onEcc i f).time = c.time := rfl

@[simp] theorem onTile_mod (i : Fin 1024) (f : Tile → Tile) (c : Chip) : (c.onTile i f).mod = c.mod := rfl
@[simp] theorem onTile_pins (i : Fin 1024) (f : Tile → Tile) (c : Chip) : (c.onTile i f).pins = c.pins := rfl
@[simp] theorem onTile_pwr (i : Fin 1024) (f : Tile → Tile) (c : Chip) : (c.onTile i f).pwr = c.pwr := rfl
@[simp] theorem onTile_recv (i : Fin 1024) (f : Tile → Tile) (c : Chip) : (c.onTile i f).recv = c.recv := rfl
@[simp] theorem onTile_mc (i : Fin 1024) (f : Tile → Tile) (c : Chip) : (c.onTile i f).mc = c.mc := rfl
@[simp] theorem onTile_nv (i : Fin 1024) (f : Tile → Tile) (c : Chip) : (c.onTile i f).nv = c.nv := rfl
@[simp] theorem onTile_pair (i : Fin 1024) (f : Tile → Tile) (c : Chip) : (c.onTile i f).pair = c.pair := rfl
@[simp] theorem onTile_comm (i : Fin 1024) (f : Tile → Tile) (c : Chip) : (c.onTile i f).comm = c.comm := rfl
@[simp] theorem onTile_ad (i : Fin 1024) (f : Tile → Tile) (c : Chip) : (c.onTile i f).ad = c.ad := rfl
@[simp] theorem onTile_blow (i : Fin 1024) (f : Tile → Tile) (c : Chip) : (c.onTile i f).blow = c.blow := rfl
@[simp] theorem onTile_sec (i : Fin 1024) (f : Tile → Tile) (c : Chip) : (c.onTile i f).sec = c.sec := rfl
@[simp] theorem onTile_sk (i : Fin 1024) (f : Tile → Tile) (c : Chip) : (c.onTile i f).sk = c.sk := rfl
@[simp] theorem onTile_ecc (i : Fin 1024) (f : Tile → Tile) (c : Chip) : (c.onTile i f).ecc = c.ecc := rfl
@[simp] theorem onTile_tile (i : Fin 1024) (f : Tile → Tile) (c : Chip) : (c.onTile i f).tile = upd c.tile i f := rfl
@[simp] theorem onTile_mesh (i : Fin 1024) (f : Tile → Tile) (c : Chip) : (c.onTile i f).mesh = c.mesh := rfl
@[simp] theorem onTile_gmc (i : Fin 1024) (f : Tile → Tile) (c : Chip) : (c.onTile i f).gmc = c.gmc := rfl
@[simp] theorem onTile_cxl (i : Fin 1024) (f : Tile → Tile) (c : Chip) : (c.onTile i f).cxl = c.cxl := rfl
@[simp] theorem onTile_hif (i : Fin 1024) (f : Tile → Tile) (c : Chip) : (c.onTile i f).hif = c.hif := rfl
@[simp] theorem onTile_str (i : Fin 1024) (f : Tile → Tile) (c : Chip) : (c.onTile i f).str = c.str := rfl
@[simp] theorem onTile_dsq (i : Fin 1024) (f : Tile → Tile) (c : Chip) : (c.onTile i f).dsq = c.dsq := rfl
@[simp] theorem onTile_seq (i : Fin 1024) (f : Tile → Tile) (c : Chip) : (c.onTile i f).seq = c.seq := rfl
@[simp] theorem onTile_held (i : Fin 1024) (f : Tile → Tile) (c : Chip) : (c.onTile i f).held = c.held := rfl
@[simp] theorem onTile_errs (i : Fin 1024) (f : Tile → Tile) (c : Chip) : (c.onTile i f).errs = c.errs := rfl
@[simp] theorem onTile_sent (i : Fin 1024) (f : Tile → Tile) (c : Chip) : (c.onTile i f).sent = c.sent := rfl
@[simp] theorem onTile_free (i : Fin 1024) (f : Tile → Tile) (c : Chip) : (c.onTile i f).free = c.free := rfl
@[simp] theorem onTile_time (i : Fin 1024) (f : Tile → Tile) (c : Chip) : (c.onTile i f).time = c.time := rfl

@[simp] theorem onCh_mod (i : Fin 10) (f : Chan → Chan) (c : Chip) : (c.onCh i f).mod = c.mod := rfl
@[simp] theorem onCh_pins (i : Fin 10) (f : Chan → Chan) (c : Chip) : (c.onCh i f).pins = c.pins := rfl
@[simp] theorem onCh_pwr (i : Fin 10) (f : Chan → Chan) (c : Chip) : (c.onCh i f).pwr = c.pwr := rfl
@[simp] theorem onCh_recv (i : Fin 10) (f : Chan → Chan) (c : Chip) : (c.onCh i f).recv = c.recv := rfl
@[simp] theorem onCh_mc (i : Fin 10) (f : Chan → Chan) (c : Chip) : (c.onCh i f).mc = c.mc := rfl
@[simp] theorem onCh_nv (i : Fin 10) (f : Chan → Chan) (c : Chip) : (c.onCh i f).nv = c.nv := rfl
@[simp] theorem onCh_pair (i : Fin 10) (f : Chan → Chan) (c : Chip) : (c.onCh i f).pair = c.pair := rfl
@[simp] theorem onCh_comm (i : Fin 10) (f : Chan → Chan) (c : Chip) : (c.onCh i f).comm = c.comm := rfl
@[simp] theorem onCh_ad (i : Fin 10) (f : Chan → Chan) (c : Chip) : (c.onCh i f).ad = { c.ad with ch := upd c.ad.ch i f } := rfl
@[simp] theorem onCh_blow (i : Fin 10) (f : Chan → Chan) (c : Chip) : (c.onCh i f).blow = c.blow := rfl
@[simp] theorem onCh_sec (i : Fin 10) (f : Chan → Chan) (c : Chip) : (c.onCh i f).sec = c.sec := rfl
@[simp] theorem onCh_sk (i : Fin 10) (f : Chan → Chan) (c : Chip) : (c.onCh i f).sk = c.sk := rfl
@[simp] theorem onCh_ecc (i : Fin 10) (f : Chan → Chan) (c : Chip) : (c.onCh i f).ecc = c.ecc := rfl
@[simp] theorem onCh_tile (i : Fin 10) (f : Chan → Chan) (c : Chip) : (c.onCh i f).tile = c.tile := rfl
@[simp] theorem onCh_mesh (i : Fin 10) (f : Chan → Chan) (c : Chip) : (c.onCh i f).mesh = c.mesh := rfl
@[simp] theorem onCh_gmc (i : Fin 10) (f : Chan → Chan) (c : Chip) : (c.onCh i f).gmc = c.gmc := rfl
@[simp] theorem onCh_cxl (i : Fin 10) (f : Chan → Chan) (c : Chip) : (c.onCh i f).cxl = c.cxl := rfl
@[simp] theorem onCh_hif (i : Fin 10) (f : Chan → Chan) (c : Chip) : (c.onCh i f).hif = c.hif := rfl
@[simp] theorem onCh_str (i : Fin 10) (f : Chan → Chan) (c : Chip) : (c.onCh i f).str = c.str := rfl
@[simp] theorem onCh_dsq (i : Fin 10) (f : Chan → Chan) (c : Chip) : (c.onCh i f).dsq = c.dsq := rfl
@[simp] theorem onCh_seq (i : Fin 10) (f : Chan → Chan) (c : Chip) : (c.onCh i f).seq = c.seq := rfl
@[simp] theorem onCh_held (i : Fin 10) (f : Chan → Chan) (c : Chip) : (c.onCh i f).held = c.held := rfl
@[simp] theorem onCh_errs (i : Fin 10) (f : Chan → Chan) (c : Chip) : (c.onCh i f).errs = c.errs := rfl
@[simp] theorem onCh_sent (i : Fin 10) (f : Chan → Chan) (c : Chip) : (c.onCh i f).sent = c.sent := rfl
@[simp] theorem onCh_free (i : Fin 10) (f : Chan → Chan) (c : Chip) : (c.onCh i f).free = c.free := rfl
@[simp] theorem onCh_time (i : Fin 10) (f : Chan → Chan) (c : Chip) : (c.onCh i f).time = c.time := rfl

@[simp] theorem onMod_mod (f : Module → Module) (c : Chip) : (c.onMod f).mod = f c.mod := rfl
@[simp] theorem onMod_pins (f : Module → Module) (c : Chip) : (c.onMod f).pins = c.pins := rfl
@[simp] theorem onMod_pwr (f : Module → Module) (c : Chip) : (c.onMod f).pwr = c.pwr := rfl
@[simp] theorem onMod_recv (f : Module → Module) (c : Chip) : (c.onMod f).recv = c.recv := rfl
@[simp] theorem onMod_mc (f : Module → Module) (c : Chip) : (c.onMod f).mc = c.mc := rfl
@[simp] theorem onMod_nv (f : Module → Module) (c : Chip) : (c.onMod f).nv = c.nv := rfl
@[simp] theorem onMod_pair (f : Module → Module) (c : Chip) : (c.onMod f).pair = c.pair := rfl
@[simp] theorem onMod_comm (f : Module → Module) (c : Chip) : (c.onMod f).comm = c.comm := rfl
@[simp] theorem onMod_ad (f : Module → Module) (c : Chip) : (c.onMod f).ad = c.ad := rfl
@[simp] theorem onMod_blow (f : Module → Module) (c : Chip) : (c.onMod f).blow = c.blow := rfl
@[simp] theorem onMod_sec (f : Module → Module) (c : Chip) : (c.onMod f).sec = c.sec := rfl
@[simp] theorem onMod_sk (f : Module → Module) (c : Chip) : (c.onMod f).sk = c.sk := rfl
@[simp] theorem onMod_ecc (f : Module → Module) (c : Chip) : (c.onMod f).ecc = c.ecc := rfl
@[simp] theorem onMod_tile (f : Module → Module) (c : Chip) : (c.onMod f).tile = c.tile := rfl
@[simp] theorem onMod_mesh (f : Module → Module) (c : Chip) : (c.onMod f).mesh = c.mesh := rfl
@[simp] theorem onMod_gmc (f : Module → Module) (c : Chip) : (c.onMod f).gmc = c.gmc := rfl
@[simp] theorem onMod_cxl (f : Module → Module) (c : Chip) : (c.onMod f).cxl = c.cxl := rfl
@[simp] theorem onMod_hif (f : Module → Module) (c : Chip) : (c.onMod f).hif = c.hif := rfl
@[simp] theorem onMod_str (f : Module → Module) (c : Chip) : (c.onMod f).str = c.str := rfl
@[simp] theorem onMod_dsq (f : Module → Module) (c : Chip) : (c.onMod f).dsq = c.dsq := rfl
@[simp] theorem onMod_seq (f : Module → Module) (c : Chip) : (c.onMod f).seq = c.seq := rfl
@[simp] theorem onMod_held (f : Module → Module) (c : Chip) : (c.onMod f).held = c.held := rfl
@[simp] theorem onMod_errs (f : Module → Module) (c : Chip) : (c.onMod f).errs = c.errs := rfl
@[simp] theorem onMod_sent (f : Module → Module) (c : Chip) : (c.onMod f).sent = c.sent := rfl
@[simp] theorem onMod_free (f : Module → Module) (c : Chip) : (c.onMod f).free = c.free := rfl
@[simp] theorem onMod_time (f : Module → Module) (c : Chip) : (c.onMod f).time = c.time := rfl

@[simp] theorem onPwr_mod (f : Power → Power) (c : Chip) : (c.onPwr f).mod = c.mod := rfl
@[simp] theorem onPwr_pins (f : Power → Power) (c : Chip) : (c.onPwr f).pins = c.pins := rfl
@[simp] theorem onPwr_pwr (f : Power → Power) (c : Chip) : (c.onPwr f).pwr = f c.pwr := rfl
@[simp] theorem onPwr_recv (f : Power → Power) (c : Chip) : (c.onPwr f).recv = c.recv := rfl
@[simp] theorem onPwr_mc (f : Power → Power) (c : Chip) : (c.onPwr f).mc = c.mc := rfl
@[simp] theorem onPwr_nv (f : Power → Power) (c : Chip) : (c.onPwr f).nv = c.nv := rfl
@[simp] theorem onPwr_pair (f : Power → Power) (c : Chip) : (c.onPwr f).pair = c.pair := rfl
@[simp] theorem onPwr_comm (f : Power → Power) (c : Chip) : (c.onPwr f).comm = c.comm := rfl
@[simp] theorem onPwr_ad (f : Power → Power) (c : Chip) : (c.onPwr f).ad = c.ad := rfl
@[simp] theorem onPwr_blow (f : Power → Power) (c : Chip) : (c.onPwr f).blow = c.blow := rfl
@[simp] theorem onPwr_sec (f : Power → Power) (c : Chip) : (c.onPwr f).sec = c.sec := rfl
@[simp] theorem onPwr_sk (f : Power → Power) (c : Chip) : (c.onPwr f).sk = c.sk := rfl
@[simp] theorem onPwr_ecc (f : Power → Power) (c : Chip) : (c.onPwr f).ecc = c.ecc := rfl
@[simp] theorem onPwr_tile (f : Power → Power) (c : Chip) : (c.onPwr f).tile = c.tile := rfl
@[simp] theorem onPwr_mesh (f : Power → Power) (c : Chip) : (c.onPwr f).mesh = c.mesh := rfl
@[simp] theorem onPwr_gmc (f : Power → Power) (c : Chip) : (c.onPwr f).gmc = c.gmc := rfl
@[simp] theorem onPwr_cxl (f : Power → Power) (c : Chip) : (c.onPwr f).cxl = c.cxl := rfl
@[simp] theorem onPwr_hif (f : Power → Power) (c : Chip) : (c.onPwr f).hif = c.hif := rfl
@[simp] theorem onPwr_str (f : Power → Power) (c : Chip) : (c.onPwr f).str = c.str := rfl
@[simp] theorem onPwr_dsq (f : Power → Power) (c : Chip) : (c.onPwr f).dsq = c.dsq := rfl
@[simp] theorem onPwr_seq (f : Power → Power) (c : Chip) : (c.onPwr f).seq = c.seq := rfl
@[simp] theorem onPwr_held (f : Power → Power) (c : Chip) : (c.onPwr f).held = c.held := rfl
@[simp] theorem onPwr_errs (f : Power → Power) (c : Chip) : (c.onPwr f).errs = c.errs := rfl
@[simp] theorem onPwr_sent (f : Power → Power) (c : Chip) : (c.onPwr f).sent = c.sent := rfl
@[simp] theorem onPwr_free (f : Power → Power) (c : Chip) : (c.onPwr f).free = c.free := rfl
@[simp] theorem onPwr_time (f : Power → Power) (c : Chip) : (c.onPwr f).time = c.time := rfl

@[simp] theorem onPair_mod (f : Pair → Pair) (c : Chip) : (c.onPair f).mod = c.mod := rfl
@[simp] theorem onPair_pins (f : Pair → Pair) (c : Chip) : (c.onPair f).pins = c.pins := rfl
@[simp] theorem onPair_pwr (f : Pair → Pair) (c : Chip) : (c.onPair f).pwr = c.pwr := rfl
@[simp] theorem onPair_recv (f : Pair → Pair) (c : Chip) : (c.onPair f).recv = c.recv := rfl
@[simp] theorem onPair_mc (f : Pair → Pair) (c : Chip) : (c.onPair f).mc = c.mc := rfl
@[simp] theorem onPair_nv (f : Pair → Pair) (c : Chip) : (c.onPair f).nv = c.nv := rfl
@[simp] theorem onPair_pair (f : Pair → Pair) (c : Chip) : (c.onPair f).pair = f c.pair := rfl
@[simp] theorem onPair_comm (f : Pair → Pair) (c : Chip) : (c.onPair f).comm = c.comm := rfl
@[simp] theorem onPair_ad (f : Pair → Pair) (c : Chip) : (c.onPair f).ad = c.ad := rfl
@[simp] theorem onPair_blow (f : Pair → Pair) (c : Chip) : (c.onPair f).blow = c.blow := rfl
@[simp] theorem onPair_sec (f : Pair → Pair) (c : Chip) : (c.onPair f).sec = c.sec := rfl
@[simp] theorem onPair_sk (f : Pair → Pair) (c : Chip) : (c.onPair f).sk = c.sk := rfl
@[simp] theorem onPair_ecc (f : Pair → Pair) (c : Chip) : (c.onPair f).ecc = c.ecc := rfl
@[simp] theorem onPair_tile (f : Pair → Pair) (c : Chip) : (c.onPair f).tile = c.tile := rfl
@[simp] theorem onPair_mesh (f : Pair → Pair) (c : Chip) : (c.onPair f).mesh = c.mesh := rfl
@[simp] theorem onPair_gmc (f : Pair → Pair) (c : Chip) : (c.onPair f).gmc = c.gmc := rfl
@[simp] theorem onPair_cxl (f : Pair → Pair) (c : Chip) : (c.onPair f).cxl = c.cxl := rfl
@[simp] theorem onPair_hif (f : Pair → Pair) (c : Chip) : (c.onPair f).hif = c.hif := rfl
@[simp] theorem onPair_str (f : Pair → Pair) (c : Chip) : (c.onPair f).str = c.str := rfl
@[simp] theorem onPair_dsq (f : Pair → Pair) (c : Chip) : (c.onPair f).dsq = c.dsq := rfl
@[simp] theorem onPair_seq (f : Pair → Pair) (c : Chip) : (c.onPair f).seq = c.seq := rfl
@[simp] theorem onPair_held (f : Pair → Pair) (c : Chip) : (c.onPair f).held = c.held := rfl
@[simp] theorem onPair_errs (f : Pair → Pair) (c : Chip) : (c.onPair f).errs = c.errs := rfl
@[simp] theorem onPair_sent (f : Pair → Pair) (c : Chip) : (c.onPair f).sent = c.sent := rfl
@[simp] theorem onPair_free (f : Pair → Pair) (c : Chip) : (c.onPair f).free = c.free := rfl
@[simp] theorem onPair_time (f : Pair → Pair) (c : Chip) : (c.onPair f).time = c.time := rfl

@[simp] theorem onComm_mod (f : Comm → Comm) (c : Chip) : (c.onComm f).mod = c.mod := rfl
@[simp] theorem onComm_pins (f : Comm → Comm) (c : Chip) : (c.onComm f).pins = c.pins := rfl
@[simp] theorem onComm_pwr (f : Comm → Comm) (c : Chip) : (c.onComm f).pwr = c.pwr := rfl
@[simp] theorem onComm_recv (f : Comm → Comm) (c : Chip) : (c.onComm f).recv = c.recv := rfl
@[simp] theorem onComm_mc (f : Comm → Comm) (c : Chip) : (c.onComm f).mc = c.mc := rfl
@[simp] theorem onComm_nv (f : Comm → Comm) (c : Chip) : (c.onComm f).nv = c.nv := rfl
@[simp] theorem onComm_pair (f : Comm → Comm) (c : Chip) : (c.onComm f).pair = c.pair := rfl
@[simp] theorem onComm_comm (f : Comm → Comm) (c : Chip) : (c.onComm f).comm = f c.comm := rfl
@[simp] theorem onComm_ad (f : Comm → Comm) (c : Chip) : (c.onComm f).ad = c.ad := rfl
@[simp] theorem onComm_blow (f : Comm → Comm) (c : Chip) : (c.onComm f).blow = c.blow := rfl
@[simp] theorem onComm_sec (f : Comm → Comm) (c : Chip) : (c.onComm f).sec = c.sec := rfl
@[simp] theorem onComm_sk (f : Comm → Comm) (c : Chip) : (c.onComm f).sk = c.sk := rfl
@[simp] theorem onComm_ecc (f : Comm → Comm) (c : Chip) : (c.onComm f).ecc = c.ecc := rfl
@[simp] theorem onComm_tile (f : Comm → Comm) (c : Chip) : (c.onComm f).tile = c.tile := rfl
@[simp] theorem onComm_mesh (f : Comm → Comm) (c : Chip) : (c.onComm f).mesh = c.mesh := rfl
@[simp] theorem onComm_gmc (f : Comm → Comm) (c : Chip) : (c.onComm f).gmc = c.gmc := rfl
@[simp] theorem onComm_cxl (f : Comm → Comm) (c : Chip) : (c.onComm f).cxl = c.cxl := rfl
@[simp] theorem onComm_hif (f : Comm → Comm) (c : Chip) : (c.onComm f).hif = c.hif := rfl
@[simp] theorem onComm_str (f : Comm → Comm) (c : Chip) : (c.onComm f).str = c.str := rfl
@[simp] theorem onComm_dsq (f : Comm → Comm) (c : Chip) : (c.onComm f).dsq = c.dsq := rfl
@[simp] theorem onComm_seq (f : Comm → Comm) (c : Chip) : (c.onComm f).seq = c.seq := rfl
@[simp] theorem onComm_held (f : Comm → Comm) (c : Chip) : (c.onComm f).held = c.held := rfl
@[simp] theorem onComm_errs (f : Comm → Comm) (c : Chip) : (c.onComm f).errs = c.errs := rfl
@[simp] theorem onComm_sent (f : Comm → Comm) (c : Chip) : (c.onComm f).sent = c.sent := rfl
@[simp] theorem onComm_free (f : Comm → Comm) (c : Chip) : (c.onComm f).free = c.free := rfl
@[simp] theorem onComm_time (f : Comm → Comm) (c : Chip) : (c.onComm f).time = c.time := rfl

@[simp] theorem onSec_mod (f : Security → Security) (c : Chip) : (c.onSec f).mod = c.mod := rfl
@[simp] theorem onSec_pins (f : Security → Security) (c : Chip) : (c.onSec f).pins = c.pins := rfl
@[simp] theorem onSec_pwr (f : Security → Security) (c : Chip) : (c.onSec f).pwr = c.pwr := rfl
@[simp] theorem onSec_recv (f : Security → Security) (c : Chip) : (c.onSec f).recv = c.recv := rfl
@[simp] theorem onSec_mc (f : Security → Security) (c : Chip) : (c.onSec f).mc = c.mc := rfl
@[simp] theorem onSec_nv (f : Security → Security) (c : Chip) : (c.onSec f).nv = c.nv := rfl
@[simp] theorem onSec_pair (f : Security → Security) (c : Chip) : (c.onSec f).pair = c.pair := rfl
@[simp] theorem onSec_comm (f : Security → Security) (c : Chip) : (c.onSec f).comm = c.comm := rfl
@[simp] theorem onSec_ad (f : Security → Security) (c : Chip) : (c.onSec f).ad = c.ad := rfl
@[simp] theorem onSec_blow (f : Security → Security) (c : Chip) : (c.onSec f).blow = c.blow := rfl
@[simp] theorem onSec_sec (f : Security → Security) (c : Chip) : (c.onSec f).sec = f c.sec := rfl
@[simp] theorem onSec_sk (f : Security → Security) (c : Chip) : (c.onSec f).sk = c.sk := rfl
@[simp] theorem onSec_ecc (f : Security → Security) (c : Chip) : (c.onSec f).ecc = c.ecc := rfl
@[simp] theorem onSec_tile (f : Security → Security) (c : Chip) : (c.onSec f).tile = c.tile := rfl
@[simp] theorem onSec_mesh (f : Security → Security) (c : Chip) : (c.onSec f).mesh = c.mesh := rfl
@[simp] theorem onSec_gmc (f : Security → Security) (c : Chip) : (c.onSec f).gmc = c.gmc := rfl
@[simp] theorem onSec_cxl (f : Security → Security) (c : Chip) : (c.onSec f).cxl = c.cxl := rfl
@[simp] theorem onSec_hif (f : Security → Security) (c : Chip) : (c.onSec f).hif = c.hif := rfl
@[simp] theorem onSec_str (f : Security → Security) (c : Chip) : (c.onSec f).str = c.str := rfl
@[simp] theorem onSec_dsq (f : Security → Security) (c : Chip) : (c.onSec f).dsq = c.dsq := rfl
@[simp] theorem onSec_seq (f : Security → Security) (c : Chip) : (c.onSec f).seq = c.seq := rfl
@[simp] theorem onSec_held (f : Security → Security) (c : Chip) : (c.onSec f).held = c.held := rfl
@[simp] theorem onSec_errs (f : Security → Security) (c : Chip) : (c.onSec f).errs = c.errs := rfl
@[simp] theorem onSec_sent (f : Security → Security) (c : Chip) : (c.onSec f).sent = c.sent := rfl
@[simp] theorem onSec_free (f : Security → Security) (c : Chip) : (c.onSec f).free = c.free := rfl
@[simp] theorem onSec_time (f : Security → Security) (c : Chip) : (c.onSec f).time = c.time := rfl

@[simp] theorem onHif_mod (f : Hif → Hif) (c : Chip) : (c.onHif f).mod = c.mod := rfl
@[simp] theorem onHif_pins (f : Hif → Hif) (c : Chip) : (c.onHif f).pins = c.pins := rfl
@[simp] theorem onHif_pwr (f : Hif → Hif) (c : Chip) : (c.onHif f).pwr = c.pwr := rfl
@[simp] theorem onHif_recv (f : Hif → Hif) (c : Chip) : (c.onHif f).recv = c.recv := rfl
@[simp] theorem onHif_mc (f : Hif → Hif) (c : Chip) : (c.onHif f).mc = c.mc := rfl
@[simp] theorem onHif_nv (f : Hif → Hif) (c : Chip) : (c.onHif f).nv = c.nv := rfl
@[simp] theorem onHif_pair (f : Hif → Hif) (c : Chip) : (c.onHif f).pair = c.pair := rfl
@[simp] theorem onHif_comm (f : Hif → Hif) (c : Chip) : (c.onHif f).comm = c.comm := rfl
@[simp] theorem onHif_ad (f : Hif → Hif) (c : Chip) : (c.onHif f).ad = c.ad := rfl
@[simp] theorem onHif_blow (f : Hif → Hif) (c : Chip) : (c.onHif f).blow = c.blow := rfl
@[simp] theorem onHif_sec (f : Hif → Hif) (c : Chip) : (c.onHif f).sec = c.sec := rfl
@[simp] theorem onHif_sk (f : Hif → Hif) (c : Chip) : (c.onHif f).sk = c.sk := rfl
@[simp] theorem onHif_ecc (f : Hif → Hif) (c : Chip) : (c.onHif f).ecc = c.ecc := rfl
@[simp] theorem onHif_tile (f : Hif → Hif) (c : Chip) : (c.onHif f).tile = c.tile := rfl
@[simp] theorem onHif_mesh (f : Hif → Hif) (c : Chip) : (c.onHif f).mesh = c.mesh := rfl
@[simp] theorem onHif_gmc (f : Hif → Hif) (c : Chip) : (c.onHif f).gmc = c.gmc := rfl
@[simp] theorem onHif_cxl (f : Hif → Hif) (c : Chip) : (c.onHif f).cxl = c.cxl := rfl
@[simp] theorem onHif_hif (f : Hif → Hif) (c : Chip) : (c.onHif f).hif = f c.hif := rfl
@[simp] theorem onHif_str (f : Hif → Hif) (c : Chip) : (c.onHif f).str = c.str := rfl
@[simp] theorem onHif_dsq (f : Hif → Hif) (c : Chip) : (c.onHif f).dsq = c.dsq := rfl
@[simp] theorem onHif_seq (f : Hif → Hif) (c : Chip) : (c.onHif f).seq = c.seq := rfl
@[simp] theorem onHif_held (f : Hif → Hif) (c : Chip) : (c.onHif f).held = c.held := rfl
@[simp] theorem onHif_errs (f : Hif → Hif) (c : Chip) : (c.onHif f).errs = c.errs := rfl
@[simp] theorem onHif_sent (f : Hif → Hif) (c : Chip) : (c.onHif f).sent = c.sent := rfl
@[simp] theorem onHif_free (f : Hif → Hif) (c : Chip) : (c.onHif f).free = c.free := rfl
@[simp] theorem onHif_time (f : Hif → Hif) (c : Chip) : (c.onHif f).time = c.time := rfl

@[simp] theorem onPort_mod (i : Fin 2) (f : Port → Port) (c : Chip) : (c.onPort i f).mod = c.mod := rfl
@[simp] theorem onPort_pins (i : Fin 2) (f : Port → Port) (c : Chip) : (c.onPort i f).pins = c.pins := rfl
@[simp] theorem onPort_pwr (i : Fin 2) (f : Port → Port) (c : Chip) : (c.onPort i f).pwr = c.pwr := rfl
@[simp] theorem onPort_recv (i : Fin 2) (f : Port → Port) (c : Chip) : (c.onPort i f).recv = c.recv := rfl
@[simp] theorem onPort_mc (i : Fin 2) (f : Port → Port) (c : Chip) : (c.onPort i f).mc = c.mc := rfl
@[simp] theorem onPort_nv (i : Fin 2) (f : Port → Port) (c : Chip) : (c.onPort i f).nv = c.nv := rfl
@[simp] theorem onPort_pair (i : Fin 2) (f : Port → Port) (c : Chip) : (c.onPort i f).pair = c.pair := rfl
@[simp] theorem onPort_comm (i : Fin 2) (f : Port → Port) (c : Chip) : (c.onPort i f).comm = c.comm := rfl
@[simp] theorem onPort_ad (i : Fin 2) (f : Port → Port) (c : Chip) : (c.onPort i f).ad = c.ad := rfl
@[simp] theorem onPort_blow (i : Fin 2) (f : Port → Port) (c : Chip) : (c.onPort i f).blow = c.blow := rfl
@[simp] theorem onPort_sec (i : Fin 2) (f : Port → Port) (c : Chip) : (c.onPort i f).sec = c.sec := rfl
@[simp] theorem onPort_sk (i : Fin 2) (f : Port → Port) (c : Chip) : (c.onPort i f).sk = c.sk := rfl
@[simp] theorem onPort_ecc (i : Fin 2) (f : Port → Port) (c : Chip) : (c.onPort i f).ecc = c.ecc := rfl
@[simp] theorem onPort_tile (i : Fin 2) (f : Port → Port) (c : Chip) : (c.onPort i f).tile = c.tile := rfl
@[simp] theorem onPort_mesh (i : Fin 2) (f : Port → Port) (c : Chip) : (c.onPort i f).mesh = c.mesh := rfl
@[simp] theorem onPort_gmc (i : Fin 2) (f : Port → Port) (c : Chip) : (c.onPort i f).gmc = c.gmc := rfl
@[simp] theorem onPort_cxl (i : Fin 2) (f : Port → Port) (c : Chip) : (c.onPort i f).cxl = c.cxl := rfl
@[simp] theorem onPort_hif (i : Fin 2) (f : Port → Port) (c : Chip) : (c.onPort i f).hif = { c.hif with port := upd c.hif.port i f } := rfl
@[simp] theorem onPort_str (i : Fin 2) (f : Port → Port) (c : Chip) : (c.onPort i f).str = c.str := rfl
@[simp] theorem onPort_dsq (i : Fin 2) (f : Port → Port) (c : Chip) : (c.onPort i f).dsq = c.dsq := rfl
@[simp] theorem onPort_seq (i : Fin 2) (f : Port → Port) (c : Chip) : (c.onPort i f).seq = c.seq := rfl
@[simp] theorem onPort_held (i : Fin 2) (f : Port → Port) (c : Chip) : (c.onPort i f).held = c.held := rfl
@[simp] theorem onPort_errs (i : Fin 2) (f : Port → Port) (c : Chip) : (c.onPort i f).errs = c.errs := rfl
@[simp] theorem onPort_sent (i : Fin 2) (f : Port → Port) (c : Chip) : (c.onPort i f).sent = c.sent := rfl
@[simp] theorem onPort_free (i : Fin 2) (f : Port → Port) (c : Chip) : (c.onPort i f).free = c.free := rfl
@[simp] theorem onPort_time (i : Fin 2) (f : Port → Port) (c : Chip) : (c.onPort i f).time = c.time := rfl

@[simp] theorem onPlan_mod (i : Fin 16) (f : Plan → Plan) (c : Chip) : (c.onPlan i f).mod = c.mod := rfl
@[simp] theorem onPlan_pins (i : Fin 16) (f : Plan → Plan) (c : Chip) : (c.onPlan i f).pins = c.pins := rfl
@[simp] theorem onPlan_pwr (i : Fin 16) (f : Plan → Plan) (c : Chip) : (c.onPlan i f).pwr = c.pwr := rfl
@[simp] theorem onPlan_recv (i : Fin 16) (f : Plan → Plan) (c : Chip) : (c.onPlan i f).recv = c.recv := rfl
@[simp] theorem onPlan_mc (i : Fin 16) (f : Plan → Plan) (c : Chip) : (c.onPlan i f).mc = c.mc := rfl
@[simp] theorem onPlan_nv (i : Fin 16) (f : Plan → Plan) (c : Chip) : (c.onPlan i f).nv = c.nv := rfl
@[simp] theorem onPlan_pair (i : Fin 16) (f : Plan → Plan) (c : Chip) : (c.onPlan i f).pair = c.pair := rfl
@[simp] theorem onPlan_comm (i : Fin 16) (f : Plan → Plan) (c : Chip) : (c.onPlan i f).comm = c.comm := rfl
@[simp] theorem onPlan_ad (i : Fin 16) (f : Plan → Plan) (c : Chip) : (c.onPlan i f).ad = c.ad := rfl
@[simp] theorem onPlan_blow (i : Fin 16) (f : Plan → Plan) (c : Chip) : (c.onPlan i f).blow = c.blow := rfl
@[simp] theorem onPlan_sec (i : Fin 16) (f : Plan → Plan) (c : Chip) : (c.onPlan i f).sec = c.sec := rfl
@[simp] theorem onPlan_sk (i : Fin 16) (f : Plan → Plan) (c : Chip) : (c.onPlan i f).sk = c.sk := rfl
@[simp] theorem onPlan_ecc (i : Fin 16) (f : Plan → Plan) (c : Chip) : (c.onPlan i f).ecc = c.ecc := rfl
@[simp] theorem onPlan_tile (i : Fin 16) (f : Plan → Plan) (c : Chip) : (c.onPlan i f).tile = c.tile := rfl
@[simp] theorem onPlan_mesh (i : Fin 16) (f : Plan → Plan) (c : Chip) : (c.onPlan i f).mesh = c.mesh := rfl
@[simp] theorem onPlan_gmc (i : Fin 16) (f : Plan → Plan) (c : Chip) : (c.onPlan i f).gmc = c.gmc := rfl
@[simp] theorem onPlan_cxl (i : Fin 16) (f : Plan → Plan) (c : Chip) : (c.onPlan i f).cxl = c.cxl := rfl
@[simp] theorem onPlan_hif (i : Fin 16) (f : Plan → Plan) (c : Chip) : (c.onPlan i f).hif = { c.hif with plans := upd c.hif.plans i f } := rfl
@[simp] theorem onPlan_str (i : Fin 16) (f : Plan → Plan) (c : Chip) : (c.onPlan i f).str = c.str := rfl
@[simp] theorem onPlan_dsq (i : Fin 16) (f : Plan → Plan) (c : Chip) : (c.onPlan i f).dsq = c.dsq := rfl
@[simp] theorem onPlan_seq (i : Fin 16) (f : Plan → Plan) (c : Chip) : (c.onPlan i f).seq = c.seq := rfl
@[simp] theorem onPlan_held (i : Fin 16) (f : Plan → Plan) (c : Chip) : (c.onPlan i f).held = c.held := rfl
@[simp] theorem onPlan_errs (i : Fin 16) (f : Plan → Plan) (c : Chip) : (c.onPlan i f).errs = c.errs := rfl
@[simp] theorem onPlan_sent (i : Fin 16) (f : Plan → Plan) (c : Chip) : (c.onPlan i f).sent = c.sent := rfl
@[simp] theorem onPlan_free (i : Fin 16) (f : Plan → Plan) (c : Chip) : (c.onPlan i f).free = c.free := rfl
@[simp] theorem onPlan_time (i : Fin 16) (f : Plan → Plan) (c : Chip) : (c.onPlan i f).time = c.time := rfl

@[simp] theorem onGmc_mod (f : Gmc → Gmc) (c : Chip) : (c.onGmc f).mod = c.mod := rfl
@[simp] theorem onGmc_pins (f : Gmc → Gmc) (c : Chip) : (c.onGmc f).pins = c.pins := rfl
@[simp] theorem onGmc_pwr (f : Gmc → Gmc) (c : Chip) : (c.onGmc f).pwr = c.pwr := rfl
@[simp] theorem onGmc_recv (f : Gmc → Gmc) (c : Chip) : (c.onGmc f).recv = c.recv := rfl
@[simp] theorem onGmc_mc (f : Gmc → Gmc) (c : Chip) : (c.onGmc f).mc = c.mc := rfl
@[simp] theorem onGmc_nv (f : Gmc → Gmc) (c : Chip) : (c.onGmc f).nv = c.nv := rfl
@[simp] theorem onGmc_pair (f : Gmc → Gmc) (c : Chip) : (c.onGmc f).pair = c.pair := rfl
@[simp] theorem onGmc_comm (f : Gmc → Gmc) (c : Chip) : (c.onGmc f).comm = c.comm := rfl
@[simp] theorem onGmc_ad (f : Gmc → Gmc) (c : Chip) : (c.onGmc f).ad = c.ad := rfl
@[simp] theorem onGmc_blow (f : Gmc → Gmc) (c : Chip) : (c.onGmc f).blow = c.blow := rfl
@[simp] theorem onGmc_sec (f : Gmc → Gmc) (c : Chip) : (c.onGmc f).sec = c.sec := rfl
@[simp] theorem onGmc_sk (f : Gmc → Gmc) (c : Chip) : (c.onGmc f).sk = c.sk := rfl
@[simp] theorem onGmc_ecc (f : Gmc → Gmc) (c : Chip) : (c.onGmc f).ecc = c.ecc := rfl
@[simp] theorem onGmc_tile (f : Gmc → Gmc) (c : Chip) : (c.onGmc f).tile = c.tile := rfl
@[simp] theorem onGmc_mesh (f : Gmc → Gmc) (c : Chip) : (c.onGmc f).mesh = c.mesh := rfl
@[simp] theorem onGmc_gmc (f : Gmc → Gmc) (c : Chip) : (c.onGmc f).gmc = f c.gmc := rfl
@[simp] theorem onGmc_cxl (f : Gmc → Gmc) (c : Chip) : (c.onGmc f).cxl = c.cxl := rfl
@[simp] theorem onGmc_hif (f : Gmc → Gmc) (c : Chip) : (c.onGmc f).hif = c.hif := rfl
@[simp] theorem onGmc_str (f : Gmc → Gmc) (c : Chip) : (c.onGmc f).str = c.str := rfl
@[simp] theorem onGmc_dsq (f : Gmc → Gmc) (c : Chip) : (c.onGmc f).dsq = c.dsq := rfl
@[simp] theorem onGmc_seq (f : Gmc → Gmc) (c : Chip) : (c.onGmc f).seq = c.seq := rfl
@[simp] theorem onGmc_held (f : Gmc → Gmc) (c : Chip) : (c.onGmc f).held = c.held := rfl
@[simp] theorem onGmc_errs (f : Gmc → Gmc) (c : Chip) : (c.onGmc f).errs = c.errs := rfl
@[simp] theorem onGmc_sent (f : Gmc → Gmc) (c : Chip) : (c.onGmc f).sent = c.sent := rfl
@[simp] theorem onGmc_free (f : Gmc → Gmc) (c : Chip) : (c.onGmc f).free = c.free := rfl
@[simp] theorem onGmc_time (f : Gmc → Gmc) (c : Chip) : (c.onGmc f).time = c.time := rfl

@[simp] theorem onDev_mod (i : Fin 24) (f : Gddr → Gddr) (c : Chip) : (c.onDev i f).mod = c.mod := rfl
@[simp] theorem onDev_pins (i : Fin 24) (f : Gddr → Gddr) (c : Chip) : (c.onDev i f).pins = c.pins := rfl
@[simp] theorem onDev_pwr (i : Fin 24) (f : Gddr → Gddr) (c : Chip) : (c.onDev i f).pwr = c.pwr := rfl
@[simp] theorem onDev_recv (i : Fin 24) (f : Gddr → Gddr) (c : Chip) : (c.onDev i f).recv = c.recv := rfl
@[simp] theorem onDev_mc (i : Fin 24) (f : Gddr → Gddr) (c : Chip) : (c.onDev i f).mc = c.mc := rfl
@[simp] theorem onDev_nv (i : Fin 24) (f : Gddr → Gddr) (c : Chip) : (c.onDev i f).nv = c.nv := rfl
@[simp] theorem onDev_pair (i : Fin 24) (f : Gddr → Gddr) (c : Chip) : (c.onDev i f).pair = c.pair := rfl
@[simp] theorem onDev_comm (i : Fin 24) (f : Gddr → Gddr) (c : Chip) : (c.onDev i f).comm = c.comm := rfl
@[simp] theorem onDev_ad (i : Fin 24) (f : Gddr → Gddr) (c : Chip) : (c.onDev i f).ad = c.ad := rfl
@[simp] theorem onDev_blow (i : Fin 24) (f : Gddr → Gddr) (c : Chip) : (c.onDev i f).blow = c.blow := rfl
@[simp] theorem onDev_sec (i : Fin 24) (f : Gddr → Gddr) (c : Chip) : (c.onDev i f).sec = c.sec := rfl
@[simp] theorem onDev_sk (i : Fin 24) (f : Gddr → Gddr) (c : Chip) : (c.onDev i f).sk = c.sk := rfl
@[simp] theorem onDev_ecc (i : Fin 24) (f : Gddr → Gddr) (c : Chip) : (c.onDev i f).ecc = c.ecc := rfl
@[simp] theorem onDev_tile (i : Fin 24) (f : Gddr → Gddr) (c : Chip) : (c.onDev i f).tile = c.tile := rfl
@[simp] theorem onDev_mesh (i : Fin 24) (f : Gddr → Gddr) (c : Chip) : (c.onDev i f).mesh = c.mesh := rfl
@[simp] theorem onDev_gmc (i : Fin 24) (f : Gddr → Gddr) (c : Chip) : (c.onDev i f).gmc = { c.gmc with dev := upd c.gmc.dev i f } := rfl
@[simp] theorem onDev_cxl (i : Fin 24) (f : Gddr → Gddr) (c : Chip) : (c.onDev i f).cxl = c.cxl := rfl
@[simp] theorem onDev_hif (i : Fin 24) (f : Gddr → Gddr) (c : Chip) : (c.onDev i f).hif = c.hif := rfl
@[simp] theorem onDev_str (i : Fin 24) (f : Gddr → Gddr) (c : Chip) : (c.onDev i f).str = c.str := rfl
@[simp] theorem onDev_dsq (i : Fin 24) (f : Gddr → Gddr) (c : Chip) : (c.onDev i f).dsq = c.dsq := rfl
@[simp] theorem onDev_seq (i : Fin 24) (f : Gddr → Gddr) (c : Chip) : (c.onDev i f).seq = c.seq := rfl
@[simp] theorem onDev_held (i : Fin 24) (f : Gddr → Gddr) (c : Chip) : (c.onDev i f).held = c.held := rfl
@[simp] theorem onDev_errs (i : Fin 24) (f : Gddr → Gddr) (c : Chip) : (c.onDev i f).errs = c.errs := rfl
@[simp] theorem onDev_sent (i : Fin 24) (f : Gddr → Gddr) (c : Chip) : (c.onDev i f).sent = c.sent := rfl
@[simp] theorem onDev_free (i : Fin 24) (f : Gddr → Gddr) (c : Chip) : (c.onDev i f).free = c.free := rfl
@[simp] theorem onDev_time (i : Fin 24) (f : Gddr → Gddr) (c : Chip) : (c.onDev i f).time = c.time := rfl

@[simp] theorem send_act (m : Msg) (c : Chip) : (c.send m).act = c.act := rfl
@[simp] theorem draw_act (c : Chip) : (c.draw).act = c.act := rfl
@[simp] theorem onMc_act (i : Fin 2) (f : Ctrl → Ctrl) (c : Chip) : (c.onMc i f).act = c.act := rfl
@[simp] theorem onNv_act (i : Fin 2) (f : CtrlNv → CtrlNv) (c : Chip) : (c.onNv i f).act = c.act := rfl
@[simp] theorem onSk_act (i : Fin 16) (f : Skerry → Skerry) (c : Chip) : (c.onSk i f).act = c.act := rfl
@[simp] theorem onEcc_act (i : Fin 16) (f : SramEcc → SramEcc) (c : Chip) : (c.onEcc i f).act = c.act := rfl
@[simp] theorem onTile_act (i : Fin 1024) (f : Tile → Tile) (c : Chip) : (c.onTile i f).act = c.act := rfl
@[simp] theorem onCh_act (i : Fin 10) (f : Chan → Chan) (c : Chip) : (c.onCh i f).act = c.act := rfl
@[simp] theorem onMod_act (f : Module → Module) (c : Chip) : (c.onMod f).act = c.act := rfl
@[simp] theorem onPwr_act (f : Power → Power) (c : Chip) : (c.onPwr f).act = c.act := rfl
@[simp] theorem onComm_act (f : Comm → Comm) (c : Chip) : (c.onComm f).act = c.act := rfl
@[simp] theorem onSec_act (f : Security → Security) (c : Chip) : (c.onSec f).act = c.act := rfl
@[simp] theorem onHif_act (f : Hif → Hif) (c : Chip) : (c.onHif f).act = c.act := rfl
@[simp] theorem onPort_act (i : Fin 2) (f : Port → Port) (c : Chip) : (c.onPort i f).act = c.act := rfl
@[simp] theorem onPlan_act (i : Fin 16) (f : Plan → Plan) (c : Chip) : (c.onPlan i f).act = c.act := rfl
@[simp] theorem onGmc_act (f : Gmc → Gmc) (c : Chip) : (c.onGmc f).act = c.act := rfl
@[simp] theorem onDev_act (i : Fin 24) (f : Gddr → Gddr) (c : Chip) : (c.onDev i f).act = c.act := rfl

/-- The serving controller depends on the pair's active controller alone. -/
theorem act_eq {c d : Chip} (h : d.pair.active = c.pair.active) (g : d.pair.handover = c.pair.handover) : d.act = c.act := by simp [act, h, g]

end Chip

@[simp] theorem on_chip (f : Chip → Chip) (m : Mach) : (m.on f).chip = f m.chip := rfl
@[simp] theorem on_mem (f : Chip → Chip) (m : Mach) : (m.on f).mem = m.mem := rfl
@[simp] theorem on_poison (f : Chip → Chip) (m : Mach) : (m.on f).poison = m.poison := rfl

@[simp] theorem upd_self {α : Type} {n : Nat} (v : Vector α n) (i : Fin n) (f : α → α) : (upd v i f)[i.val]'i.isLt = f v[i] := by simp [upd]
theorem upd_at {α : Type} {n : Nat} (v : Vector α n) (i : Fin n) (f : α → α) : (upd v i f)[i] = f v[i] := by simp
theorem upd_other {α : Type} {n : Nat} (v : Vector α n) (i j : Fin n) (f : α → α) (h : i ≠ j) :
    (upd v i f)[j.val]'j.isLt = v[j] := by
  simp only [upd, Fin.getElem_fin]
  rw [Vector.getElem_set_ne]
  intro e; exact h (Fin.ext e)
@[simp] theorem vput_self {α : Type} {n : Nat} (v : Vector α n) (i : Fin n) (x : α) : (vput v i x)[i.val]'i.isLt = x := by simp [vput]
theorem vput_other {α : Type} {n : Nat} (v : Vector α n) (i j : Fin n) (x : α) (h : i ≠ j) :
    (vput v i x)[j.val]'j.isLt = v[j] := by
  simp only [vput, Fin.getElem_fin]
  rw [Vector.getElem_set_ne]
  intro e; exact h (Fin.ext e)
@[simp] theorem updAll_get {α : Type} {n : Nat} (v : Vector α n) (f : Fin n → α → α) (i : Fin n) :
    (updAll v f)[i.val]'i.isLt = f i v[i] := by simp [updAll]
theorem other_ne (i : Fin 2) : other i ≠ i := by revert i; decide

end Sys2Proof.Machine
end

