-- ==== Sys2Proof/Laws/Ops.lean ====
section
/-!
SUPPORT. What each shared operation can change: one lemma for each, which says that the result is the chip with only the parts named there replaced.
-/
namespace Sys2Proof.Machine
namespace Chip

/-- A fold of operations that each change only what `P` allows changes only that. -/
theorem each_only {α β : Type} (put : β → Chip → Chip) (get : Chip → β) (hp : ∀ b c, get (put b c) = b) (hpp : ∀ a b c, put a (put b c) = put a c)
    (hg : ∀ c, put (get c) c = c) (f : α → Chip → Chip) (hf : ∀ a c, ∃ b, f a c = put b c) :
    ∀ (l : List α) (c : Chip), ∃ b, each l f c = put b c
  | [], c => ⟨get c, by simp [each, hg]⟩
  | a :: l, c => by
    obtain ⟨b, hb⟩ := hf a c
    obtain ⟨b', h'⟩ := each_only put get hp hpp hg f hf l (f a c)
    exact ⟨b', by simp only [each, List.foldl_cons] at h' ⊢; rw [h', hb, hpp]⟩

theorem logAt_only (i : Fin 2) (cls code source : Nat) (data : Bytes) (role : Nat) (c : Chip) :
    ∃ nv, c.logAt i cls code source data role = { c with nv := nv } := by
  unfold logAt; split
  · exact ⟨_, rfl⟩
  · exact ⟨c.nv, rfl⟩

theorem logBoth_only (cls code source : Nat) (data : Bytes) (c : Chip) : ∃ nv, c.logBoth cls code source data = { c with nv := nv } := by
  obtain ⟨n, h⟩ := logAt_only 0 cls code source data 0xF c
  obtain ⟨n', h'⟩ := logAt_only 1 cls code source data 0xF { c with nv := n }
  exact ⟨n', by rw [logBoth, h, h']⟩

theorem logAccess_only (code source : Nat) (data : Bytes) (role : Nat) (c : Chip) : ∃ nv, c.logAccess code source data role = { c with nv := nv } :=
  logAt_only ..

theorem logConfig_only (code source : Nat) (data : Bytes) (role : Nat) (c : Chip) : ∃ nv, c.logConfig code source data role = { c with nv := nv } := by
  obtain ⟨n, h⟩ := logAt_only c.act 4 code source data role c
  unfold logConfig; split
  · obtain ⟨n', h'⟩ := logAt_only (other c.act) 4 code source data role { c with nv := n }
    exact ⟨n', by simp only [h]; rw [h']⟩
  · exact ⟨n, h⟩

theorem emcyEvent_only (code src cause value : Nat) (c : Chip) :
    ∃ nv comm, c.emcyEvent code src cause value = { c with nv := nv, comm := comm } := by
  obtain ⟨n, h⟩ := logBoth_only (if code = 0xFF01 ∨ code = 0xFF02 ∨ code = 0xFF10 ∨ code = 0xFF11 ∨ code = 0x4210 then 2 else 1) 0x0110 0
    (bytesLe 2 code ++ bytesLe 1 src ++ bytesLe 1 cause ++ bytesLe 2 value) c
  unfold emcyEvent emcyLog
  simp only [h]
  split
  · exact ⟨_, _, rfl⟩
  · exact ⟨_, _, rfl⟩

theorem condRaise_only (code src cause value : Nat) (c : Chip) :
    ∃ nv comm, c.condRaise code src cause value = { c with nv := nv, comm := comm } := by
  obtain ⟨n, h⟩ := logBoth_only (if code = 0xFF01 ∨ code = 0xFF02 ∨ code = 0xFF10 ∨ code = 0xFF11 ∨ code = 0x4210 then 2 else 1) 0x0110 0
    (bytesLe 2 code ++ bytesLe 1 src ++ bytesLe 1 cause ++ bytesLe 2 value) c
  unfold condRaise emcyLog
  simp only [h]
  split
  · exact ⟨c.nv, c.comm, rfl⟩
  · split
    · exact ⟨_, _, rfl⟩
    · exact ⟨_, _, rfl⟩

theorem condClear_only (code src : Nat) (c : Chip) : ∃ nv comm, c.condClear code src = { c with nv := nv, comm := comm } := by
  unfold condClear
  split
  · exact ⟨c.nv, c.comm, rfl⟩
  · rename_i x _
    obtain ⟨n, h⟩ := logBoth_only (if code = 0xFF01 ∨ code = 0xFF02 ∨ code = 0xFF10 ∨ code = 0xFF11 ∨ code = 0x4210 then 2 else 1) 0x0110 0
      (bytesLe 2 code ++ bytesLe 1 src ++ bytesLe 1 x.cause ++ bytesLe 2 x.value) c
    unfold emcyLog
    simp only [h]
    split
    · exact ⟨_, _, rfl⟩
    · exact ⟨_, _, rfl⟩

theorem condSet_only (on : Bool) (code src cause value : Nat) (c : Chip) :
    ∃ nv comm, c.condSet on code src cause value = { c with nv := nv, comm := comm } := by
  unfold condSet; split
  · exact condRaise_only ..
  · exact condClear_only ..

theorem emcyFlush_only (c : Chip) : ∃ comm, c.emcyFlush = { c with comm := comm } := by
  unfold emcyFlush; split
  · obtain ⟨q, h⟩ := each_only (fun (b : Comm) d => { d with comm := b }) Chip.comm (fun _ _ => rfl) (fun _ _ _ => rfl) (fun _ => rfl)
      (fun (x : Cond) (d : Chip) => d.emcyQueue ⟨x.code, x.src, x.cause, x.value⟩) (fun _ _ => ⟨_, rfl⟩) (c.comm.conds.filter (fun x => !x.sent))
      (c.onComm fun m => { m with conds := m.conds.map (fun x => { x with sent := true }) })
    exact ⟨q, by simp only [h]; rfl⟩
  · exact ⟨c.comm, rfl⟩

theorem pairEvent_only (code : Nat) (i : Fin 2) (c : Chip) :
    ∃ nv comm pair, c.pairEvent code i = { c with nv := nv, comm := comm, pair := pair } := by
  unfold pairEvent
  dsimp only
  have hp : ∃ p, (c.onPair fun p => { p with hostSerial := (c.pair.hostSerial + 1) % 256, hostQ := p.hostQ ++
      [BitVec.ofNat 16 ((c.pair.hostSerial + 1) % 256 * 256 + i.val * 128 + code)] }) = { c with pair := p } := ⟨_, rfl⟩
  obtain ⟨p, hp⟩ := hp
  rw [hp]
  obtain ⟨n, q, h⟩ := emcyEvent_only (0x8700 + code) i.val code 0 { c with pair := p }
  obtain ⟨n', h'⟩ := logBoth_only 2 0x0130 i.val (bytesLe 1 code) { c with pair := p, nv := n, comm := q }
  exact ⟨n', q, p, by rw [h, h']⟩

theorem endCmd_only (id status result : Nat) (c : Chip) : ∃ hif, c.endCmd id status result = { c with hif := hif } := by
  unfold endCmd; split
  · split
    · exact ⟨_, rfl⟩
    · exact ⟨_, rfl⟩
  · exact ⟨c.hif, rfl⟩

theorem onPort_only (p : Fin 2) (f : Port → Port) (c : Chip) : ∃ hif, c.onPort p f = { c with hif := hif } := ⟨_, rfl⟩

theorem deliverEvent_only (p : Fin 2) (id w : Nat) (c : Chip) : ∃ hif, c.deliverEvent p id w = { c with hif := hif } := by
  obtain ⟨h, e⟩ := endCmd_only id 0 (w + (if c.hif.port[p].evLost then 2 ^ 27 else 0)) (c.onPort p fun x => { x with evLost := false })
  exact ⟨h, by rw [deliverEvent, e]; rfl⟩

theorem postEvent_only (p : Fin 2) (w : Nat) (c : Chip) : ∃ hif, c.postEvent p w = { c with hif := hif } := by
  simp only [postEvent]
  split
  · rename_i id rest _
    split
    · obtain ⟨h, e⟩ := deliverEvent_only p id w (c.onPort p fun x => { x with evReq := rest })
      exact ⟨h, by rw [e]; rfl⟩
    · exact onPort_only ..
  · exact onPort_only ..

theorem postBoth_only (w : Nat) (c : Chip) : ∃ hif, c.postBoth w = { c with hif := hif } := by
  unfold postBoth; split
  · obtain ⟨a, ha⟩ := postEvent_only 0 w c
    obtain ⟨b, hb⟩ := postEvent_only 1 w { c with hif := a }
    exact ⟨b, by rw [ha, hb]⟩
  · exact ⟨c.hif, rfl⟩

theorem endRoles_only (p : Client → Bool) (reason : Nat) (c : Chip) :
    ∃ nv, c.endRoles p reason = { c with nv := nv, sec := { c.sec with roles := c.sec.roles.filter (fun r => !p r.client) } } := by
  unfold endRoles
  obtain ⟨n, h⟩ := each_only (fun (b : Vector CtrlNv 2) d => { d with nv := b }) Chip.nv (fun _ _ => rfl) (fun _ _ _ => rfl) (fun _ => rfl)
    (fun (r : RoleHold) (d : Chip) => d.logAccess 0x0211 (srcOf r.client) (bytesLe 1 r.role ++ bytesLe 1 reason) r.role)
    (fun _ _ => logAccess_only ..) (c.sec.roles.filter (fun r => p r.client)) (c.onSec fun s => { s with roles := s.roles.filter (fun r => !p r.client) })
  exact ⟨n, by rw [h]; rfl⟩

theorem endSpdm_only (p : Client → Bool) (c : Chip) :
    ∃ nv, c.endSpdm p = { c with nv := nv, sec := { c.sec with spdm := c.sec.spdm.filter (fun x => !p x.client) } } := by
  unfold endSpdm
  obtain ⟨n, h⟩ := each_only (fun (b : Vector CtrlNv 2) d => { d with nv := b }) Chip.nv (fun _ _ => rfl) (fun _ _ _ => rfl) (fun _ => rfl)
    (fun (x : SpdmConn) (d : Chip) => d.logAccess 0x0220 (srcOf x.client) (bytesLe 1 2 ++ bytesLe 1 (x.session.getD 0)) 0xF)
    (fun _ _ => logAccess_only ..) (c.sec.spdm.filter (fun x => p x.client && x.established))
    (c.onSec fun s => { s with spdm := s.spdm.filter (fun x => !p x.client) })
  exact ⟨n, by rw [h]; rfl⟩

theorem abortUpdate_only (c : Chip) : ∃ nv, c.abortUpdate = { c with nv := nv, sec := { c.sec with update := none } } := by
  unfold abortUpdate; split
  · rename_i u _
    obtain ⟨n, h⟩ := logConfig_only 0x0230 (srcOf u.agent) (bytesLe 1 6 ++ bytesLe 1 (u.comp.getD 0) ++ bytesLe 4 u.version) 0xF
      (c.onSec fun s => { s with update := none })
    exact ⟨n, by rw [h]; rfl⟩
  · rename_i h
    exact ⟨c.nv, by rw [← h]⟩

theorem touch_only (cl : Client) (c : Chip) : ∃ roles, c.touch cl = { c with sec := { c.sec with roles := roles } } := ⟨_, rfl⟩

theorem find_touched (x : Client) (f : RoleHold → RoleHold) (hf : ∀ r, (f r).client = r.client ∧ (f r).role = r.role) :
    ∀ l : List RoleHold, ((l.map f).find? (fun r => decide (r.client = x))).map RoleHold.role = (l.find? (fun r => decide (r.client = x))).map RoleHold.role
  | [] => rfl
  | r :: l => by
    have ih := find_touched x f hf l
    simp only [List.map_cons, List.find?_cons, (hf r).1]
    split
    · simp [(hf r).2]
    · exact ih

/-- An access by a client leaves every client's role. -/
theorem roleOfClient_touch (cl x : Client) (c : Chip) : (c.touch cl).roleOfClient x = c.roleOfClient x := by
  have h := find_touched x (fun r => if r.client = cl then { r with at' := c.time } else r) (by intro r; split <;> exact ⟨rfl, rfl⟩) c.sec.roles
  have e : (c.touch cl).sec.roles = c.sec.roles.map (fun r => if r.client = cl then { r with at' := c.time } else r) := rfl
  unfold roleOfClient
  rw [e]
  revert h
  cases (c.sec.roles.map (fun r => if r.client = cl then { r with at' := c.time } else r)).find? (fun r => decide (r.client = x)) <;>
    cases c.sec.roles.find? (fun r => decide (r.client = x)) <;> simp
  intro h; rw [h]; rfl

theorem acceptLog_only (cl : Client) (i s v role : Nat) (c : Chip) : ∃ nv, c.acceptLog cl i s v role = { c with nv := nv } := by
  unfold acceptLog; split
  · exact logConfig_only ..
  · exact ⟨c.nv, rfl⟩

theorem refuseLog_only (cl : Client) (i s chk : Nat) (c : Chip) : ∃ nv, c.refuseLog cl i s chk = { c with nv := nv } := by
  unfold refuseLog; simp only; split
  · exact logAccess_only ..
  · exact ⟨c.nv, rfl⟩

end Chip
end Sys2Proof.Machine
end

