-- ==== Sys2Proof/Laws/Dict.lean ====
section
/-!
SUPPORT. What a served request and an accepted write of the dictionary do.
-/
namespace Sys2Proof.Machine
open Chip

theorem reach_serves {s : State} {p : Path} (h : Serves s p) (f : Chip → Chip) : s.m.chip.reach p f = f s.m.chip := by
  obtain ⟨a, b⟩ := h; simp [reach, a, b]

theorem spdmReq_serves {s : State} {q : SpdmIn} (m : mctpPath q.client.path = true) (h : Serves s q.client.path) (f : Chip → Chip) :
    s.m.chip.spdmReq q f = f s.m.chip := by simp [spdmReq, m, reach_serves h]

theorem pldmReq_serves {s : State} {cl : Client} (m : mctpPath cl.path = true) (h : Serves s cl.path) (r : s.m.chip.sec.ret ≠ 1) (cmd : Nat)
    (f : Chip → Chip) : s.m.chip.pldmReq cl cmd f = f (s.m.chip.touch cl) := by simp [pldmReq, m, reach_serves h, r]

theorem pldmOpen_serves {s : State} {cl : Client} {u : Update} (m : mctpPath cl.path = true) (h : Serves s cl.path) (r : s.m.chip.sec.ret ≠ 1)
    (e : s.m.chip.sec.update = some u) (a : u.agent = cl) (cmd : Nat) (f : Update → Chip → Chip) :
    s.m.chip.pldmOpen cl cmd f = f u (s.m.chip.touch cl) := by
  have : (s.m.chip.touch cl).sec.update = some u := e
  simp [pldmOpen, pldmReq_serves m h r, this, a]

/-- A direct write that passes the checks is applied, recorded where R470 says, and answered. -/
theorem clientWrite_accepts {s : State} {cl : Client} {i sub : Nat} {data : Bytes} {memOk : Bool} (h : Accepts s cl i sub data memOk) {a : Nat} {d : Chip}
    (e : (s.m.chip.touch cl).applyWrite cl i sub (numLe data) data = (a, d)) :
    clientWrite cl i sub data memOk s.m.chip =
      ((if a = 0 then (d.noteCommand i sub (numLe data)).acceptLog cl i sub (numLe data) (s.m.chip.roleOfClient cl) else d.refuseLog cl i sub 0).send (.answer cl a [])) := by
  obtain ⟨v, w⟩ := h
  simp only [clientWrite, reach_serves v, objWrite, w, e, roleOfClient_touch]
  cases a with
  | zero => rfl
  | succ n => rfl

theorem lookup_omSet (k v : Nat) : ∀ m : ObjMap, (omSet k v m).lookup k = some v
  | [] => by simp [omSet]
  | (a, x) :: r => by
    unfold omSet
    split
    · simp
    · split
      · simp
      · rename_i h1 h2
        have : (k == a) = false := by simpa using h2
        simp [List.lookup_cons, this, lookup_omSet k v r]

@[simp] theorem omGet_omSet (n k v : Nat) (m : ObjMap) : omGet n k (omSet k v m) = v := by simp [omGet, lookup_omSet]

/-- What a journal entry changes. -/
theorem journalled_only (put : Ctrl → Nat → Nat → Nat → Ctrl) (k v : Nat) (c : Chip) :
    ∃ mc sent w, c.journalled put k v = { c with mc := mc, sent := sent, pair := { c.pair with gapWrites := w } } := by
  unfold journalled
  simp only
  split
  · split
    · exact ⟨_, _, c.pair.gapWrites, rfl⟩
    · exact ⟨_, _, c.pair.gapWrites, rfl⟩
  · exact ⟨_, c.sent, _, rfl⟩

/-- What a write of a plain value changes. -/
theorem writeVal_only (k v : Nat) (c : Chip) :
    ∃ mc sent w, c.writeVal k v = { c with mc := mc, sent := sent, pair := { c.pair with gapWrites := w } } := journalled_only ..

/-- What a command's journal entry changes. -/
theorem noteCommand_only (i s v : Nat) (c : Chip) :
    ∃ mc sent w, c.noteCommand i s v = { c with mc := mc, sent := sent, pair := { c.pair with gapWrites := w } } := by
  unfold noteCommand; split
  · exact ⟨c.mc, c.sent, c.pair.gapWrites, rfl⟩
  · exact journalled_only ..

/-- An accepted write of a plain object stores its value and nothing else. -/
theorem applyWrite_plain {i s : Nat} (h : PlainObject i s) (cl : Client) (raw : Nat) (data : Bytes) (c : Chip) :
    c.applyWrite cl i s raw data = (0, c.writeVal (okey i s) raw) := by
  simp only [PlainObject, plainObject, Bool.and_eq_true, Bool.not_eq_true', decide_eq_true_eq, ne_eq, Bool.and_eq_false_iff, decide_eq_false_iff_not] at h
  obtain ⟨⟨h1, h2⟩, h3⟩ := h
  have h4 : ¬(0x1400 ≤ i ∧ i ≤ 0x1407 ∧ ((c.writeVal (okey i s) raw).val (okey i 5) = 0 ∨ nbit ((c.writeVal (okey i s) raw).val (okey i 1)) 31)) := by
    rintro ⟨a, b, _⟩; rcases h3 with h3 | h3
    · exact h3 a
    · exact h3 b
  simp [applyWrite, h1, supervise, h2, h4]

theorem writeVal_act (k v : Nat) (c : Chip) : (c.writeVal k v).act = c.act := by
  obtain ⟨_, _, _, h⟩ := writeVal_only k v c
  rw [h]; rfl

theorem writeVal_comm (k v : Nat) (c : Chip) : (c.writeVal k v).comm = c.comm := by
  obtain ⟨_, _, _, h⟩ := writeVal_only k v c
  rw [h]

/-- The serving controller holds the written value. -/
theorem writeVal_mc_val (k v : Nat) (c : Chip) : (c.writeVal k v).mc[c.act].val = omSet k v c.mc[c.act].val := by
  have ne := other_ne c.act
  unfold writeVal journalled
  simp only
  split
  · split
    · simp [Ctrl.journalPut, Ctrl.journalNote, upd_other _ _ _ _ ne]
    · simp [Ctrl.journalPut, Ctrl.journalNote, upd_other _ _ _ _ ne]
  · simp [Ctrl.journalPut, Ctrl.journalNote]

/-- A written value reads back from the active controller. -/
theorem val_writeVal (k v : Nat) (c : Chip) : (c.writeVal k v).val k = v := by
  rw [val, valOf, writeVal_act, writeVal_comm, writeVal_mc_val, omGet_omSet]

end Sys2Proof.Machine
end

