-- ==== Sys2Proof/Laws/Memory.lean ====
section
/-!
SUPPORT. Reads after writes of sparse lists and of the memory, and that every memory operation keeps the canonical form.
-/
namespace Sys2Proof.Machine

theorem spGet_filter_ne {α : Type} (d : α) (k j : Nat) (h : j ≠ k) : ∀ l : List (Nat × α), spGet d j (l.filter (fun e => e.1 != k)) = spGet d j l
  | [] => rfl
  | (a, x) :: r => by
    have ih := spGet_filter_ne d k j h r
    simp only [List.filter_cons]
    split
    · simp only [spGet, ih]
    · rename_i g
      have : a = k := by simpa using g
      subst this
      simp [spGet, h, ih]

theorem spGet_filter_eq {α : Type} (d : α) (k : Nat) : ∀ l : List (Nat × α), spGet d k (l.filter (fun e => e.1 != k)) = d
  | [] => rfl
  | (a, x) :: r => by
    simp only [List.filter_cons]
    split
    · rename_i g
      have : a ≠ k := by simpa using g
      simp [spGet, Ne.symm this, spGet_filter_eq d k r]
    · exact spGet_filter_eq d k r

/-- A key that was set reads as its value. -/
@[simp] theorem spGet_spSet_self {α : Type} [DecidableEq α] (d : α) (k : Nat) (v : α) : ∀ l : List (Nat × α), spGet d k (spSet d k v l) = v
  | [] => by unfold spSet; split <;> simp_all [spGet]
  | (a, x) :: r => by
    unfold spSet
    split
    · split
      · rename_i h e; rw [spGet_filter_eq, e]
      · simp [spGet]
    · split
      · split
        · rename_i e; rw [spGet_filter_eq, e]
        · simp [spGet]
      · rename_i h e; simp [spGet, e, spGet_spSet_self d k v r]

/-- Setting a key leaves every other key. -/
theorem spGet_spSet_other {α : Type} [DecidableEq α] (d : α) (k j : Nat) (v : α) (h : j ≠ k) : ∀ l : List (Nat × α), spGet d j (spSet d k v l) = spGet d j l
  | [] => by unfold spSet; split <;> simp [spGet, h]
  | (a, x) :: r => by
    unfold spSet
    split
    · split
      · rw [spGet_filter_ne d k j h]
      · simp [spGet, h]
    · split
      · rename_i e
        split
        · rw [spGet_filter_ne d k j h]; subst e; simp [spGet, h]
        · subst e; simp [spGet, h]
      · simp [spGet, spGet_spSet_other d k j v h r]

/-- A key outside a filter's range of keys reads as the default, one inside reads as before. -/
theorem spGet_filter {α : Type} (d : α) (p : Nat → Bool) (k : Nat) : ∀ l : List (Nat × α), spGet d k (l.filter (fun e => p e.1)) = if p k then spGet d k l else d
  | [] => by simp [spGet]
  | (a, x) :: r => by
    have ih := spGet_filter d p k r
    simp only [List.filter_cons]
    by_cases e : k = a
    · subst e
      by_cases h : p k <;> simp [h, spGet]
      simpa [h] using ih
    · by_cases h : p a <;> simp [h, spGet, e, ih]

/-! ### The canonical form -/

/-- The canonical form as facts about the list: keys rise and no entry is at the default. -/
theorem spWf_iff {α : Type} [DecidableEq α] (d : α) : ∀ l : List (Nat × α), spWf d l = true ↔ l.Pairwise (fun a b => a.1 < b.1) ∧ ∀ e ∈ l, e.2 ≠ d
  | [] => by simp [spWf]
  | [(a, x)] => by simp [spWf]
  | (a, x) :: (b, y) :: r => by
    have ih := spWf_iff d ((b, y) :: r)
    simp only [spWf, Bool.and_eq_true, decide_eq_true_eq, ih]
    constructor
    · rintro ⟨⟨h1, h2⟩, h3, h4⟩
      refine ⟨List.pairwise_cons.2 ⟨?_, h3⟩, ?_⟩
      · intro e he
        rcases List.mem_cons.1 he with rfl | he
        · exact h2
        · exact Nat.lt_trans h2 ((List.pairwise_cons.1 h3).1 e he)
      · intro e he
        rcases List.mem_cons.1 he with rfl | he
        · exact h1
        · exact h4 e he
    · rintro ⟨h1, h2⟩
      obtain ⟨h3, h4⟩ := List.pairwise_cons.1 h1
      exact ⟨⟨h2 _ (List.mem_cons_self ..), h3 _ (List.mem_cons_self ..)⟩, h4, fun e he => h2 e (List.mem_cons_of_mem _ he)⟩

theorem spWf_filter {α : Type} [DecidableEq α] (d : α) (p : Nat × α → Bool) {l : List (Nat × α)} (h : spWf d l = true) : spWf d (l.filter p) = true := by
  rw [spWf_iff] at h ⊢
  exact ⟨h.1.filter _, fun e he => h.2 e (List.mem_filter.1 he).1⟩

/-- Every entry of a list with one key set is the entry set or an entry of the list. -/
theorem mem_spSet {α : Type} [DecidableEq α] (d : α) (k : Nat) (v : α) (e : Nat × α) : ∀ l : List (Nat × α), e ∈ spSet d k v l → (e = (k, v) ∧ v ≠ d) ∨ e ∈ l
  | [], h => by
    unfold spSet at h
    split at h
    · cases h
    · rename_i n; exact .inl ⟨by simpa using h, n⟩
  | (a, x) :: r, h => by
    unfold spSet at h
    split at h
    · split at h
      · exact .inr (List.mem_filter.1 h).1
      · rename_i n; rcases List.mem_cons.1 h with h | h
        · exact .inl ⟨h, n⟩
        · exact .inr h
    · split at h
      · split at h
        · exact .inr (List.mem_cons_of_mem _ (List.mem_filter.1 h).1)
        · rename_i n; rcases List.mem_cons.1 h with h | h
          · exact .inl ⟨h, n⟩
          · exact .inr (List.mem_cons_of_mem _ h)
      · rcases List.mem_cons.1 h with h | h
        · exact .inr (h ▸ List.mem_cons_self ..)
        · rcases mem_spSet d k v e r h with h | h
          · exact .inl h
          · exact .inr (List.mem_cons_of_mem _ h)

/-- Setting a key keeps the canonical form. -/
theorem spWf_spSet {α : Type} [DecidableEq α] (d : α) (k : Nat) (v : α) : ∀ l : List (Nat × α), spWf d l = true → spWf d (spSet d k v l) = true
  | [], _ => by
    unfold spSet; split
    · rfl
    · rename_i n; simpa [spWf] using n
  | (a, x) :: r, h => by
    have h' := h
    rw [spWf_iff] at h'
    obtain ⟨h1, h2⟩ := h'
    obtain ⟨h3, h4⟩ := List.pairwise_cons.1 h1
    have hr : spWf d r = true := (spWf_iff d r).2 ⟨h4, fun e he => h2 e (List.mem_cons_of_mem _ he)⟩
    unfold spSet
    split
    · rename_i lt
      split
      · exact spWf_filter d _ h
      · rename_i n
        rw [spWf_iff]
        refine ⟨List.pairwise_cons.2 ⟨?_, h1⟩, ?_⟩
        · intro e he
          rcases List.mem_cons.1 he with rfl | he
          · exact lt
          · exact Nat.lt_trans lt (h3 e he)
        · intro e he
          rcases List.mem_cons.1 he with rfl | he
          · exact n
          · exact h2 e he
    · rename_i nlt
      split
      · rename_i eq
        split
        · exact spWf_filter d _ hr
        · rename_i n
          rw [spWf_iff]
          refine ⟨List.pairwise_cons.2 ⟨fun e he => eq ▸ h3 e he, h4⟩, ?_⟩
          intro e he
          rcases List.mem_cons.1 he with rfl | he
          · exact n
          · exact h2 e (List.mem_cons_of_mem _ he)
      · rename_i ne
        have ih := (spWf_iff d _).1 (spWf_spSet d k v r hr)
        rw [spWf_iff]
        refine ⟨List.pairwise_cons.2 ⟨?_, ih.1⟩, ?_⟩
        · intro e he
          rcases mem_spSet d k v e r he with ⟨rfl, _⟩ | he
          · simp only; omega
          · exact h3 e he
        · intro e he
          rcases List.mem_cons.1 he with rfl | he
          · exact h2 _ (List.mem_cons_self ..)
          · exact ih.2 e he

theorem insertNat_mem (k x : Nat) : ∀ l : List Nat, x ∈ insertNat k l → x = k ∨ x ∈ l
  | [], h => by simpa [insertNat] using h
  | a :: r, h => by
    unfold insertNat at h
    split at h
    · exact List.mem_cons.1 h
    · split at h
      · exact .inr h
      · rcases List.mem_cons.1 h with h | h
        · exact .inr (h ▸ List.mem_cons_self ..)
        · rcases insertNat_mem k x r h with h | h
          · exact .inl h
          · exact .inr (List.mem_cons_of_mem _ h)

/-- A rising list takes a member and stays rising. -/
theorem insertNat_rising (k : Nat) : ∀ l : List Nat, l.Pairwise (· < ·) → (insertNat k l).Pairwise (· < ·)
  | [], _ => by simp [insertNat]
  | a :: r, h => by
    obtain ⟨h1, h2⟩ := List.pairwise_cons.1 h
    unfold insertNat
    split
    · rename_i lt
      exact List.pairwise_cons.2 ⟨fun e he => by rcases List.mem_cons.1 he with rfl | he; exact lt; exact Nat.lt_trans lt (h1 e he), h⟩
    · split
      · exact h
      · refine List.pairwise_cons.2 ⟨fun e he => ?_, insertNat_rising k r h2⟩
        rcases insertNat_mem k e r he with rfl | he
        · omega
        · exact h1 e he

/-! ### Operations of the memory -/

/-- A machine whose memory and poison marks stand in their canonical forms. -/
def Mach.wf (m : Mach) : Prop := Memory.wf m.mem = true ∧ m.poison.Pairwise (· < ·)

theorem memory_write_wf : ∀ (data : Bytes) (m : Memory) (a : Nat), Memory.wf m = true → Memory.wf (Memory.write m a data) = true
  | [], _, _, h => h
  | b :: r, m, a, h => memory_write_wf r _ _ (spWf_spSet 0 a b m h)

theorem on_wf {m : Mach} (f : Chip → Chip) (h : m.wf) : (m.on f).wf := h
theorem put_wf {m : Mach} (a : Nat) (data : Bytes) (h : m.wf) : (m.put a data).wf := ⟨memory_write_wf data m.mem a h.1, h.2.filter _⟩
theorem mark_wf {m : Mach} (a : Nat) (h : m.wf) : (m.mark a).wf := ⟨h.1, insertNat_rising _ _ h.2⟩
theorem clear_wf {m : Mach} (a n : Nat) (h : m.wf) : (m.clear a n).wf := ⟨spWf_filter _ _ h.1, h.2.filter _⟩

theorem each_wf {α : Type} (f : α → Mach → Mach) (hf : ∀ a m, m.wf → (f a m).wf) : ∀ (l : List α) (m : Mach), m.wf → (each l f m).wf
  | [], _, h => h
  | a :: l, m, h => each_wf f hf l (f a m) (hf a m h)

theorem foldl_wf {α : Type} (f : Mach → α → Mach) (hf : ∀ m a, m.wf → (f m a).wf) : ∀ (l : List α) (m : Mach), m.wf → (l.foldl f m).wf
  | [], _, h => h
  | a :: l, m, h => foldl_wf f hf l (f m a) (hf m a h)

theorem gddrPoison_wf {m : Mach} (u place : Nat) (h : m.wf) : (m.gddrPoison u place).wf := by
  unfold Mach.gddrPoison; split
  · exact h
  · exact mark_wf u h

theorem gddrFault_wf {m : Mach} (f : ReadFault) (h : m.wf) : (m.gddrFault f).1.wf := by
  unfold Mach.gddrFault
  split
  · exact h
  · exact gddrPoison_wf _ _ h
  · dsimp only
    refine each_wf _ (fun _ _ h => mark_wf _ h) _ _ ?_
    split
    · exact gddrPoison_wf _ _ h
    · exact h
  · dsimp only
    split
    · exact gddrPoison_wf _ _ h
    · exact h

theorem gddrMeets_wf {m : Mach} (p : ReadFault → Bool) (h : m.wf) : (m.gddrMeets p).wf := foldl_wf _ (fun _ f h => gddrFault_wf f h) _ _ h

theorem burst_wf {m : Mach} (a : Nat) (data : Bytes) (h : m.wf) : (m.burst a data).wf :=
  each_wf _ (fun u _ h => mark_wf u h) _ _ (put_wf a data (gddrMeets_wf _ h))

theorem write_wf {m : Mach} (a : Nat) (data : Bytes) (h : m.wf) : (m.write a data).wf :=
  each_wf _ (fun p _ h => burst_wf p.1 p.2 h) _ _ (burst_wf a data h)

theorem writeNat_wf {m : Mach} (a n v : Nat) (h : m.wf) : (m.writeNat a n v).wf := write_wf a _ h

theorem writeOrHold_wf {m : Mach} (who : HeldBy) (die : Option Nat) (a : Nat) (data : Bytes) (h : m.wf) : (m.writeOrHold who die a data).wf := by
  unfold Mach.writeOrHold; split
  · refine each_wf _ (fun p x h => ?_) _ _ h
    dsimp only
    split
    · exact h
    · exact write_wf _ _ h
  · exact write_wf a data h

theorem copyRaw_wf {m : Mach} (src dst n : Nat) (h : m.wf) : (m.copyRaw src dst n).wf :=
  each_wf _ (fun _ _ h => mark_wf _ h) _ _ (each_wf _ (fun e _ h => put_wf _ [e.2] h) _ _ (clear_wf dst n (gddrMeets_wf _ (gddrMeets_wf _ h))))

theorem copyRange_wf {m : Mach} (src dst n : Nat) (h : m.wf) : (m.copyRange src dst n).wf :=
  each_wf _ (fun r _ h => copyRaw_wf (src + r.1) r.2.1 r.2.2 h) _ _ (copyRaw_wf src dst n h)

/-- A byte that was written reads as written. -/
theorem memory_read_write_self : ∀ (data : Bytes) (m : Memory) (a i : Nat) (h : i < data.length), (Memory.write m a data).get (a + i) = data[i]
  | b :: r, m, a, 0, _ => by
    have : ∀ (r : Bytes) (m : Memory) (x : Nat), a < x → (Memory.write m x r).get a = m.get a := by
      intro r
      induction r with
      | nil => intros; rfl
      | cons c r ih =>
        intro m x hx
        show (Memory.write (spSet 0 x c m) (x + 1) r).get a = _
        rw [ih _ _ (by omega)]
        exact spGet_spSet_other 0 x a c (by omega) m
    show (Memory.write (spSet 0 a b m) (a + 1) r).get (a + 0) = b
    rw [Nat.add_zero]
    refine (this r _ (a + 1) (by omega)).trans ?_
    exact spGet_spSet_self 0 a b m
  | b :: r, m, a, i + 1, h => by
    have hi : i < r.length := by simpa using h
    have := memory_read_write_self r (spSet 0 a b m) (a + 1) i hi
    show (Memory.write (spSet 0 a b m) (a + 1) r).get (a + (i + 1)) = r[i]
    rw [show a + (i + 1) = a + 1 + i by omega]
    exact this

/-- A write leaves every byte outside its range. -/
theorem memory_read_write_other : ∀ (data : Bytes) (m : Memory) (a x : Nat), (x < a ∨ a + data.length ≤ x) → (Memory.write m a data).get x = m.get x
  | [], _, _, _, _ => rfl
  | b :: r, m, a, x, h => by
    show (Memory.write (spSet 0 a b m) (a + 1) r).get x = _
    simp only [List.length_cons] at h
    rw [memory_read_write_other r _ (a + 1) x (by omega)]
    exact spGet_spSet_other 0 a x b (by omega) m

end Sys2Proof.Machine
end

