-- ==== Sys2Proof/Tests/Slice0.lean ====
section
/-!
SUPPORT. Tests: for every statement that has hypotheses, a state and operands that meet them; ill-formed commands; the spec's worked examples.
-/
open Sys2Proof Sys2Proof.Machine Sys2Proof.Machine.Chip
namespace Sys2Proof.Tests
set_option Elab.async false
/-- Reset with the chip changed. -/
def at' (f : Chip → Chip) : State := { State.reset with m := { State.reset.m with chip := f resetChip } }
/-- The module in a state, both controllers running and sending with MC-A active, the pair link up; the package rails on where the state has them. -/
def on (ms : ModState) (f : Chip → Chip) : State := at' fun c => f { c with
  mod := { c.mod with st := ms, autoDone := false },
  mc := c.mc.map (fun m => { m with core := .running, sending := true }),
  pair := { c.pair with active := 0, link := true },
  pwr := if ms = .packageOn ∨ ms = .serving then { c.pwr with hotSwap := true, enabled := 0x3F, good := 0x3F, phase := .done, laser := true } else c.pwr }
/-- A client on CAN FD and one on I3C. -/
def cl : Client := ⟨.can, 5⟩
def ep : Client := ⟨.i3c, 9⟩
/-- An installer credential, as an entry of the dictionary, and controllers that hold values beside it. -/
def cred : Nat × Nat := (okey 0x5021 1, 1)
def holds (l : List (Nat × Nat)) (c : Chip) : Chip := { c with mc := c.mc.map (fun m => { m with val := cred :: l }) }
/-- A state with a role of the first client, a credential stored. -/
def as (role : Nat) (ms : ModState) (f : Chip → Chip) : State :=
  on ms fun c => f (holds [] { c with sec := { c.sec with ret := if role = 2 then 2 else 0, roles := [⟨cl, role, 0⟩] } })
def spdmState : State := on .standby fun c => { c with sec := { c.sec with
  spdm := [⟨ep, 3, none, false, 0⟩, ⟨ep, 3, some 0, false, 0⟩, ⟨ep, 3, some 2, true, 0⟩] } }
theorem witness_SpdmConnectionAdvances :
    mctpPath ep.path = true ∧ Serves spdmState ep.path ∧ 3 ≤ spdmState.m.chip.spdmStage ep ∧ (⟨ep, 0, 0, 0⟩ : SpdmIn).slot = 0 ∧
    (⟨ep, 0, 0, 0⟩ : SpdmIn).measurement = 0 ∧ (⟨ep, 0, 0, 7⟩ : SpdmIn).measurement = 7 := by unfold Serves; decide +kernel
theorem witness_SpdmSessionsRun :
    let held := fun (k : Nat) => spdmState.m.chip.sec.spdm.any (fun x => x.session == some k)
    let mine := fun (k : Nat) (e : Bool) => spdmState.m.chip.sec.spdm.any (fun x => decide (x.client = ep) && x.session == some k && x.established == e)
    mctpPath ep.path = true ∧ Serves spdmState ep.path ∧ 3 ≤ spdmState.m.chip.spdmStage ep ∧ held 1 = false ∧ held 3 = false ∧ mine 0 false = true ∧
    mine 2 true = true := by unfold Serves; decide +kernel
theorem witness_PldmInformationAnswers :
    mctpPath ep.path = true ∧ Serves spdmState ep.path ∧ spdmState.m.chip.sec.ret ≠ 1 ∧ spdmState.m.chip.sec.update = none ∧
    spdmState.m.chip.sec.activating = 0 := by unfold Serves; decide +kernel
def agent (v : List (Nat × Nat × Nat)) (comp : Option Nat) (size : Nat) (img : Bytes) : Update :=
  { agent := ep, comp := comp, version := 1, size := size, image := img, dropped := false, verified := v }
def updating (u : Option Update) (ms : ModState) : State := on ms fun c => { c with sec := { c.sec with roles := [⟨ep, 1, 0⟩], update := u } }
theorem witness_UpdateOpensForRoles :
    mctpPath ep.path = true ∧ Serves (updating none .standby) ep.path ∧ (updating none .standby).m.chip.sec.ret ≠ 1 ∧
    (updating none .standby).m.chip.roleOfClient ep ≠ 0 ∧ (updating none .standby).m.chip.sec.update = none ∧
    (updating none .standby).m.chip.sec.activating = 0 ∧ Serves spdmState ep.path ∧ spdmState.m.chip.roleOfClient ep = 0 := by unfold Serves; decide +kernel
theorem witness_UpdateStepsRun :
    let s0 := updating (some (agent [] none 0 [])) .standby
    let s1 := updating (some (agent [] (some 4) 1024 [])) .standby
    let s2 := updating (some (agent [] (some 1) 2 [1, 2])) .standby
    mctpPath ep.path = true ∧ Serves s0 ep.path ∧ s0.m.chip.sec.ret ≠ 1 ∧ s0.m.chip.sec.update = some (agent [] none 0 []) ∧ (agent [] none 0 []).agent = ep ∧
    (1 : W16).toNat = 1 ∧ (4 : W16).toNat = 4 ∧ Serves s1 ep.path ∧ s1.m.chip.sec.update = some (agent [] (some 4) 1024 []) ∧
    0 + (List.replicate 1024 (0 : Byte)).length ≤ 1024 ∧ Serves s2 ep.path ∧
    s2.m.chip.sec.update = some (agent [] (some 1) 2 [1, 2]) ∧ (agent [] (some 1) 2 [1, 2]).image.length = 2 := by unfold Serves; decide +kernel
theorem witness_ActivationRules :
    let s0 := updating (some (agent [(2, 5, 1)] none 0 [])) .serving
    let s1 := updating (some (agent [(2, 5, 1)] none 0 [])) .ochre
    let s2 := { s0 with m := s0.m.on fun c => { c with pair := { c.pair with link := false } } }
    let s3 := on .standby fun c => { (c.onMc 1 fun m => { m with core := .rejoining }) with sec := { c.sec with activating := 1 } }
    Serves s0 ep.path ∧ s0.m.chip.sec.ret ≠ 1 ∧ s0.m.chip.activateOk = true ∧ s0.m.chip.mod.st ≠ .standby ∧
    s0.m.chip.sec.update = some (agent [(2, 5, 1)] none 0 []) ∧ (∀ x ∈ [((2 : Nat), (5 : Nat), (1 : Nat))], x.1 ≠ 1) ∧
    ¬ s1.m.chip.mod.st ≠ .ochre ∧ Serves s2 ep.path ∧ ¬ s2.m.chip.pair.link = true ∧ s3.m.chip.sec.activating = 1 ∧
    s3.m.chip.mc[Mc.b.ix].core = .rejoining ∧ s3.m.chip.mc[other Mc.b.ix].core = .running ∧ s3.m.chip.mc[other Mc.b.ix].sending = true ∧
    s3.m.chip.mc[other Mc.b.ix].hold = 0 := by unfold Serves; decide +kernel
theorem witness_RolesComeAndGo :
    let s1 := on .standby fun c => { c with time := 9000000, sec := { c.sec with roles := [⟨cl, 1, 0⟩] } }
    Serves (on .standby id) cl.path ∧ Accepts (on .standby id) cl 0x5020 2 (List.replicate 112 0) true ∧ Accepts (as 1 .standby id) cl 0x5020 4 [1] true ∧
    ∃ r ∈ s1.m.chip.sec.roles, r.client = cl ∧ r.at' + secs 900 ≤ s1.m.chip.time := by unfold Accepts Serves; decide +kernel
/-- A challenge of the first client, and a stored credential. -/
def challenged (used : Bool) (time block credential : Nat) : Chip := (on .standby fun c => { c with
  time := time, mc := c.mc.map (fun m => { m with val := [(okey 0x5021 1, credential)] }), sec := { c.sec with challenges := [⟨cl, [], 0, used⟩], blockUntil := block } }).m.chip
theorem three_bytes (a b : Bytes) : ∃ p ∈ [([] : Bytes), [0], [1]], a ≠ p.take 16 ∧ b ≠ p.take 16 := by
  by_cases h : a = [] ∨ b = []
  · by_cases k : a = [0] ∨ b = [0]
    · exact ⟨[1], by simp, by rcases h with h | h <;> rcases k with k | k <;> simp_all⟩
    · exact ⟨[0], by simp, by simpa [not_or] using k⟩
  · exact ⟨[], by simp, by simpa [not_or] using h⟩
theorem witness_RolesComeAndGo_reasons :
    let inst := (bytesLe 113 (challenged false 5 0 1).credential).take 16
    (challenged false 5 6 0).time < (challenged false 5 6 0).sec.blockUntil ∧ ((on .standby id).m.chip.sec.blockUntil ≤ (on .standby id).m.chip.time ∧
      ∀ x ∈ (on .standby id).m.chip.sec.challenges, x.client ≠ cl) ∧
    ((challenged true 5 0 0).sec.challenges.find? (fun y => decide (y.client = cl)) = some ⟨cl, [], 0, true⟩ ∧ (challenged true 5 0 0).sec.blockUntil ≤ 5) ∧
    ((challenged false 5 0 1).sec.challenges.find? (fun y => decide (y.client = cl)) = some ⟨cl, [], 0, false⟩ ∧ (challenged false 5 0 1).time - 0 ≤ secs 60 ∧
      (challenged false 5 0 1).credential ≠ 0 ∧ (bytesLe 113 (challenged false 5 0 1).credential).take 16 = inst.take 16) ∧
    ((challenged false 5 0 0).sec.challenges.find? (fun y => decide (y.client = cl)) = some ⟨cl, [], 0, false⟩ ∧ ¬(challenged false 5 0 0).credential ≠ 0) ∧
    secs 60 < (challenged false 600001 0 0).time - 0 := by decide +kernel
/-- No maker's key matches one of three proofs; the first key matches itself. -/
theorem witness_RolesComeAndGo_keys :
    (∃ proof : Bytes, ∀ key, ¬(key.take 16 = proof.take 16 ∧ (key = Config.makerKey 0 ∨ key = Config.makerKey 1 ∧ (Config.makerKey 0).take 16 ≠ proof.take 16))) ∧
    ∃ proof key : Bytes, key.take 16 = proof.take 16 ∧ (key = Config.makerKey 0 ∨ key = Config.makerKey 1 ∧ (Config.makerKey 0).take 16 ≠ proof.take 16) := by
  obtain ⟨p, _, h0, h1⟩ := three_bytes ((Config.makerKey 0).take 16) ((Config.makerKey 1).take 16)
  refine ⟨⟨p, fun key h => ?_⟩, Config.makerKey 0, Config.makerKey 0, rfl, .inl rfl⟩
  rcases h with ⟨e, rfl | ⟨rfl, -⟩⟩
  · exact h0 e
  · exact h1 e
/-- A key of R475: the base point of P-384 as the public key, and its identifier. -/
def baseKey : Bytes := let pub := 4 :: bytesBe 48 ecGx ++ bytesBe 48 ecGy; keyId pub ++ pub
theorem witness_SecurityWritesTakeEffect :
    let s0 := as 1 .standby id
    Accepts s0 cl 0x5021 1 baseKey true ∧ Accepts (on .standby id) cl 0x5021 1 baseKey true ∧ Accepts s0 cl 0x5011 1 baseKey true ∧
    Accepts s0 cl 0x5011 8 (List.replicate 113 0) true ∧ Accepts s0 cl 0x5040 1 (wordBytes (7 : W64)) true ∧
    (on .serving id).m.chip.railsOn = true ∧ (on .serving id).m.chip.served = true := by unfold Accepts Serves; decide +kernel
theorem witness_RefusedWriteChangesNothing :
    let s := on .standby id
    let chk := fun (t : State) (i sub : Nat) (d : Bytes) => (t.m.chip.touch cl).writeCheck cl i sub d true
    let w := fun (i sub : Nat) (d : Bytes) => chk s i sub d
    let erasing := on .standby fun c => holds [] { c with sec := { c.sec with ret := 1, roles := [⟨cl, 1, 0⟩] } }
    let poor := on .standby fun c => { c with sec := { c.sec with roles := [⟨cl, 1, 0⟩] } }
    chk poor 0x2400 3 [2] = (4, 0x06010000) ∧ poor.m.chip.credential = 0 ∧ (objInfo 0x2400 3).any (fun e => e.role == 1) = true ∧
    Serves s cl.path ∧ Serves erasing cl.path ∧ w 0x9999 0 [] = (1, 0x06020000) ∧ w 0x2400 0x12 [] = (2, 0x06090011) ∧ w 0x2400 1 [0] = (3, 0x06010002) ∧
    w 0x2400 3 [2] = (4, 0x06010000) ∧ w 0x2400 2 [] = (5, 0x06070010) ∧ w 0x2400 2 [3] = (6, 0x06090030) ∧ chk erasing 0x2400 3 [1] = (7, 0x08000022) ∧
    (objIndex 0x2400 = true ∧ objInfo 0x2400 0x12 = none) ∧ (objInfo 0x2000 3).any (fun e => decide (e.acc = .const)) = true ∧
    (objInfo 0x2400 3).any (fun e => decide (e.acc ≠ .ro ∧ e.acc ≠ .const ∧ s.m.chip.roleOfClient cl < e.role)) = true ∧
    (objInfo 0x2400 2).any (fun e => decide (e.acc ≠ .ro ∧ e.role ≤ s.m.chip.roleOfClient cl ∧ ([] : Bytes).length ≠ e.ty.size)) = true ∧
    (objInfo 0x2400 3).any (fun e => decide (e.role ≤ erasing.m.chip.roleOfClient cl ∧ [(1 : Byte)].length = e.ty.size) && erasing.m.chip.rangeCheck 0x2400 3 1 e == 0) = true ∧
    erasing.m.chip.sec.ret = 1 := by unfold Serves; decide +kernel
theorem plain_2400_3 : PlainObject 0x2400 3 := by unfold PlainObject; decide +kernel
theorem plain_4010_4 : PlainObject 0x4010 4 := by unfold PlainObject; decide +kernel
theorem witness_DictionaryAccessWorks :
    let s := as 1 .standby id
    let open' := on .standby fun c => { c with comm := { c.comm with sessions := [⟨5, okey 0x5001 0, false, false, []⟩] } }
    let many := on .standby fun c => { c with comm := { c.comm with sessions := [6, 7, 8, 9].map fun n => ⟨n, okey 0x5001 0, false, false, []⟩ } }
    PlainObject 0x2400 3 ∧ Accepts s cl 0x2400 3 [2] true ∧ s.m.chip.comm.sessions = [] ∧ (⟨.can, 5⟩ : Client) = cl ∧ Serves s .can ∧
    (objInfo 0x2400 3).any (fun e => decide (e.ty ≠ .domain)) = true ∧ s.m.chip.readCheck 0x2400 3 = (0, 0) ∧
    (Serves many .can ∧ many.m.chip.readCheck 0x5001 0 = (0, 0) ∧ (objInfo 0x5001 0).any (fun e => decide (e.ty = .domain)) = true ∧
      4 ≤ (many.m.chip.comm.sessions.filter (fun x => decide (x.node ≠ 5))).length) ∧
    ∃ x ∈ open'.m.chip.comm.sessions, x.node = 5 := by
  refine ⟨plain_2400_3, ?_⟩; unfold Accepts Serves; decide +kernel
/-- A dictionary message whose vendor identifier is the module's, which the spec leaves open. -/
def message (cmd : Nat) (rest : Bytes) : Bytes := 0x7E :: bytesBe 2 Config.pciVendor.toNat ++ bytesLe 1 cmd ++ rest
theorem numBe_bytesBe_2 (v : BitVec 16) : numBe (bytesBe 2 v.toNat) = v.toNat := by
  have h := v.isLt
  simp [numBe, bytesBe, bytesLe, numLe, BitVec.toNat_ofNat, Nat.shiftRight_eq_div_pow]; omega
theorem witness_MctpDictionaryAnswers :
    let rd := message 1 [1, 0, 0x00, 0x24, 3, 0, 0, 0, 0, 0, 0, 4]
    let wr := message 2 [1, 0, 0x00, 0x24, 3, 0, 0, 0, 0, 0, 1, 0, 2]
    let all := message 1 [1, 1, 0x18, 0x10, 0, 0, 0, 0, 0, 0, 0, 4]
    let s := on .standby fun c => holds [] { c with sec := { c.sec with roles := [⟨ep, 1, 0⟩] } }
    let full := on .standby fun c => { c with comm := { c.comm with asked := List.replicate 4 (.i3c, 9) } }
    numBe (slice all 1 2) = Config.pciVendor.toNat ∧ numBe (slice rd 1 2) = Config.pciVendor.toNat ∧ numBe (slice wr 1 2) = Config.pciVendor.toNat ∧
    (fieldLe all 5 1 = 1 ∧ fieldLe all 8 1 = 0 ∧ fieldLe all 6 2 = 0x1018 ∧ objIndex 0x1018 = true ∧ (objInfo 0x1018 0).isSome = true ∧ subsOf 0x1018 ≠ [] ∧
      fieldLe all 14 2 = 1024 ∧ 16 ≤ all.length ∧ fieldLe all 10 4 = 0 ∧ fieldLe all 9 1 = 0 ∧ ∀ k ∈ subsOf 0x1018, s.m.chip.readCheck 0x1018 k = (0, 0)) ∧
    (s.m.chip.comm.asked.filter (fun x => x == (.i3c, 9))).length < 4 ∧ (Serves full .i3c ∧ ¬(full.m.chip.comm.asked.filter (fun x => x == (.i3c, 9))).length < 4) ∧
    Serves s .i3c ∧ 16 ≤ rd.length ∧ fieldLe rd 0 1 = 0x7E ∧ fieldLe rd 3 1 = 1 ∧ fieldLe rd 5 1 = 0 ∧
    fieldLe rd 9 1 = 0 ∧ fieldLe rd 10 4 = 0 ∧ fieldLe rd 14 2 = 1024 ∧ fieldLe rd 6 2 = 0x2400 ∧ fieldLe rd 8 1 = 3 ∧ s.m.chip.readCheck 0x2400 3 = (0, 0) ∧
    16 ≤ wr.length ∧ fieldLe wr 0 1 = 0x7E ∧ fieldLe wr 3 1 = 2 ∧ fieldLe wr 5 1 = 0 ∧ fieldLe wr 9 1 = 0 ∧
    fieldLe wr 10 4 = 0 ∧ fieldLe wr 14 2 = (wr.drop 16).length ∧ fieldLe wr 6 2 = 0x2400 ∧ fieldLe wr 8 1 = 3 ∧ PlainObject 0x2400 3 ∧
    Accepts s ep 0x2400 3 (wr.drop 16) true := by
  have h := numBe_bytesBe_2 Config.pciVendor
  refine ⟨h, h, h, ?_⟩; unfold Accepts Serves PlainObject; decide +kernel
theorem witness_NmtCommandsAct : NmtHears (on .standby id) 0 ∧ NmtHears (on .serving id) 1 := by unfold NmtHears; decide +kernel
theorem witness_CanTrafficRuns :
    let op := fun (c : Chip) => { c with comm := { c.comm with nmt := 5 } }
    let s := as 1 .standby op
    let rp := s.m.chip.pdoMap true 0
    let v := 0x40100410
    let late := on .standby fun c => { op c with
      time := 10, mc := c.mc.map (fun m => { m with val := [(okey 0x1016 4, 7 * 65536 + 100), (okey 0x1400 5, 1)] }),
      comm := { c.comm with nmt := 5, queue := [⟨0x8130, 1, 0, 0⟩] } }
    let d := late.m.chip
    PlainObject (mapKey v / 256) (mapKey v % 256) ∧ Serves s .can ∧ s.m.chip.comm.nmt = 5 ∧ s.m.chip.pdoValid false 0 = true ∧ s.m.chip.pdoValid false 3 = true ∧
    s.m.chip.comm.tpdo[(0 : Fin 8)].ever = false ∧ s.m.chip.pdoValid true 0 = true ∧ rp = [v] ∧ 8 * [(0xD8 : Byte), 0x0E].length = mapBits v ∧
    (∀ x ∈ s.m.chip.comm.conds, x.code ≠ 0x8250) ∧ Accepts s ⟨.can, 0⟩ (mapKey v / 256) (mapKey v % 256) [0xD8, 0x0E] true ∧
    d.served = true ∧ d.comm.nmt = 5 ∧ d.pdoValid true 0 = true ∧ 0 < d.val (okey 0x1400 5) ∧ 10 * d.val (okey 0x1400 5) ≤ d.time - d.comm.rpdoAt[(0 : Fin 8)] ∧
    d.emcyOpen = true ∧ d.comm.queue ≠ [] ∧ d.comm.emcyAt = none ∧ d.comm.dropped = 0 ∧ Serves late .can ∧ 0 < d.val (okey 0x1017 0) ∧
    d.mc[d.act].core ≠ .stopped ∧ (d.consumer 3).1 = (7 : Byte).toNat := by
  refine ⟨plain_4010_4, ?_⟩; unfold Accepts Serves; decide +kernel
theorem witness_StoreRestoreAct :
    Accepts (on .standby id) cl 0x1010 1 (wordBytes (0x65766173 : W32)) true ∧ Accepts (as 1 .standby id) cl 0x1010 10 (wordBytes (0x65766173 : W32)) true ∧
    Accepts (as 1 .standby id) cl 0x1011 1 (wordBytes (0x64616F6C : W32)) true ∧ Accepts (as 1 .standby id) cl 0x1003 0 [0] true ∧
    ((as 1 .standby id).m.chip.mc[(0 : Fin 2)].val.map (·.1)).Nodup ∧ areaHas 8 0x4100 = true := by
  unfold Accepts Serves; decide +kernel
theorem witness_MctpControlAnswers :
    pathIx .i3c = some 0 ∧ pathIx .pcie1 = some 2 ∧ Serves (on .standby id) .i3c ∧ (8 : Byte) ≠ 0 ∧ (0xFE : Byte) ≠ 0xFF ∧
    (5 : Byte) ∈ [(0xFF : Byte), 0, 1, 5, 0x7E] ∧ (0x7E : Byte) ∈ [(0xFF : Byte), 0, 1, 5, 0x7E] := by unfold Serves; decide +kernel
def gasp : Bytes := [1, 2] ++ List.replicate 10 0 ++ wordBytes (crc32 ([1, 2] ++ List.replicate 10 0))
theorem witness_LogbookWrites :
    let r : LogRec := { number := 0, cls := 1, flags := 0, stRole := 2, time := 0, code := 0x0110, source := 0, data := [], repeat' := 0 }
    let s := on .standby fun c => (c.onNv 0 fun n => { n with log := { n.log with ring := [{ r with code := 0x0120 }], queue := [(3, r)] } })
    let l := s.m.chip.nv[(0 : Fin 2)].log
    let t := on .standby fun c => { c with ad := { c.ad with gaspSeen := [(0, 7)] } }
    s.m.chip.alive 0 = true ∧ l.failed = false ∧ l.queue = [(3, r)] ∧ (∀ q ∈ l.ring.head?, sameEvent q r = false) ∧ s.m.chip.mod.st ≠ .unpowered ∧
    gasp.length = 16 ∧ fieldLe gasp 12 4 = (crc32 (gasp.take 12)).toNat ∧ (0, (7 : W32).toNat) ∉ s.m.chip.ad.gaspSeen ∧ (0, (7 : W32).toNat) ∈ t.m.chip.ad.gaspSeen := by
  decide +kernel
theorem witness_ReturnStateRuns :
    let erasing := on .standby fun c => { c with sec := { c.sec with ret := 1 } }
    Accepts (as 1 .standby id) cl 0x5030 1 (wordBytes (0x6E727472 : W32)) true ∧ erasing.m.chip.sec.ret = 1 ∧ erasing.m.chip.served = true ∧
    erasing.m.chip.mod.st ≠ .unpowered ∧ erasing.m.chip.mod.st ≠ .aux ∧ Serves (as 2 .standby id) cl.path ∧ (as 2 .standby id).m.chip.sec.ret = 2 ∧
    (as 2 .standby id).m.chip.roleOfClient cl = 2 := by unfold Accepts Serves; decide +kernel
theorem witness_ControlTickRuns :
    let stop := on .coolantReady fun c => { c with mod := { c.mod with stopReq := some 5 } }
    State.reset.m.chip.mod.st = .unpowered ∧ (on .standby id).m.chip.mod.st ≠ .unpowered ∧ (on .standby id).m.chip.mc[(1 : Fin 2)].core = .running ∧
    (on .standby id).m.chip.mc[(1 : Fin 2)].sending = true ∧ stop.m.chip.mod.stopReq = some 5 ∧ stop.m.chip.mod.st = .coolantReady := by decide +kernel
set_option maxRecDepth 100000 in
theorem witness_ControlFrameJudged :
    let sup : Bytes := [0, 0, 0, 0] ++ (List.replicate 16 [(0 : Byte), 0, 8, 0]).flatten
    let blow : Bytes := [0xE8, 3, 0, 0, 0, 0, 0, 0]
    let hold := mkFrame 1 32 5 1 0 0 sup
    let newest := mkFrame 3 0 5 10000 0 0 blow
    let old := mkFrame 3 0 5 0xFFFFFFFF 0 0 blow
    let stat := mkFrame 0x82 0 5 7 0 15 (List.replicate 64 0)
    let s := on .serving id
    let good := fun (r : Receiver) (b : Bytes) (fl : Byte) (q : W32) => (parseFrame b).any fun f =>
      decide (f.kind = r.kind ∧ f.pay.length = payLen r.kind ∧ payloadOk f.kind f.pay = true ∧ f.flags = fl ∧ f.state ≤ 8 ∧ fieldLe b 12 4 = 0 ∧ f.seq = q)
    parseFrame [] = none ∧ s.m.chip.mod.st ≠ .unpowered ∧ s.m.chip.mod.st ≠ .ochre ∧ bit s.m.chip.pwr.good 1 = true ∧
    good (.sup 15) hold 32 1 = true ∧ good .blower newest 0 10000 = true ∧ good .blower old 0 0xFFFFFFFF = true ∧
    bit (32 : Byte) 5 = true ∧ bit (32 : Byte) 2 = false ∧ ((1 : W32) - s.m.chip.recv[(15 : Fin 19)].seq).toNat = 1 ∧
    ((10000 : W32) - s.m.chip.recv[(17 : Fin 19)].seq).toNat = 10000 ∧ 10000 < ((0xFFFFFFFF : W32) - s.m.chip.recv[(17 : Fin 19)].seq).toNat ∧
    (parseFrame stat).any (fun f => decide (f.kind = 0x82 ∧ f.pay.length = 64 ∧ f.index ≤ 15)) = true ∧ s.m.chip.mc[(0 : Fin 2)].core = .running := by decide +kernel
theorem witness_SelfTestOutcomes :
    let s0 := on .standby fun c => { (c.onMc 1 fun m => { m with disagree := true }) with pair := { c.pair with link := false } }
    let s1 := on .standby fun c => { c with mc := c.mc.map (fun m => { m with round := true }), pair := { c.pair with active := 1 } }
    let s2 := on .standby fun c => { c with pair := { c.pair with alarm := true } }
    s0.m.chip.mc[(1 : Fin 2)].core = .running ∧ s0.m.chip.mc[(1 : Fin 2)].disagree = true ∧ s0.m.chip.mc[(1 : Fin 2)].round = false ∧
    s0.m.chip.mc[(1 : Fin 2)].roundEnd = none ∧ s0.m.chip.pair.link = false ∧ s0.m.chip.mc[other 1].disagree = false ∧
    (∀ k : Fin 2, s1.m.chip.mc[k].round = true) ∧ s1.m.chip.pair.active = 1 ∧ s1.m.chip.mc[(0 : Fin 2)].core = .running ∧ s1.m.chip.mc[(0 : Fin 2)].sending = true ∧
    (1 : Byte) ≠ 0 ∧ s2.m.chip.pair.alarm = true ∧ ∀ k : Fin 2, s2.m.chip.mc[k].disagree = false := by decide +kernel
theorem witness_TakeoverAndSilence :
    let s := on .standby id
    let t := on .standby fun c => c.onMc 1 fun m => { m with core := .silent, sending := false }
    let q := on .standby fun c => { c with pair := { c.pair with active := 0xFF }, mc := c.mc.map fun m => { m with core := .silent, sending := false } }
    s.m.chip.pair.active = 0 ∧ s.m.chip.mc[(1 : Fin 2)].core = .running ∧ s.m.chip.mc[(1 : Fin 2)].sending = true ∧ s.m.chip.pair.active ≠ Mc.b.ix.val ∧
    s.m.chip.mc[Mc.a.ix].sending = true ∧ s.m.chip.pair.active = Mc.a.ix.val ∧ s.m.chip.mc[other Mc.a.ix].sending = true ∧ s.m.chip.pair.link = true ∧
    t.m.chip.mc[Mc.b.ix].core = .silent ∧ t.m.chip.mc[Mc.b.ix].lock = false ∧ t.m.chip.mc[other Mc.b.ix].core = .running ∧
    t.m.chip.mc[other Mc.b.ix].sending = true ∧ t.m.chip.mc[other Mc.b.ix].hold = 0 ∧ q.m.chip.mc[Mc.a.ix].core = .silent ∧ q.m.chip.mc[Mc.a.ix].lock = false ∧
    q.m.chip.mc[other Mc.a.ix].core = .silent ∧ q.m.chip.pair.active = 0xFF := by decide +kernel
theorem witness_RestartAndRejoin :
    let s := on .standby id
    let alone := on .standby fun c => c.onMc 1 fun m => { m with core := .off, sending := false }
    let back := on .standby fun c => { (c.onMc 0 fun m => { m with core := .rejoining, sending := false }) with pair := { c.pair with active := 1 } }
    let met := on .standby fun c => { c with mc := updAll c.mc fun i m =>
      if i = 0 then { m with core := .rejoining, sending := false, inStep := true, boundary := some 2000 } else { m with boundary := some 2000, seq := 2000 } }
    let scrap := on .standby fun c => c.onMc 1 fun m => { m with kept := some [] }
    s.m.chip.mc[Mc.b.ix].core = .running ∧ s.m.chip.mc[Mc.b.ix].kept = none ∧ s.m.chip.mc[other Mc.b.ix].core = .running ∧ s.m.chip.mc[other Mc.b.ix].sending = true ∧
    s.m.chip.mc[other Mc.b.ix].hold = 0 ∧ scrap.m.chip.mc[Mc.b.ix].core = .running ∧ scrap.m.chip.mc[Mc.b.ix].kept = some [] ∧ alone.m.chip.mc[Mc.a.ix].kept = none ∧ alone.m.chip.mc[Mc.a.ix].core = .running ∧ alone.m.chip.mc[other Mc.a.ix].core = .off ∧
    back.m.chip.mc[Mc.a.ix].core = .rejoining ∧ back.m.chip.mc[Mc.a.ix].lock = false ∧ back.m.chip.pair.active = 1 ∧
    back.m.chip.mc[Mc.a.ix].boundary = none ∧ met.m.chip.mc[Mc.a.ix].core = .rejoining ∧ met.m.chip.mc[Mc.a.ix].lock = false ∧ met.m.chip.pair.link = true ∧
    met.m.chip.mc[Mc.a.ix].inStep = true ∧ met.m.chip.mc[Mc.a.ix].boundary = some 2000 ∧ met.m.chip.mc[other Mc.a.ix].boundary = some 2000 ∧
    met.m.chip.mc[other Mc.a.ix].seq = 2000 := by decide +kernel
theorem witness_CoresStopWakeMirror :
    let s := on .standby fun c => { c with mc := c.mc.map (fun m => { m with val := [(okey 0x1017 0, 0)] }) }
    let stopped := on .standby fun c => c.onMc 0 fun m => { m with core := .stopped, sending := false }
    s.m.chip.mayStop 1 = true ∧ stopped.m.chip.mc[Mc.a.ix].core = .stopped ∧ Accepts (as 1 .standby id) cl 0x4801 3 [3] true ∧
    s.m.chip.mc[Mc.b.ix].core = .running ∧ Mc.b.ix ≠ s.m.chip.act ∧ s.m.chip.mc[Mc.b.ix].jserial < 1 ∧ s.m.chip.mc[Mc.b.ix].journal.length < 1023 ∧
    storesValue (okey 0x2400 3 / 256) (okey 0x2400 3 % 256) = true ∧ storesValue (okey 0x5040 1 / 256) (okey 0x5040 1 % 256) = false ∧
    s.m.chip.served = true ∧ s.m.chip.pair.handover = none ∧ s.m.chip.mc[other s.m.chip.act].core = .running := by unfold Accepts Serves; decide +kernel
/-- A state with one slot of both controllers changed. -/
def slot (n : Fin 32) (ms : ModState) (f : Slot → Slot) : State :=
  as 1 ms fun c => { c with mc := c.mc.map (fun m => { m with slots := upd m.slots n f }) }
theorem witness_SlotsCreatedAndDestroyed :
    let s := slot 31 .standby fun x => { x with st := .stopped }
    Accepts s cl 0x4020 1 [3] true ∧ Accepts s cl 0x4020 3 (wordBytes (0x4001F : W32)) true ∧
    slotHandle 31 s.m.chip.mc[s.m.chip.act].slots[(31 : Fin 32)] = (0x4001F : W32).toNat ∧ s.m.chip.mc[s.m.chip.act].slots[(31 : Fin 32)].st = .stopped := by
  unfold Accepts Serves; decide +kernel
theorem witness_SlotCommandsMove :
    let s := fun (x : SlotSt) => slot 31 .standby fun y => { y with st := x, code := 1 }
    let st := fun (x : SlotSt) => (s x).m.chip.mc[(s x).m.chip.act].slots[(31 : Fin 32)].st
    Accepts (slot 0 .standby fun y => { y with st := .stopped }) cl (slotBase 0) 3 [1] true ∧ st .stopped = .stopped ∧
    Accepts (s .running) cl (slotBase 31) 3 [2] true ∧ Accepts (s .frozen) cl (slotBase 31) 3 [2] true ∧ Accepts (s .faulted) cl (slotBase 31) 3 [2] true ∧
    Accepts (s .running) cl (slotBase 31) 3 [3] true ∧ Accepts (s .frozen) cl (slotBase 31) 3 [4] true ∧ Accepts (s .faulted) cl (slotBase 31) 4 [1] true ∧
    st .running = .running ∧ st .frozen = .frozen ∧ st .faulted = .faulted ∧ Accepts (s .running) cl (slotBase 31 + 7) 8 [1] true ∧
    Accepts (s .running) cl (slotBase 31 + 7) 8 [2] true := by unfold Accepts Serves; decide +kernel
theorem witness_LoopEventsAct :
    let s := slot 0 .serving fun x => { x with st := .running, late := 1, test := 1, ym := 100000 }
    let t := slot 0 .serving fun x => { x with st := .running, late := 2 }
    let d := on .serving fun c => { c with mc := c.mc.map (fun m => { m with disp := { m.disp with holding := true, recovering := true }, val := [(okey (slotBase 0) 0xD, 1)] }) }
    let e := { d with m := d.m.on fun c => { c with mc := c.mc.map (fun m => { m with slots := upd m.slots 0 (fun x => { x with st := .running, foTime := 20000 }) }) } }
    let x := fun (u : State) => u.m.chip.mc[(0 : Fin 2)].slots[(0 : Fin 32)]
    (x s).st = .running ∧ computes s.m.chip.mod.st (s.m.chip.slotCls 0 0) = true ∧ (x s).late < 2 ∧ 2 ≤ (x t).late ∧ (x e).st = .running ∧
    e.m.chip.slotNat 0 0 0 0x11 = 0 ∧ e.m.chip.slotObj 0 0 0 0xD ≠ 0 ∧ 0 < (x e).foTime ∧ msecs (e.m.chip.slotNat 0 0 0 0xE) ≤ (x e).foTime ∧
    (∀ i : Fin 2, s.m.chip.mc[i].slots[(0 : Fin 32)].test = 1) ∧
    (let u := slot 0 .serving fun x => { x with test := 1 }
     let v := { u with m := u.m.on fun c => { c with time := 100 } }
     let seq := v.m.chip.mc[v.m.chip.act].seq.toNat
     let due := seq % 100 = 0 ∧ seq % divider (v.m.chip.slotCls v.m.chip.act 0) = v.m.chip.slotNat v.m.chip.act 0 0 6
     due ∧ v.m.chip.mc[v.m.chip.act].slots[(0 : Fin 32)].testAt + 100 ≤ v.m.chip.time ∧ (∀ i : Fin 2, v.m.chip.mc[i].slots[(0 : Fin 32)].test = 1) ∧
     ¬u.m.chip.mc[u.m.chip.act].slots[(0 : Fin 32)].testAt + 100 ≤ u.m.chip.time) ∧ (∀ i : Fin 2, d.m.chip.mc[i].disp.holding = true ∧ d.m.chip.mc[i].disp.recovering = true) ∧
    Accepts (as 1 .standby id) cl 0x4600 4 [1] true ∧ Accepts (as 1 .standby id) cl 0x4600 4 [2] true ∧
    (let u := as 1 .standby fun c => { c with mc := c.mc.map (fun m => { m with cap := { m.cap with status := 2 } }) }
     Accepts u cl 0x4600 4 [3] true ∧ u.m.chip.mc[u.m.chip.act].cap.status = 2) := by unfold Accepts Serves; decide +kernel
/-- What a tick reads of a module at rest. -/
def sensors : SensorIn := ⟨some 300, some 300, some 100, some 10, 0, false, false, false, false, false⟩
def tickIn : TickIn :=
  { tj := Vector.replicate 128 400, power := Vector.replicate 16 0, volts := 5400, amps := 100, auxMv := 12000, a := sensors, b := sensors, periods := [],
    loopUa := 4000, rpm := Vector.replicate 2 0, motorMa := Vector.replicate 2 0, meshRetries := [], errors := [] }
theorem witness_ArbitrationBoundsTheGroup :
    let s := slot 0 .serving fun x => { x with st := .running, seeded := true, out := true, om := 20000 }
    let low := slot 0 .serving fun x => { x with st := .running, seeded := true, out := true, om := -1 }
    let c := s.m.chip
    let q : Post := ⟨false, true, 100, 0, 0, 50⟩
    let track := c.tracking 0
    0 ∈ c.groupSlots 0 ∧ ((min (c.ceilTop 0) track : Nat) : Int) < 20000 ∧ (c.arbitrate 0).mc[(0 : Fin 2)].applied + c.valOf 0 (okey 0x4000 2) < 20000 ∧
    0 ∈ low.m.chip.groupSlots 0 ∧ (-1 : Int) ≤ (min (low.m.chip.ceilTop 0) (low.m.chip.tracking 0) : Nat) ∧ c.mod.rampFrom = none ∧ 0 < q.step ∧ q.step ≤ 3120 ∧ q.allow = true ∧
    c.mod.st ≠ .unpowered ∧ (c.tickRead tickIn).mc[(0 : Fin 2)].core = .running ∧ ((c.tickRead tickIn).mcTick 0 tickIn).mc[(1 : Fin 2)].core = .running ∧
    (c.tickRead tickIn).pair.active = (0 : Fin 2).val ∧ (c.tickRead tickIn).pair.handover = none := by decide +kernel
/-- Slot 0 of class 0 outside the group, with a law. -/
def sampled (law : Nat) (f : Slot → Slot) : State := on .serving fun c => { c with mc := c.mc.map fun m => { m with
  val := [(okey (slotBase 0) 5, 0), (okey (slotBase 0) 7, 1), (okey (slotBase 0) 8, 2), (okey (slotBase 0) 0x11, law)],
  slots := upd m.slots 0 (fun x => f { x with st := .running }), tel := m.tel.map fun t => { t with seen := true } } }
theorem witness_SlotsSampleAndSeed :
    let pre := fun (s : State) (due : Bool) =>
      let p := s.m.chip.tickRead tickIn
      let c := ((p.framesOut 0).latchInputs 0 tickIn).beforeSlots 0 tickIn
      p.mc[(0 : Fin 2)].core = .running ∧ p.pair.active = (0 : Fin 2).val ∧ p.pair.handover = none ∧ c.mc[(0 : Fin 2)].hold = 0 ∧ c.slotOut 0 0 ≠ 1 ∧
      c.mc[(0 : Fin 2)].slots[(0 : Fin 32)].st = .running ∧ c.slotCls 0 0 ≤ 3 ∧ computes c.mod.st (c.slotCls 0 0) = true ∧ c.inputFault 0 (c.slotIn 0 0) = false ∧
      c.inputAbsent 0 (c.slotIn 0 0) = false ∧ (due = true → c.mc[(0 : Fin 2)].slots[(0 : Fin 32)].seeded = true ∧
        c.mc[(0 : Fin 2)].slots[(0 : Fin 32)].lateNow = false ∧ c.mc[(0 : Fin 2)].seq.toNat % divider (c.slotCls 0 0) = c.slotNat 0 0 0 6) ∧
      (due = false → c.mc[(0 : Fin 2)].slots[(0 : Fin 32)].seeded = false ∧ c.mc[(0 : Fin 2)].slots[(0 : Fin 32)].toOwn = false) ∧
      (c.slotNat 0 0 0 0x11 = 1 → 0 ≤ c.slotObj 0 0 0 0x12 ∧ c.mc[(0 : Fin 2)].slots[(0 : Fin 32)].k < c.slotNat 0 0 0 0x13)
    pre (sampled 0 fun x => { x with seeded := true }) true ∧ pre (sampled 1 fun x => { x with seeded := true }) true ∧ pre (sampled 0 id) false ∧
    (sampled 0 id).m.chip.slotNat 0 0 0 0x11 ≠ 1 ∧ (slot 0 .serving id).m.chip.slotOut 0 0 = 1 ∧ (∀ a : Fin 3, ∀ b : Fin 3, a < b → (a.val : Int) < (b.val : Int)) := by
  refine ⟨?_, ?_, ?_, ?_, ?_, ?_⟩ <;> decide +kernel
theorem witness_AuxiliaryPowerComesAndGoes :
    let s := at' fun c => { c with mod := { c.mod with st := .aux }, mc := c.mc.map (fun m => { m with core := .starting }) }
    let t := at' fun c => { (c.onMc 0 fun m => { m with core := .starting }) with mod := { c.mod with st := .aux } }
    State.reset.m.chip.mod.st = .unpowered ∧ s.m.chip.mc[Mc.b.ix].core = .starting ∧ s.m.chip.mc[other Mc.b.ix].core = .starting ∧
    s.m.chip.mod.st = .aux ∧ s.m.chip.pair.active = 0xFF ∧ t.m.chip.mc[other Mc.a.ix].core = .off := by decide +kernel
/-- Standby with every check of the permission met, in a phase of the opening. -/
def ready (o : OpenPh) (f : Chip → Chip) : State := as 1 .standby fun c => f { c with
  mod := { c.mod with opening := o }, pwr := { c.pwr with hotSwap := true },
  pins := { c.pins with presence := true, engageA := true, engageB := true, ejector := true, busbar := 4400 },
  ad := { c.ad with loopSeen := Vector.replicate 2 true, boost := true } }
theorem witness_CoolantPathOpens :
    let s := ready .idle fun c => { c with mc := c.mc.map (fun m => { m with val := [(okey 0x2400 3, 2)] }) }
    let f := ready .filling id
    let h := ready (.holding 300) id
    let l := ready .idle fun c => { c with mc := c.mc.map (fun m => { m with val := [(okey 0x2400 3, 2)] }), ad := { c.ad with ch := c.ad.ch.map fun x => { x with locked := true } } }
    s.m.chip.mod.st = .standby ∧ s.m.chip.mod.opening = .idle ∧ s.m.chip.mod.autoDone = false ∧ s.m.chip.val (okey 0x2400 3) ≠ 0 ∧ s.m.chip.sec.ret = 0 ∧
    s.m.chip.permitChecks = true ∧ Accepts s cl 0x2400 2 [1] true ∧ Accepts s cl 0x2400 2 [2] true ∧ Accepts f cl 0x2400 2 [0] true ∧ f.m.chip.mod.st = .standby ∧
    Accepts (on .coolantReady id) cl 0x2400 2 [0] true ∧ Accepts (on .serving id) cl 0x2400 2 [0] true ∧ f.m.chip.mod.opening = .filling ∧ (200 : Int) ≤ 200 ∧
    (199 : Int) < 200 ∧ h.m.chip.mod.opening = .holding 300 ∧ ((300 : Int) - 250).toNat ≤ h.m.chip.val (okey 0x2400 0xD) ∧
    h.m.chip.val (okey 0x2400 0xD) < ((300 : Int) - 249).toNat ∧ s.m.chip.ad.ch[(0 : Fin 10)].locked = false ∧ h.m.chip.ad.ch[(0 : Fin 10)].locked = false ∧
    l.m.chip.mod.st = .standby ∧ l.m.chip.mod.opening = .idle ∧ l.m.chip.mod.autoDone = false ∧ l.m.chip.val (okey 0x2400 3) ≠ 0 ∧ l.m.chip.permitChecks = true ∧
    l.m.chip.sec.ret = 0 ∧ l.m.chip.ad.ch[(0 : Fin 10)].locked = true := by unfold Accepts Serves; decide +kernel
/-- Package-on in a phase of the rail sequence. -/
def rails (ph : RailPh) (en : BitVec 6) (f : Chip → Chip) : State := on .packageOn fun c => f { c with
  pwr := { c.pwr with phase := ph, enabled := en, good := 0, laser := false }, pins := { c.pins with engageA := true, engageB := true, ejector := true } }
theorem witness_RailsRiseInOrder :
    let ok := fun (s : State) (k : Nat) => s.m.chip.pwr.phase = .up k ∧ bit s.m.chip.pwr.enabled k = true
    let done := on .packageOn fun c => { c with
      tile := Vector.replicate 1024 { resetTile with exec := .idle }, gmc := { c.gmc with trainDone := true },
      hif := { c.hif with port := c.hif.port.map (fun p => { p with st := 1 }) }, str := { c.str with discDone := true } }
    ok (rails (.up 0) 1 id) 0 ∧ ok (rails (.up 3) 15 id) 3 ∧ ok (rails (.up 1) 3 id) 1 ∧ ok (rails (.up 5) 63 id) 5 ∧ (rails (.up 5) 63 id).m.chip.interlock = true ∧
    (rails (.up 5) 63 id).m.chip.mod.st = .packageOn ∧ bit (on .serving id).m.chip.pwr.enabled 5 = true ∧ (on .serving id).m.chip.mod.st = .serving ∧
    ok (rails (.up 4) 31 id) 4 ∧ ok (rails (.up 2) 7 id) 2 ∧ (on .draining id).m.chip.mod.st = .draining ∧ (rails .waitRetry 0 id).m.chip.mod.st = .packageOn ∧
    (rails .waitRetry 0 id).m.chip.pwr.phase = .waitRetry ∧ done.m.chip.mod.st = .packageOn ∧ done.m.chip.mod.stopReq = none ∧ done.m.chip.pwr.laser = true ∧
    done.m.chip.pendingStep done.m.chip.str.discDone = 0 := by decide +kernel
theorem witness_HotPlugActs :
    let sb := on .standby id
    let sv := on .serving id
    let ask := fun (ms : ModState) => on ms fun c => { c with pins := { c.pins with request := true } }
    let pk := rails (.up 5) 31 fun c => { c with pins := resetPins }
    let dr := on .draining fun c => { c with mod := { c.mod with drain := .commands } }
    sb.m.chip.mod.st ≠ .unpowered ∧ sb.m.chip.pwr.hotSwap = false ∧ sv.m.chip.pwr.hotSwap = true ∧ SwapCause.overCurrent ≠ .auxLost ∧ sv.m.chip.mod.st = .serving ∧
    (ready .idle id).m.chip.pwr.hotSwap = true ∧ (ready .idle id).m.chip.mod.st = .standby ∧ sv.m.chip.pins.ignored = false ∧ sv.m.chip.pins.request = false ∧
    (on .ochre id).m.chip.mod.st = .ochre ∧ (on .ochre id).m.chip.pins.ignored = false ∧ (on .ochre id).m.chip.pins.request = false ∧
    (ask .draining).m.chip.pins.request = true ∧ dr.m.chip.mod.st = .draining ∧ dr.m.chip.mod.drain = .commands ∧ sv.m.chip.pwr.phase ≠ .up 5 ∧
    pk.m.chip.pwr.phase = .up 5 ∧ bit pk.m.chip.pwr.enabled 5 = false ∧ pk.m.chip.lockClosed = true ∧ (on .ochre fun c => { c with pwr := { c.pwr with hotSwap := true } }).m.chip.pwr.hotSwap = true ∧
    (on .packageOn id).m.chip.mod.st = .packageOn ∧ sv.m.chip.pwr.laser = true ∧ bit sv.m.chip.pwr.enabled 5 = true ∧ (4400 : Nat) ≤ 4400 ∧ (6000 : Nat) ≤ 6000 ∧
    (∀ ms ∈ [ModState.coolantReady, .packageOn, .serving, .draining, .ochre], (ready .idle id).m.chip.mod.st ≠ ms) := by decide +kernel
theorem witness_OrphansTripsAndClamps :
    let s := on .coolantReady fun c => { c with recv := c.recv.map (fun r => { r with timerOn := true }) }
    let t := on .standby fun c => { c with recv := c.recv.map (fun r => { r with timerOn := true }) }
    let l := on .coolantReady fun c => { c with ad := { c.ad with loop := Vector.replicate 2 3 } }
    let a := as 1 .tripped fun c => { c with ad := { c.ad with to1 := some 400, to2 := some 400 } }
    let k := on .serving fun c => c.onSk 15 fun x => { x with clamp := true }
    let wet := fun (p q : Nat) => on .standby fun c => { c with ad := { c.ad with loop := #v[p, q] } }
    let read := fun (n : Nat) => BitVec.ofNat 16 n
    let hot := fun (n : Nat) => on .serving fun c => c.onSk 15 fun x => { x with clamp := true, tj := (Vector.replicate 8 (0x8000 : W16)).set 7 (read n) }
    s.m.chip.recv[Receiver.ad.ix].timerOn = true ∧ s.m.chip.recv[(Receiver.sup 15).ix].timerOn = true ∧ s.m.chip.mod.st = .coolantReady ∧
    t.m.chip.recv[(16 : Fin 19)].timerOn = true ∧ t.m.chip.mod.st = .standby ∧ t.m.chip.mod.st ≠ .unpowered ∧ (3 : BitVec 2) ≠ 0 ∧
    l.m.chip.ad.loop[(0 : Fin 2)] = 3 ∧ l.m.chip.ad.loop[(1 : Fin 2)] = 3 ∧ l.m.chip.mod.st = .coolantReady ∧ Accepts a cl 0x3800 2 [1] true ∧
    bit (on .serving id).m.chip.pwr.good 1 = true ∧ (on .serving id).m.chip.sk[(15 : Fin 16)].clamp = false ∧ 1680 ≤ (1680 : W16).toInt ∧
    k.m.chip.sk[(15 : Fin 16)].clamp = true ∧ (wet 1 2).m.chip.mod.st ≠ .unpowered ∧ 1840 ≤ (1840 : W16).toInt ∧ (1839 : W16).toInt < 1840 ∧
    bit (on .standby id).m.chip.pwr.good 1 = false ∧ 1200 < (1201 : W16).toInt ∧ (1920 : W16).toInt ≤ 1920 ∧ (1200 : W16).toInt ≤ 1200 ∧ 1920 < (1921 : W16).toInt ∧
    (wet 1 2).m.chip.ad.loop[(0 : Fin 2)] = 1 ∧ (wet 1 2).m.chip.ad.loop[(1 : Fin 2)] = 2 ∧ (wet 2 3).m.chip.ad.loop[(0 : Fin 2)] = 2 ∧
    (wet 2 3).m.chip.ad.loop[other (0 : Fin 2)] = 3 ∧ (∀ k : Fin 2, (wet 0 3).m.chip.ad.loop[k] ≠ 1 ∧ (wet 0 3).m.chip.ad.loop[k] ≠ 2) ∧
    read 1600 ≠ 0x8000 ∧ 1600 ≤ (read 1600).toInt ∧ (hot 1600).m.chip.sk[(15 : Fin 16)].tj[(7 : Fin 8)] = read 1600 ∧
    (∀ j : Fin 8, (hot 0x8000).m.chip.sk[(15 : Fin 16)].tj[j] = 0x8000) ∧ (hot 1599).m.chip.sk[(15 : Fin 16)].clamp = true ∧
    (hot 1599).m.chip.sk[(15 : Fin 16)].tj[(7 : Fin 8)] ≠ 0x8000 ∧
    (∀ j : Fin 8, (hot 1599).m.chip.sk[(15 : Fin 16)].tj[j] ≠ 0x8000 → ((hot 1599).m.chip.sk[(15 : Fin 16)].tj[j]).toInt < 1600) ∧
    (∀ st ∈ [ModState.packageOn, .serving, .draining], (on st fun c => { c with recv := c.recv.map (fun r => { r with timerOn := true }) }).m.chip.mod.st = st ∧
      (on st fun c => { c with recv := c.recv.map (fun r => { r with timerOn := true }) }).m.chip.recv[Receiver.blower.ix].timerOn = true) := by
  unfold Accepts Serves; decide +kernel
def coolant (f : Cool → Cool) : State := on .serving fun c => { c with mc := c.mc.map (fun m => { m with cool := f m.cool }) }
theorem witness_SensorElementsFault :
    let o := coolant fun x => { x with tout := #v[some 100, some 500], inlet := 300, model := some 30, modelValid := true }
    let i := coolant fun x => { x with ti := #v[some 300, some 325], tout := #v[some 325, none], outlet := 325, flow := some 1 }
    let q := coolant fun x => { x with fq := some 300, dp := some 100, fdp := 1, flow := some 1 }
    let x := fun (s : State) => s.m.chip.mc[s.m.chip.act].cool
    let far := fun (t : Int) => ((t : Rat) / 16 - (((x i).outlet : Rat) / 16 - i.m.chip.kq i.m.chip.act * (x i).pf / (i.m.chip.heatCap i.m.chip.act * 1))).abs
    outletBad o.m.chip.mc[if o.m.chip.pair.link then o.m.chip.act else 0].cool 0 = true ∧ (x i).ti[(0 : Fin 2)] = some 300 ∧ (x i).ti[(1 : Fin 2)] = some 325 ∧
    bit (x i).faulted 0 = false ∧ bit (x i).faulted 1 = false ∧ (x i).flow = some 1 ∧ (0 : Rat) < 1 ∧ 24 < ((300 : Int) - 325).natAbs ∧ measured (x i) = true ∧
    far 325 < far 300 ∧ far 300 ≤ far 300 ∧ (x q).fq = some 300 ∧ bit (x q).faulted 4 = false ∧ bit (x q).faulted 5 = false ∧ (x q).dp.isSome = true ∧ 1 ≤ (x q).fdp ∧
    (x q).fdp / 5 < ((300 : Rat) / 100 - (x q).fdp).abs ∧ measured (x q) = false := by decide +kernel
def chan (ms : ModState) (f : Fin 10 → Chan → Chan) : State := as 1 ms fun c => { c with
  pwr := { c.pwr with hotSwap := true }, ad := { c.ad with boost := true, ch := updAll c.ad.ch f } }
theorem witness_ActuatorChannelsAct :
    let all := fun (p : ChPhase) => chan .coolantReady fun _ x => { x with phase := p, judged := true, mode := 2, duty := 60, freq := 100, pulsing := true, pDuty := 80, pFreq := 100 }
    let worn := chan .coolantReady fun k x => if k = 7 then { x with phase := .peak, judged := true, stuck := 2 } else x
    let hiSw := chan .coolantReady fun k x => if k = 7 then { x with phase := .waitSwitch } else x
    let ch := fun (s : State) (k : Fin 10) => s.m.chip.ad.ch[k]
    let off := chan .standby fun _ x => x
    let lit := fun (s : State) => (bit s.m.chip.pwr.enabled 5 = true → s.m.chip.interlock = true) ∧ (s.m.chip.pwr.phase = .up 5 → bit s.m.chip.pwr.enabled 5 = true)
    let one := fun (p : ChPhase) (n : Nat) => chan .coolantReady fun k x => if k.val = n then { x with phase := p, judged := true } else x
    let iso := chan .coolantReady fun k x => if k = 3 ∨ k = partner 3 then { x with phase := .peak } else x
    let low := chan .standby fun k x => if k = 0 then { x with probes := 2 } else if k = 8 then { x with phase := .hold } else x
    let fade := chan .coolantReady fun k x => if k = 4 then { x with phase := .waitSwitch, fading := true } else x
    isTrim 4 = true ∧ isTrim 7 = true ∧ (ch (all .peak) 4).phase = .peak ∧ (ch (all .peak) 4).fault ≠ 1 ∧ (∀ k : Fin 10, k.val < 4 → (ch (all .peak) k).phase ≠ .waitIso) ∧
    isIso 3 = true ∧ (all .peak).m.chip.mod.st ≠ .standby ∧ (∀ j : Fin 10, (ch (all .peak) j).fault ≠ 1) ∧ (ch (all .peak) 3).phase = .peak ∧
    (ch (all .peak) (partner 3)).phase = .peak ∧ (ch (all .peak) 4).judged = true ∧ (ch (all .peak) 4).stuck < 2 ∧ (ch worn 7).phase = .peak ∧
    (ch worn 7).judged = true ∧ 2 ≤ (ch worn 7).stuck ∧ (ch (all .waitBoost) 4).phase = .waitBoost ∧ (ch (all .waitSwitch) 4).phase = .waitSwitch ∧
    (ch (all .waitSwitch) 5).phase ≠ .peak ∧ (ch hiSw 6).phase ≠ .peak ∧ (ch hiSw 6).phase ≠ .waitSwitch ∧ (ch hiSw 7).phase = .waitSwitch ∧
    (ch (all .hold) 4).mode = 2 ∧ (ch (all .hold) 4).pulsing = true ∧ (ch (all .hold) 4).phase = .hold ∧ (ch (all .hold) 3).phase = .hold ∧ (40 : Nat) ≤ 40 ∧
    off.m.chip.ad.boost = true ∧ (ch off 8).phase = .off ∧ (ch off 3).phase = .off ∧ (ch off (partner 3)).phase = .off ∧ (ch off (partner 8)).phase = .off ∧
    off.m.chip.mod.opening ≠ .closing ∧ off.m.chip.mod.drain ≠ .closing ∧ Accepts off cl 0x3020 0xD (wordBytes (0x3FF : W16)) true ∧
    (ch (all .decay) 9).phase = .decay ∧ (all .peak).m.chip.pwr.laser = false ∧ off.m.chip.pwr.hotSwap = true ∧ (∀ k : Fin 10, (ch off k).phase ≠ .waitBoost) ∧
    (∀ p ∈ [ChPhase.peak, .hold, .waitBoost, .waitSwitch, .off], lit (one p 7)) ∧ lit off ∧ lit worn ∧ lit hiSw ∧ (∀ p ∈ [ChPhase.peak, .hold, .off], (ch (one p 7) 8).phase = .off) ∧
    (ch (one .peak 3) 3).phase = .peak ∧ (ch (one .peak 3) (partner 3)).phase = .off ∧ (ch iso 3).phase = .peak ∧ (ch iso (partner 3)).phase = .peak ∧ (ch iso 8).phase = .off ∧
    (∀ k : Fin 10, k.val < 4 → (ch iso k).phase ≠ .waitIso) ∧ lit iso ∧ (ch (one .hold 2) 2).phase = .hold ∧ (ch (one .hold 2) (partner 2)).phase ≠ .hold ∧
    (ch (all .hold) (partner 3)).phase = .hold ∧ (all .hold).m.chip.mod.st ≠ .standby ∧ (39 : Nat) < 40 ∧ isIso 0 = true ∧ 2 ≤ (ch low 0).probes ∧ (ch low 0).phase = .off ∧
    (ch low (partner 0)).phase = .off ∧ low.m.chip.ad.boost = true ∧ low.m.chip.mod.opening ≠ .closing ∧ low.m.chip.mod.drain ≠ .closing ∧ lit low ∧
    (ch low 8).phase = .hold ∧ (ch fade 4).phase ≠ .decay ∧ (ch fade 4).fading = true ∧ bit (0x3FF : W16) 9 = true ∧ bit (1 : W16) 9 = false ∧
    bit (1 : W16) (partner 9).val = false := by
  unfold Accepts Serves
  dsimp only
  repeat' apply And.intro
  all_goals decide +kernel
theorem witness_BlowersStallAndRetry :
    let s := on .serving fun c => { c with blow := c.blow.map (fun b => { b with duty := 1 }) }
    let t := on .serving fun c => { c with blow := c.blow.map (fun b => { b with stalled := true }) }
    let f := on .serving fun c => { c with blow := c.blow.map (fun b => { b with full := true }) }
    s.m.chip.pwr.hotSwap = true ∧ 0 < s.m.chip.blow[(1 : Fin 2)].duty ∧ s.m.chip.blow[(1 : Fin 2)].stalled = false ∧ t.m.chip.pwr.hotSwap = true ∧
    t.m.chip.blow[(0 : Fin 2)].stalled = true ∧ f.m.chip.pwr.hotSwap = true ∧ f.m.chip.blow[(0 : Fin 2)].full = true ∧ f.m.chip.blow[(0 : Fin 2)].stalled = false ∧ (50 : Nat) ≤ 50 ∧ (150 : Nat) ≤ 150 ∧ (49 : Nat) < 50 ∧ (150 : Nat) < 151 := by decide +kernel
/-- A word by its class, operation, four register fields and low bits. -/
def word (c o d a b x imm : Nat) : W64 := BitVec.ofNat 64 (c * 2 ^ 60 + o * 2 ^ 56 + d * 2 ^ 52 + a * 2 ^ 48 + b * 2 ^ 44 + x * 2 ^ 40 + imm)
/-- A served module whose tile 0 runs a plan of the words in plan slot 0. -/
def prog (ws : List W64) (f : Tile → Tile) : State := on .serving fun c => { (c.onTile 0 fun t => f { t with exec := .running, idle := 0, plan := some 0 }) with
  sk := c.sk.map (fun k => { k with st := .ready }),
  hif := { c.hif with plans := vput c.hif.plans 0 { resetPlan with st := .ready, kind := 2, imgs := [⟨0, ws, 0, 0, 0, 0, [], []⟩] } } }
/-- Packets wait in the mesh. -/
def sent (l : List MeshPkt) (s : State) : State := { s with m := s.m.on fun c => { c with mesh := { c.mesh with sync := l } } }
def t0 (s : State) : Tile := s.m.chip.tile[(0 : Fin 1024)]
def xs (a b d : Nat) : Vector W64 16 := (((Vector.replicate 16 (0 : W64)).set 1 (BitVec.ofNat 64 a)).set 2 (BitVec.ofNat 64 b)).set 3 (BitVec.ofNat 64 d)
theorem witness_AluComputes :
    let alu := fun (fn : Nat) => word 0 2 3 1 2 fn 0xFFFFFFFF
    let last := fun (w : W64) => ¬NextLoaded (prog [w] id) 0 ∧ (t0 (prog [w] id)).stopped = none
    let s := fun (w : W64) => prog [w, 0] id
    (∀ fn : Fin 16, Issues (s (alu fn.val)) 0 (alu fn.val) ⟨[.x 1, .x 2], [.x 3]⟩) ∧ iCls (alu 0) = 0 ∧ iOp (alu 0) = 2 ∧ iXc (alu 12) = 12 ∧ 13 ≤ iXc (alu 13) ∧
    NextLoaded (s (alu 0)) 0 ∧ (t0 (s (alu 13))).stopped = none ∧ iCls (word 0 3 3 0 0 0 7) = 0 ∧ iOp (word 0 3 3 0 0 0 7) = 3 ∧
    Issues (s (word 0 3 3 0 0 0 7)) 0 (word 0 3 3 0 0 0 7) ⟨[.x 3], [.x 3]⟩ ∧ Issues (s 0) 0 0 noUse ∧ NextLoaded (s 0) 0 ∧
    NextLoaded (s (word 0 3 3 0 0 0 7)) 0 ∧
    last (alu 12) ∧ last (word 0 3 3 0 0 0 7) ∧ last 0 ∧ Issues (prog [alu 12] id) 0 (alu 12) ⟨[.x 1, .x 2], [.x 3]⟩ ∧
    Issues (prog [word 0 3 3 0 0 0 7] id) 0 (word 0 3 3 0 0 0 7) ⟨[.x 3], [.x 3]⟩ ∧ Issues (prog [0] id) 0 0 noUse := by unfold Issues NextLoaded; decide +kernel
theorem witness_BranchesGoToTheirTarget :
    let br := fun (c t : Nat) => word 0 4 c 1 2 0 t
    let s := fun (w : W64) => prog [w, 0] fun t => { t with x := xs 2 3 0 }
    (∀ c : Fin 16, Issues (s (br c.val 1)) 0 (br c.val 1) ⟨[.x 1, .x 2], if c.val = 7 then [.x 1] else []⟩) ∧ iCls (br 7 1) = 0 ∧ iOp (br 7 1) = 4 ∧
    iXa (br 7 1) ≠ 0 ∧ xget (xs 2 3 0) 1 - 1 ≠ 0 ∧ fld (br 7 1) 0 13 < ((s (br 7 1)).m.chip.progOf 0).length ∧ ¬ xget (xs 2 3 0) 1 = xget (xs 2 3 0) 2 ∧
    iXd (br 1 1) ≤ 7 ∧ NextLoaded (s (br 1 1)) 0 ∧ ((s (br 0 2)).m.chip.progOf 0).length ≤ fld (br 0 2) 0 13 ∧ iXd (br 0 2) = 0 ∧ 8 ≤ iXd (br 8 0) ∧
    (t0 (s (br 8 0))).stopped = none ∧ Issues (prog [br 7 0] fun t => { t with x := xs 1 0 0 }) 0 (br 7 0) ⟨[.x 1, .x 2], [.x 1]⟩ ∧ xget (xs 1 0 0) 1 - 1 = 0 ∧
    ¬NextLoaded (prog [br 7 0] fun t => { t with x := xs 1 0 0 }) 0 ∧ (t0 (prog [br 7 0] fun t => { t with x := xs 1 0 0 })).stopped = none := by
  unfold Issues NextLoaded; decide +kernel
theorem witness_SpecialRegistersReadAndWrite :
    let mfs := fun (n : Nat) => word 0 5 3 0 0 0 n
    let last := fun (w : W64) => ¬NextLoaded (prog [w] id) 0 ∧ (t0 (prog [w] id)).stopped = none
    let mts := fun (n : Nat) => word 0 6 0 1 0 0 n
    let s := fun (w : W64) => prog [w, 0] id
    (∀ n ∈ [0, 2, 3, 11, 31, 7, 15, 32], Issues (s (mfs n)) 0 (mfs n) ⟨[], [.x 3]⟩) ∧ (∀ n ∈ [2, 3, 6, 7], Issues (s (mts n)) 0 (mts n) ⟨[.x 1], []⟩) ∧ iCls (mfs 3) = 0 ∧
    iOp (mfs 3) = 5 ∧ iOp (mts 3) = 6 ∧ fld (mfs 11) 0 8 = 8 + (3 : Fin 4).val ∧ fld (mfs 31) 0 8 = 16 + (15 : Fin 16).val ∧ (t0 (s 0)).mat = none ∧ (t0 (s 0)).vec = none ∧
    (t0 (s 0)).sfu = none ∧ NextLoaded (s (mfs 3)) 0 ∧ NextLoaded (s (mts 3)) 0 ∧ (t0 (s (mfs 7))).stopped = none ∧ NextLoaded (s (mfs 2)) 0 ∧
    last (mfs 31) ∧ last (mts 3) ∧ (t0 (prog [mts 3] id)).vec = none ∧
    Issues (prog [mfs 31] id) 0 (mfs 31) ⟨[], [.x 3]⟩ ∧ Issues (prog [mts 3] id) 0 (mts 3) ⟨[.x 1], []⟩ := by unfold Issues NextLoaded; decide +kernel
/-- A tile that waits with `WAIT` on counter 5 for 4, in another execution state and with `n` step starts. -/
def waitW : W64 := word 6 1 0 0 0 5 4
def ctrs (a b : W32) : Vector W32 16 := vput (vput (Vector.replicate 16 (0 : W32)) 0 a) 5 b
def sync (v : W64) (a b : W32) : State := prog [v, 0] fun t => { t with c := ctrs a b }
def syncAt (ex : Exec) (n : Nat) : State :=
  prog [waitW, 0] fun t => { t with exec := ex, idle := 1, c := ctrs 0 0xFFFFFFFD, starts := List.replicate n (Vector.replicate 4 0) }
def sigW (k t n : Nat) : W64 := BitVec.ofNat 64 (6 * 2 ^ 60 + k * 2 ^ 54 + t * 2 ^ 44 + n * 2 ^ 40 + 9)
theorem witness_SynchronisationFollowsItsCounters_steps :
    let e := word 0 1 0 0 0 0 0
    let f := word 1 2 0 0 0 0 0
    let last := fun (v : W64) => prog [v] fun t => { t with c := ctrs 0 4 }
    Issues (sync e 1 0) 0 e noUse ∧ iCls e = 0 ∧ iOp e = 1 ∧ 1 ≤ ((t0 (sync e 1 0)).c[(0 : Fin 16)]).toNat ∧ (t0 (sync e 1 0)).entry < ((sync e 1 0).m.chip.progOf 0).length ∧
    Issues (sync e 0 0) 0 e noUse ∧ ((t0 (sync e 0 0)).c[(0 : Fin 16)]).toNat = 0 ∧ Issues (sync waitW 0 4) 0 waitW noUse ∧ iCls waitW = 6 ∧ iOp waitW = 1 ∧
    iXc waitW = (5 : Fin 16).val ∧ fld waitW 0 32 ≤ ((t0 (sync waitW 0 4)).c[(5 : Fin 16)]).toNat ∧ NextLoaded (sync waitW 0 4) 0 ∧ Issues (sync waitW 0 3) 0 waitW noUse ∧
    ((t0 (sync waitW 0 3)).c[(5 : Fin 16)]).toNat < fld waitW 0 32 ∧ Issues (sync f 0 0) 0 f noUse ∧ iCls f = 1 ∧ iOp f = 2 ∧ (t0 (sync f 0 0)).dm = [] ∧
    NextLoaded (sync f 0 0) 0 ∧ ¬NextLoaded (last waitW) 0 ∧ (t0 (last waitW)).stopped = none ∧ Issues (last waitW) 0 waitW noUse ∧
    fld waitW 0 32 ≤ ((t0 (last waitW)).c[(5 : Fin 16)]).toNat ∧ ¬NextLoaded (last f) 0 ∧ (t0 (last f)).stopped = none ∧ Issues (last f) 0 f noUse ∧ (t0 (last f)).dm = [] := by
  unfold Issues NextLoaded; decide +kernel
theorem witness_SynchronisationFollowsItsCounters_signals :
    let s := sync 0 0 0
    Issues (sync (sigW 0 1023 1) 0 0) 0 (sigW 0 1023 1) noUse ∧ iOp (sigW 0 1023 1) = 0 ∧ Mach.signalOk s.m.chip 0 1023 1 = true ∧ Mach.signalOk s.m.chip 3 7 0 = true ∧
    Issues (sync (sigW 3 7 0) 0 0) 0 (sigW 3 7 0) noUse ∧ NextLoaded (sync (sigW 3 7 0) 0 0) 0 ∧ NextLoaded (sync (sigW 0 1023 1) 0 0) 0 ∧
    Mach.signalOk s.m.chip 0 1023 0 = false ∧ Issues (sync (sigW 0 1023 0) 0 0) 0 (sigW 0 1023 0) noUse ∧ (t0 s).stopped = none ∧ (t0 s).dm = [] ∧ s.m.chip.errs = [] ∧
    Issues (sync (sigW 2 3 4) 0 0) 0 (sigW 2 3 4) noUse ∧ Mach.signalOk s.m.chip 2 3 4 = true ∧ NextLoaded (sync (sigW 2 3 4) 0 0) 0 := by
  unfold Issues NextLoaded; decide +kernel
theorem witness_SynchronisationFollowsItsCounters_arrivals :
    let x := syncAt
    (t0 (x .running 0)).exec ≠ .faulted ∧ (t0 (x .running 0)).exec ≠ .waiting ∧ ((t0 (x .running 0)).c[(5 : Fin 16)]).toNat + (2 : W32).toNat ≤ 0xFFFFFFFF ∧
    0xFFFFFFFF < ((t0 (x .running 0)).c[(5 : Fin 16)]).toNat + (3 : W32).toNat ∧ (t0 (x .waiting 0)).idle ≠ 2 ∧ (t0 (x .waiting 0)).exec = .waiting ∧
    ((x .waiting 0).m.chip.progOf 0)[(t0 (x .waiting 0)).pc]? = some waitW ∧ fld waitW 0 32 ≤ ((t0 (x .waiting 0)).c[(5 : Fin 16)]).toNat + (2 : W32).toNat ∧
    NextLoaded (x .waiting 0) 0 ∧
    (let p : MeshPkt := ⟨.tile 1023, .tile 0, .add 5 2⟩
     let q : MeshPkt := ⟨.runner, .tile 0, .start (Vector.replicate 4 7)⟩
     let e := word 0 1 0 0 0 0 0
     let w := sent [q] (prog [e, 0] fun t => { t with exec := .waiting, idle := 1 })
     (sent [p, q] (x .running 0)).m.chip.mesh.due p = true ∧ Still ((sent [p, q] (x .running 0)).m.chip.mesh.took p) ∧
     Still ((sent [p, q] (x .halted 1)).m.chip.mesh.took q) ∧ Still (w.m.chip.mesh.took q) ∧ (x .running 0).m.chip.mesh.due p = false ∧
     (sent [p, q] (x .halted 1)).m.startDue 0 (Vector.replicate 4 7) = some q ∧ w.m.startDue 0 (Vector.replicate 4 7) = some q ∧ (t0 w).exec = .waiting ∧
     (t0 w).idle ≠ 2 ∧ (t0 w).starts = [] ∧ (t0 w).c[(0 : Fin 16)] = 0 ∧ (w.m.chip.progOf 0)[(t0 w).pc]? = some e ∧ iCls e = 0 ∧ iOp e = 1 ∧
     (t0 w).entry < (w.m.chip.progOf 0).length) ∧ (t0 (x .halted 1)).exec = .halted ∧ (t0 (x .halted 1)).starts.length < 2 ∧ ((t0 (x .halted 1)).c[(0 : Fin 16)]).toNat < 0xFFFFFFFF ∧
    2 ≤ (t0 (x .halted 2)).starts.length ∧ (t0 (x .halted 2)).stopped = none ∧ (t0 (x .exception 0)).exec = .exception := by
  unfold NextLoaded Still; decide +kernel
def dma (get served : Bool) (remote len : Nat) : Dma :=
  { key := 0, get := get, regs := [3, 1, 2], local' := 16, remote := remote, len := len, pc := 0, served := served, peer := false, poison := none }
theorem witness_TransfersMoveTheirBytes :
    let get := word 1 0 3 1 2 0 0
    let put := word 1 1 3 1 2 0 0
    let s := fun (w : W64) (xa n xd : Nat) => prog [w, 0] fun t => { t with x := xs xa n xd, ord := 1 }
    let open' := fun (d : Dma) => prog [get, 0] fun t => { t with dm := [d] }
    let c := (s get 0 16 16).m.chip
    let u := 0xBFFFF0
    let full := fun (w : W64) =>
      let z := prog [w, 0] fun t => { t with dm := List.replicate 16 { dma true false u 16 with regs := [] }, ord := 1 }
      Issues z 0 w ⟨[.x 3, .x 1, .x 2] ++ (if iOp w = 1 then [.st 0 0] else []), if iOp w = 0 then [.st 0 0] else []⟩ ∧ 16 ≤ (t0 z).dm.length
    Issues (s get u 16 0x3FFF0) 0 get ⟨[.x 3, .x 1, .x 2], [.st 0x3FFF0 0x40000]⟩ ∧ iCls get = 1 ∧ iOp get = 0 ∧ NextLoaded (s get u 16 0x3FFF0) 0 ∧
    Issues (s get u 0 16) 0 get ⟨[.x 3, .x 1, .x 2], [.st 16 16]⟩ ∧ Mach.xferOk c 16 8 16 = false ∧
    Issues (s get 8 16 16) 0 get ⟨[.x 3, .x 1, .x 2], [.st 16 32]⟩ ∧ (t0 (s get 8 16 16)).stopped = none ∧ Mach.xferOk c 0x3FFF0 u 16 = true ∧ c.localOf u = some u ∧
    (t0 (s get u 16 0x3FFF0)).dm.length < 16 ∧ (t0 (s get u 16 0x3FFF0)).dm = [] ∧
    Issues (s put 0x3FFF0 16 u) 0 put ⟨[.x 3, .x 1, .x 2, .st 0x3FFF0 0x40000], []⟩ ∧ iOp put = 1 ∧ c.holds (some 0) u 16 = false ∧ NextLoaded (s put 0x3FFF0 16 u) 0 ∧
    Issues (s put 16 0 8) 0 put ⟨[.x 3, .x 1, .x 2, .st 16 16], []⟩ ∧ Issues (s put 16 16 8) 0 put ⟨[.x 3, .x 1, .x 2, .st 16 32], []⟩ ∧
    (t0 (open' (dma true false u 16))).dm.find? (fun e => e.get) = some (dma true false u 16) ∧ (t0 (open' (dma true false u 16))).exec ≠ .faulted ∧
    (t0 (open' (dma true false u 16))).exec ≠ .idle ∧ (open' (dma true false u 16)).m.chip.holds (some 0) u 16 = false ∧
    (open' (dma true false u 16)).m.chip.rangeMapped u 16 = true ∧ (open' (dma true false u 16)).m.badUnits u 16 = [] ∧
    c.errs = [] ∧ (open' (dma false true u 16)).m.chip.farWaits 0 u 16 = false ∧ full get ∧ full put ∧
    (let h := open' (dma true false (5 * 2 ^ 40) 16)
     h.m.chip.holds (some 0) (5 * 2 ^ 40) 16 = false ∧ h.m.chip.errs = [] ∧ h.m.chip.rangeMapped (5 * 2 ^ 40) 16 = false ∧ (t0 h).stopped = none) ∧
    (let p := { dma true true (9 * 2 ^ 48) 16 with peer := true }
     (t0 (open' p)).dm.find? (fun e => e.get) = some p ∧ (∀ e ∈ (t0 (open' p)).dm, e.key ≠ p.key → e.get = false ∧ e.served = true)) ∧
    (t0 (open' (dma false true u 16))).dm = [dma false true u 16] ∧ (open' (dma false true u 16)).m.chip.held = [] ∧ c.str.outst = [] ∧ c.str.waiting = [] := by
  unfold Issues NextLoaded
  dsimp only
  repeat' apply And.intro
  all_goals decide +kernel
theorem witness_UnitInstructionsIssue :
    (∀ i ∈ unitInstrs,
      let w := word i.2.1 i.2.2 3 1 2 0 (if i.2.1 = 5 then 2 ^ 36 else 0)
      let s := prog [w, 0] id
      iCls w = i.2.1 ∧ iOp w = i.2.2 ∧ Issues s 0 w (unitUse w (t0 s).x) ∧ Mach.inUnit (t0 s) (if i.2.1 = 2 then 0 else if i.2.1 = 4 then 2 else 1) = none ∧
      (i.2.1 ≠ 2 ∨ i.2.2 ≠ 0 → unitCheck w (t0 s).x = none) ∧ NextLoaded s 0 ∧ (t0 s).stopped = none ∧ ¬NextLoaded (prog [w] id) 0 ∧
      Issues (prog [w] id) 0 w (unitUse w (t0 s).x) ∧ (t0 (prog [w] id)).stopped = none) ∧
    (let w := word 2 0 3 1 2 4 (2 ^ 36 + 2 ^ 32)
     let s := prog [w, 0] fun t => { t with x := (xs 0 (1020 * 2 ^ 32 + 4 * 2 ^ 16 + 1) 0) }
     Issues s 0 w (unitUse w (t0 s).x) ∧ unitCheck w (t0 s).x = none) ∧
    unitCheck (word 3 0 3 1 2 0 0) (xs 1 0 0) = some (3, 1) ∧ Issues (prog [word 3 0 3 1 2 0 0, 0] fun t => { t with x := xs 1 0 0 }) 0 (word 3 0 3 1 2 0 0)
      (unitUse (word 3 0 3 1 2 0 0) (xs 1 0 0)) := by unfold Issues NextLoaded; decide +kernel
def flight (w : W64) (x : Vector W64 16) : Flight := { word := w, x := x, seed := 0, ctr := 0, trap := 0, pc := 0, ord := 0 }
def inFlight (u : Nat) (w : W64) (x : Vector W64 16) : State := prog [0, 0] fun t => Mach.setUnit u (some (flight w x)) t
theorem witness_UnitInstructionsIssue_matrix :
    let w := word 2 0 3 1 2 4 (2 ^ 36 + 2 ^ 32)
    let b := 1020 * 2 ^ 32 + 4 * 2 ^ 16 + 1
    let m := fun (a b d : Nat) => unitCheck w (xs a b d)
    (iFa w, iFb w) ∈ matrixPairs ∧ (iFa w, 64, 4) ∈ blockSize ∧ (iFa (word 2 0 3 1 2 4 0), iFb (word 2 0 3 1 2 4 0)) ∉ matrixPairs ∧
    (∀ v : W64, ¬(v = xget (xs 0 b 0) 3 ∧ (fld v 24 8 ≠ 0 ∨ fld v 56 8 ≠ 0) ∨ (v = xget (xs 0 b 0) 1 ∨ v = xget (xs 0 b 0) 4) ∧ (fld v 18 14 ≠ 0 ∨ fld v 50 14 ≠ 0) ∨
      v = xget (xs 0 b 0) 2 ∧ fld v 42 22 ≠ 0)) ∧
    fld (xget (xs 0 b (2 ^ 24)) 3) 24 8 ≠ 0 ∧ fld (xget (xs 0 b 1) 3) 0 24 % 256 ≠ 0 ∧ (fld (xget (xs 1 b 0) 1) 0 18 + 0 * fld (xget (xs 1 b 0) 4) 0 18) % 256 ≠ 0 ∧
    fld (xget (xs 0 0 0) 2) 0 16 = 0 ∧ m 0 b (2 ^ 24) = some (3, 2 ^ 24) ∧ m 0 b 1 = some (4, 1) ∧ m 1 b 0 = some (3, 1) ∧ m 0 0 0 = some (5, 0) ∧ m 0 b 0 = none := by
  refine ⟨by decide, by decide, by decide, ?_, by decide, by decide, by decide, by decide, by decide, by decide, by decide, by decide, by decide⟩
  rintro v (⟨rfl, h⟩ | ⟨rfl | rfl, h⟩ | ⟨rfl, h⟩) <;> revert h <;> decide
theorem witness_UnitInstructionsIssue_others :
    let st := word 2 1 3 1 2 4 0
    let v := word 3 0 3 1 2 0 0
    let o := word 5 0 3 1 0 0 (2 ^ 36)
    let r := word 5 1 3 1 0 0 (2 ^ 36)
    iCls st = 2 ∧ 1 ≤ iOp st ∧ iOp st ≤ 3 ∧ fld (xget (xs 0 0 1) 3) 0 18 % 4 ≠ 0 ∧ 1024 < fld (xget (xs (1024 * 2 ^ 32 - 2 ^ 32 + 2 * 2 ^ 16) 0 0) 1) 32 10 + 2 ∧
    fld (xget (xs 0 0 0) 1) 32 10 + fld (xget (xs 0 0 0) 1) 16 16 ≤ 1024 ∧ unitCheck st (xs 0 0 1) = some (3, 1) ∧
    unitCheck st (xs (1023 * 2 ^ 32 + 2 * 2 ^ 16) 0 0) = some (5, 2 * 2 ^ 16) ∧ unitCheck st (xs 0 0 0) = none ∧ BadFlat (xget (xs 1 0 0) 1) 1 ∧
    (∀ (u : W64) (len : Nat), (u = xget (xs 0 0 0) 1 ∨ u = xget (xs 0 0 0) 2 ∨ u = xget (xs 0 0 0) 3) ∧ len = 1 → ¬BadFlat u len) ∧ unitCheck v (xs 0 0 0) = none ∧
    iCls o = 5 ∧ (iFa o, 64, 4) ∈ blockSize ∧ BadFlat (xget (xs 1 0 0) 1) 1 ∧ BadPacked 1 64 (xget (xs 0 0 1) 3) 1 ∧ ¬BadFlat (xget (xs 0 0 1) 1) 1 ∧
    ¬BadPacked 1 64 (xget (xs 0 0 0) 3) 1 ∧ ¬BadPacked 3 32 (xget (xs 0 0 0) 3) 1 ∧ unitCheck o (xs 1 0 0) = some (3, 1) ∧ unitCheck o (xs 0 0 1) = some (3, 1) ∧
    unitCheck o (xs 0 0 0) = none ∧ unitCheck r (xs 1 0 0) = some (3, 1) ∧ unitCheck r (xs 0 0 0) = none ∧ unitCheck (word 5 0 3 1 0 0 0) (xs 0 0 0) = some (1, 0x50310000) := by
  unfold BadFlat BadPacked
  refine ⟨by decide, by decide, by decide, by decide, by decide, by decide, by decide, by decide, by decide, by decide, ?_, by decide, by decide, by decide, by decide,
    by decide, by decide, by decide, by decide, by decide, by decide, by decide, by decide, by decide, by decide⟩
  rintro u len ⟨rfl | rfl | rfl, rfl⟩ <;> decide
theorem witness_VectorResultsAreElementwise :
    let w := fun (c o n : Nat) => word c o 3 1 2 0 n
    let far := flight (w 3 0 64) (xs 0 260 520)
    Finishes (inFlight 1 (w 3 0 63) (xs 0 0 0)) 0 1 (flight (w 3 0 63) (xs 0 0 0)) ∧ Finishes (inFlight 2 (w 4 4 63) (xs 0 0 0)) 0 2 (flight (w 4 4 63) (xs 0 0 0)) ∧
    iCls (w 3 0 63) = 3 ∧ iOp (w 3 10 63) ≤ 10 ∧ iCls (w 4 4 63) = 4 ∧ iOp (w 4 4 63) ≤ 4 ∧ iN (w 3 0 63) ≤ 64 ∧ Finishes (inFlight 1 (w 3 0 64) (xs 0 260 520)) 0 1 far ∧
    arrAddr far 1 + 4 * iN far.word ≤ arrAddr far 3 ∧ arrAddr far 2 + 4 * iN far.word ≤ arrAddr far 3 ∧ usesB (iCls far.word) (iOp far.word) = true ∧
    usesC (iCls far.word) (iOp far.word) = false := by unfold Finishes; decide +kernel
/-- 3 is no power of 2. -/
theorem three_ne_pow2 (k : Int) : (3 : Rat) ≠ pow2 k := by
  unfold pow2
  split
  · intro h
    have h : (3 : Nat) = 2 ^ k.toNat := by exact_mod_cast h
    match hk : k.toNat with
    | 0 => simp [hk] at h
    | n + 1 => rw [hk, Nat.pow_succ] at h; omega
  · intro h
    have p : ((2 ^ (-k).toNat : Nat) : Rat) ≠ 0 := by exact_mod_cast Nat.ne_of_gt (Nat.two_pow_pos _)
    have q : (3 * 2 ^ (-k).toNat : Nat) = 1 := by have := Rat.div_mul_cancel (a := 1) p; rw [← h] at this; exact_mod_cast this
    omega
theorem witness_VectorResultsAreElementwise_values :
    Nan32 0x7FC00000 ∧ Inf32 0x7F800000 ∧ Inf32 0xFF800000 ∧ Fin32 0x40400000 ∧ val32 0x40400000 = 3 ∧ Fin32 0x80000000 ∧ val32 0x80000000 = 0 ∧ Fin32 0xBF800000 ∧
    val32 0xBF800000 < 0 ∧ ¬Nan32 0x40400000 ∧ ¬Nan32 0x7F800000 ∧ (3 : Rat) ≠ 1 ∧ (∀ k : Int, val32 0x40400000 ≠ pow2 (2 * k)) ∧
    dec32 0x40400000 = .fin false 0xC00000 (-22) ∧ rsqWithin 0xC00000 (-22) ≠ [] ∧
    (∀ fn : Fin 5, fn ≠ 2 → let r := (sfuApprox fn.val false 0xC00000 (-22)).2
      sfuWithin r.1 r.2.1 r.2.2 2 ≠ []) ∧ sfuWithin 3 2 0 2 ≠ [] ∧ (∃ k ∈ rsqWithin 0xC00000 (-22), 0 < k) := by
  have h : val32 0x40400000 = 3 := by decide +kernel
  refine ⟨by decide, by decide, by decide, by decide, h, by decide, by decide +kernel, by decide, by decide +kernel, by decide, by decide, by decide +kernel, ?_, ?_⟩
  · intro k; rw [h]; exact three_ne_pow2 _
  · decide +kernel
theorem witness_ReductionsFoldInOrder :
    Finishes (inFlight 1 (word 3 8 3 1 2 0 0) (xs 0 0 0)) 0 1 (flight (word 3 8 3 1 2 0 0) (xs 0 0 0)) ∧
    Finishes (inFlight 1 (word 3 9 3 1 2 0 0xFFFF) (xs 0 0 0)) 0 1 (flight (word 3 9 3 1 2 0 0xFFFF) (xs 0 0 0)) ∧ iCls (word 3 9 3 1 2 0 0xFFFF) = 3 ∧
    iOp (word 3 8 3 1 2 0 0) = 8 ∧ iOp (word 3 9 3 1 2 0 0xFFFF) = 9 := by unfold Finishes; decide +kernel
theorem witness_MatrixResultsAccumulate :
    let w := fun (o : Nat) => word 2 o 3 1 2 4 (2 ^ 36 + 2 ^ 32 + 2 ^ 28)
    let x := fun (o : Nat) => if o = 0 then xs 0 (1020 * 2 ^ 32 + 4 * 2 ^ 16 + 1) 0 else xs (1008 * 2 ^ 32 + 16 * 2 ^ 16) 0 (64 * 2 ^ 32)
    (∀ o : Fin 4, Finishes (inFlight 0 (w o.val) (x o.val)) 0 0 (flight (w o.val) (x o.val)) ∧ iCls (w o.val) = 2 ∧ iOp (w o.val) = o.val) ∧
    (mmaArgs (w 0) (x 0)).acol + (mmaArgs (w 0) (x 0)).n ≤ 1024 ∧ (∀ o : Fin 4, o ≠ 0 → (mstArgs (w o.val) (x o.val)).acol + (mstArgs (w o.val) (x o.val)).n ≤ 1024) ∧
    4 * (mstArgs (w 1) (x 1)).n ≤ (mstArgs (w 1) (x 1)).stride ∧ (inFlight 0 (w 0) (x 0)).m.chip.errs = [] := by unfold Finishes; decide +kernel
theorem witness_MatrixResultsAccumulate_values :
    let z := List.replicate 31 (0 : Byte)
    let has := fun (f : Nat) (a : Bytes) (p : Machine.Num → Bool) => ∃ i, i < 32 ∧ p (elemVal f (elemAt f a i)) = true
    let fin0 := fun (v : Machine.Num) => v.isFin && decide (realOf v = 0)
    floatFormats ≠ [] ∧ pairOk 9 9 = true ∧ pairOk 4 4 = true ∧ pairOk 1 1 = true ∧ fmtBlock 4 = true ∧ fmtBlock 1 = false ∧ fmtBytes 7 = (List.replicate 16 (0 : Byte)).length ∧
    has 4 (0x7D :: z) Machine.Num.isNan ∧ has 4 (0x7C :: z) infOf ∧ has 4 (0 :: z) fin0 ∧ (¬∃ i, i < 32 ∧ (elemVal 4 (elemAt 4 (0x7C :: z) i)).isNan = true) ∧
    -- +inf by 1 at the first place, -inf by 1 at the second: both signs; without the second only one
    has 4 (0x7C :: 0xFC :: z) infOf ∧ negOf (elemVal 4 (elemAt 4 (0x7C :: 0xFC :: z) 0)) = false ∧ negOf (elemVal 4 (elemAt 4 (0x7C :: 0xFC :: z) 1)) = true ∧
    (¬∃ i, i < 32 ∧ (infOf (elemVal 4 (elemAt 4 (0x3C :: z) i)) = true ∨ infOf (elemVal 4 (elemAt 4 (0x3C :: z) i)) = true)) ∧
    (elemVal 3 0x7F).isNan = true ∧ infOf (elemVal 4 0x7C) = true ∧ Nan32 0x7FC00000 ∧ Inf32 0xFF800000 ∧ Fin32 0x3F800000 := by decide +kernel
theorem witness_ConversionsWriteTheirArrays :
    let w := fun (o f : Nat) => word 5 o 3 1 0 0 (f * 2 ^ 36)
    let x := xs 0 0 (2 ^ 32 * 64 + 512)
    (∀ f : Fin 10, f ≠ 0 → Finishes (inFlight 1 (w 0 f.val) x) 0 1 (flight (w 0 f.val) x) ∧ iFa (w 0 f.val) = f.val) ∧ iCls (w 0 1) = 5 ∧ iOp (w 0 1) = 0 ∧
    fmtBlock (iFa (w 0 3)) = true ∧ Finishes (inFlight 1 (w 1 9) x) 0 1 (flight (w 1 9) x) ∧ iOp (w 1 9) = 1 ∧ fld (xget x 3) 32 18 + 1 ≤ fld (xget x 3) 0 18 := by
  unfold Finishes; decide +kernel
theorem witness_ConversionsWriteTheirArrays_values :
    let m := fun (c : Nat) => magnitude 1 1 c
    (7, 2) ∈ emaxOf ∧ (∀ w ∈ [(0 : W32)], Fin32 w → val32 w = 0) ∧ (∀ v ∈ [(0x40400000 : W32)], Fin32 v → absRat (val32 v) ≤ absRat (val32 0x40400000)) ∧
    val32 0x40400000 ≠ 0 ∧ pow2 1 ≤ absRat (val32 0x40400000) ∧ absRat (val32 0x40400000) < pow2 (1 + 1) ∧ m 2 ≤ (5 / 4 : Rat) ∧ (5 / 4 : Rat) < m 3 ∧
    absRat (val32 0x3FA00000) * pow2 (127 - ((127 : Nat) : Int)) = 5 / 4 ∧ (6 : Rat) < absRat (val32 0x40E00000) * pow2 (127 - ((127 : Nat) : Int)) ∧ Fin32 0x40E00000 ∧
    Inf32 0x7F800000 ∧ Nan32 0x7FC00000 ∧ (5 / 4 : Rat) ≤ 127 / 64 ∧ ((80 : Nat) : Rat) ≤ 64 * (5 / 4) ∧ (64 * (5 / 4) : Rat) < ((80 : Nat) : Rat) + 1 ∧ (127 / 64 : Rat) < 7 ∧
    SurdNonneg (5 / 4 - (klPair 1).1) (-(klPair 1).2) ∧ ¬SurdNonneg (5 / 4 - (klPair 2).1) (-(klPair 2).2) ∧ (8 : Rat) < val32 0x41100000 ∧ fmtBlock 7 = true ∧
    (∃ w ∈ [(0x7FC00000 : W32)], Nan32 w) ∧ (elemVal 3 0x7F).isNan = true ∧ infOf (elemVal 4 0x7C) = true ∧ (elemVal 7 3).isFin = true := by
  refine ⟨by decide, List.forall_mem_singleton.2 (by decide +kernel), List.forall_mem_singleton.2 (by decide +kernel), by decide +kernel, by decide +kernel, by decide +kernel,
    by decide +kernel, by decide +kernel, by decide +kernel, by decide +kernel, by decide, by decide, by decide, by decide +kernel, by decide +kernel, by decide +kernel,
    by decide +kernel, ?_, ?_, by decide +kernel, by decide, ⟨_, List.mem_singleton_self _, by decide⟩, by decide, by decide, by decide⟩ <;> unfold SurdNonneg <;> decide +kernel
theorem witness_TilesStopHaltAndNap :
    let bad := word 3 1 3 1 1 0 0
    let trapped := prog [0, 0] fun t => { t with vec := some { flight bad (xs 0 0 64) with trap := 0x3F } }
    let inf := { trapped with m := { trapped.m with mem := [(stagingAddr 0 + 2, 0x80), (stagingAddr 0 + 3, 0x7F)] } }
    let st := fun (e : Exec) (i : Nat) => prog [0, 0] fun t => { t with exec := e, idle := i }
    let posted := { st .running 2 with m := (st .running 2).m.on fun c => c.onSk 0 fun k => { k with posts := Vector.replicate 2 [(1, 2, 2)] } }
    let asleep := prog [waitW, 0] fun t => { t with exec := .waiting, idle := 1 }
    ((inf.m.runUnit 0 { flight bad (xs 0 0 64) with trap := 0x3F }).2 &&& 0x3F) ≠ 0 ∧ Mach.inUnit (t0 inf) 1 = some { flight bad (xs 0 0 64) with trap := 0x3F } ∧ (t0 inf).exec ≠ .idle ∧ (t0 inf).exec ≠ .faulted ∧ (t0 inf).stopped = none ∧
    isReserved (word 0 7 0 0 0 0 0) = true ∧ isReserved (word 7 0 0 0 0 0 0) = true ∧ Issues (prog [word 15 15 0 0 0 0 0, 0] id) 0 (word 15 15 0 0 0 0 0) noUse ∧
    (t0 (st .waiting 1)).exec = .waiting ∧ (t0 (st .halted 1)).exec = .halted ∧ (t0 (st .running 0)).exec ≠ .halted ∧ (t0 (st .waiting 1)).idle = 1 ∧
    (t0 (st .waiting 1)).napHeld.getD (st .waiting 1).m.chip.sk[skOf 0].nap ≠ 0 ∧ inf.m.chip.errs = [] ∧
    (t0 posted).exec = .running ∧ (t0 posted).idle = 2 ∧ posted.m.behind 0 = false ∧ ((1, 2, 2) ∈ posted.m.chip.sk[skOf 0].posts[(0 : Fin 2)]) ∧
    (t0 asleep).exec = .waiting ∧ (asleep.m.chip.progOf 0)[(t0 asleep).pc]? = some waitW ∧ (∀ k : Fin 16, iXc waitW = k.val → ((t0 asleep).c[k]).toNat < fld waitW 0 32) ∧
    (t0 (st .halted 2)).exec ≠ .running ∧ (t0 (st .halted 2)).exec ≠ .waiting ∧ (t0 (st .halted 2)).idle = 2 ∧ (st .halted 2).m.behind 0 = false := by unfold Issues; decide +kernel
/-- A served module with skerry 0 Ready and changed. -/
def skerry (f : Skerry → Skerry) (h : Chip → Chip) : State := on .serving fun c => h { c with
  sk := (c.sk.map (fun k => { k with st := .ready })).set 0 (f { resetSkerry with st := .ready }),
  hif := { c.hif with port := c.hif.port.map (fun p => { p with st := 1 }) } }
def spares (l : List (Nat × Nat)) (k : Skerry) : Skerry := { k with phys := Vector.ofFn fun p => if p.val < 64 then (0, p.val) else l.getD (p.val - 64) (3, 0xFF) }
theorem witness_TilesRemapAndSkerriesReset_faults :
    let s := skerry id id
    let none' := skerry (spares [(3, 0xFF), (3, 0xFF)]) id
    let k := fun (x : State) => x.m.chip.sk[(0 : Fin 16)]
    let run := skerry id fun c => c.onTile 63 fun t => { t with exec := .running }
    let inUse := fun (x : State) (p : Fin 68) (t : Fin 64) => (k x).phys[p] = (0, t.val) ∧ (k x).map[t].valid = true ∧ x.m.rowGap (Fin.ofNat 1024 t.val) 0 sliceSize = false ∧ x.m.chip.errs = []
    (k s).st ≠ .off ∧ (k s).st ≠ .failed ∧ (k s).phys[(65 : Fin 68)].1 = 1 ∧ inUse s 63 63 ∧ (k s).auto = true ∧ (k s).loading = none ∧ Mach.freeSpare (k s) = some 64 ∧
    inUse none' 0 0 ∧ Mach.freeSpare (k none') = none ∧ run.m.chip.tile[(63 : Fin 1024)].exec = .running ∧ inUse run (run.m.physOf 63) 63 ∧
    s.m.chip.tile[(0 : Fin 1024)].exec ≠ .running ∧ s.m.chip.portUp 1 = true ∧ bit (0x3F : W32) 8 = false ∧ bit (0x13F : W32) 8 = true ∧
    fld (0x13F : W32) 0 6 = (63 : Fin 64).val ∧ (k s).st = .ready ∧ (k s).map[(63 : Fin 64)].phys = (63 : Fin 68).val ∧ 63 ∉ (k s).remapQ := by decide +kernel
theorem witness_TilesRemapAndSkerriesReset_rows :
    let load := skerry (fun k => { k with loading := some (63, 65), phys := vput k.phys 65 (4, 63), map := vput k.map 63 ⟨false, false, 63⟩ }) id
    let k := fun (x : State) => x.m.chip.sk[(0 : Fin 16)]
    let s := skerry id id
    let worn := skerry id fun c => c.onEcc 0 fun e => { e with rowsUsed := [(0, 8)] }
    (k load).st = .ready ∧ (k load).loading = some ((63 : Fin 64).val, (65 : Fin 68).val) ∧ (k load).remapQ = [] ∧ (k load).map[(63 : Fin 64)].phys ≠ (65 : Fin 68).val ∧
    (∀ i : Fin 16, load.m.chip.hif.plans[i].st ≠ .ready ∧ load.m.chip.hif.plans[i].st ≠ .stopped) ∧ (∀ i : Fin 128, load.m.chip.seq[i].st = .free) ∧ load.m.chip.held = [] ∧
    load.m.chip.gmc.rebuilding = [] ∧ load.m.chip.tile[(63 : Fin 1024)].mirror = 0 ∧ skOf 63 = 0 ∧ (49151 : Nat) < 49152 ∧ spGet 0 63 s.m.chip.ecc[(0 : Fin 16)].rowsUsed < 8 ∧
    s.m.chip.tile[(63 : Fin 1024)].mirror = 0 ∧ (∀ i : Fin 128, s.m.chip.seq[i].st = .free) ∧
    (∀ i : Fin 16, bit s.m.chip.hif.plans[i].mask 0 = false) ∧ s.m.chip.errs = [] ∧ s.m.chip.gmc.rebuilding = [] ∧
    8 ≤ spGet 0 0 worn.m.chip.ecc[(0 : Fin 16)].rowsUsed ∧ (k worn).phys[worn.m.physOf 0] = (0, 0) ∧ (k worn).map[(0 : Fin 64)].valid = true ∧
    worn.m.rowGap 0 0 sliceSize = false ∧ worn.m.chip.errs = [] ∧ (k (skerry (fun k => { k with st := .off }) id)).st ≠ .ready ∧ (k worn).auto = true ∧ (k worn).loading = none ∧ Mach.freeSpare (k worn) = some 64 ∧ skOf (tileOfSram (skerrySpan - 1)) = 0 ∧
    spGet 0 ((tileOfSram (skerrySpan - 1)).val * 65536 + (skerrySpan - 1) % sliceSize / 256) s.m.chip.ecc[(0 : Fin 16)].rowCe < 2 := by decide +kernel
theorem witness_TilesRemapAndSkerriesReset_resets :
    let s := skerry id id
    let k := fun (x : State) => x.m.chip.sk[(0 : Fin 16)]
    let rs := fun (n : Nat) => skerry (fun k => { k with st := .resetting, resetting := n }) id
    let often := skerry (fun k => { k with supvTimes := [0, 0] }) id
    let recent := fun (x : State) => (x.m.chip.time :: (k x).supvTimes).filter (fun t => x.m.chip.time < t + secs 60)
    let links := fun (n : Nat) => skerry id fun c => { c with mesh := { c.mesh with reroute := true, link := c.mesh.link.map (fun l => { l with st := 1, used := n }) } }
    s.m.chip.portUp 0 = true ∧ fld (0x5A5A0001 : W32) 16 16 = 0x5A5A ∧ bit (0x5A5A0001 : W32) 0 = true ∧ (k s).st ≠ .resetting ∧ (k s).st ≠ .failed ∧
    s.m.chip.pwr.darkened = false ∧ ¬(fld (0x5A5A0000 : W32) 16 16 = 0x5A5A ∧ bit (0x5A5A0000 : W32) 0 = true) ∧ (rs 1).m.chip.portUp 0 = true ∧ (k (rs 1)).st = .resetting ∧
    (k (rs 1)).resetting = 1 ∧ (k (rs 2)).resetting = 2 ∧ (k (rs 2)).selfFails = [] ∧ (rs 2).m.chip.errs = [] ∧ (∀ t : Fin 64, (rs 2).m.noMirror (Fin.ofNat 1024 t.val) 0 sliceSize = false) ∧
    (recent s).length < 3 ∧ 3 ≤ (recent often).length ∧ (links 1).m.chip.mesh.link[(41 : Fin 42)].st = 1 ∧ (links 1).m.chip.mesh.link[(41 : Fin 42)].used < 2 ∧
    2 ≤ (links 2).m.chip.mesh.link[(41 : Fin 42)].used ∧ (links 2).m.chip.mesh.reroute = true ∧ (links 2).m.chip.held = [] ∧
    (links 2).m.chip.str.waiting = [] ∧ (∀ n : Fin 4, (links 2).m.chip.dsq[n].waiters = []) ∧ Still { (links 2).m.chip.mesh with reroute := false } := by
  unfold Still; decide +kernel
/-- A served module with its GDDR7 devices in a state. -/
def gddr (n : Nat) (f : Chip → Chip) : State := skerry id fun c => f { c with gmc := { c.gmc with dev := c.gmc.dev.map (fun d => { d with st := n }) } }
theorem witness_MemoryTiersServe_gddr :
    let tried := gddr 1 fun c => c.onDev 23 fun d => { d with attempts := 2 }
    let moved := gddr 2 fun c => { c.onTile 1 (fun t => { t with mirror := 1 }) with gmc := { c.gmc with moved := true, rebuilding := [1] } }
    let one := gddr 2 fun c => c.onPlan 15 fun p => { p with copies := [0], copyLen := 4096 }
    (gddr 1 id).m.chip.gmc.dev[(23 : Fin 24)].st = 1 ∧ 16 ≤ (16 : Byte).toNat ∧ (64 : Byte).toNat ≤ 64 ∧ (15 : Byte).toNat < 16 ∧ (gddr 1 id).m.chip.gmc.dev[(23 : Fin 24)].attempts < 2 ∧
    tried.m.chip.gmc.dev[(23 : Fin 24)].st = 1 ∧ 2 ≤ tried.m.chip.gmc.dev[(23 : Fin 24)].attempts ∧ (gddr 2 id).m.chip.gmc.dev[(0 : Fin 24)].st = 2 ∧
    (∃ e : Fin 24, e ≠ 0 ∧ (gddr 2 id).m.chip.gmc.dev[e].st = 2) ∧ (∀ i : Fin 16, (gddr 2 id).m.chip.sk[i].loading = none) ∧ (gddr 3 id).m.chip.gmc.dev[(0 : Fin 24)].st ≠ 1 ∧
    (gddr 3 id).m.chip.gmc.dev[(0 : Fin 24)].st ≠ 2 ∧ fld (0xA5A50117 : W32) 0 5 = (23 : Fin 24).val ∧ fld (0xA5A50117 : W32) 16 16 = 0xA5A5 ∧ bit (0xA5A50117 : W32) 8 = true ∧
    24 ≤ fld (0xA5A50118 : W32) 0 5 ∧ moved.m.chip.gmc.moved = true ∧ Memory.wf moved.m.mem = true ∧ moved.m.chip.gmc.rebuilding = [1] ∧
    moved.m.chip.tile[(1 : Fin 1024)].mirrorSlot = some (1, 0) ∧ bit moved.m.chip.tile[(1 : Fin 1024)].mirror 0 = true ∧ (gddr 2 id).m.chip.gmc.moved = false ∧
    one.m.chip.hif.plans[(15 : Fin 16)].copies = [0] ∧ (Mach.copyPlace one.m.chip 0 4096).isSome = true ∧ (gddr 2 id).m.chip.hif.plans[(15 : Fin 16)].copies.length ≠ 1 ∧
    (gddr 2 id).m.chip.errs = [] ∧ (gddr 2 id).m.chip.gmc.scrubOn = true ∧ (gddr 2 id).m.chip.packageMapped = true ∧ regionOf (devAddr 23 (devSpan - 1)) = .gddr ∧
    devOf (devAddr 23 (devSpan - 1)) = 23 ∧ State.reset.m.chip.packageMapped = false ∧ moved.m.poison.Pairwise (· < ·) ∧ moved.m.chip.errs = [] ∧
    devAddr 23 (devSpan - 1) / 64 * 64 ∉ (gddr 2 id).m.poison ∧ (gddr 2 id).m.chip.gmc.dev[(23 : Fin 24)].ueTimes = [] ∧ (gddr 2 id).m.chip.packageMapped = true ∧
    (skerry id fun c => { c with gmc := { c.gmc with scrubOn := false } }).m.chip.gmc.scrubOn = false := by decide +kernel
/-- A served module with CXL window 15 set over ports 2 and 3, which train or are up. -/
def cxl (port : Nat) (f : CxlWin → CxlWin) : State := skerry id fun c => { c with cxl := { c.cxl with
  port := c.cxl.port.map (fun p => { p with st := port }), win := upd c.cxl.win 15 (fun w => f { w with size := 1, ways := 1, ports := 14 }) } }
theorem witness_MemoryTiersServe_cxl :
    let s := cxl 2 id
    let v : W64 := BitVec.ofNat 64 (2 ^ 63 + 16383 * 2 ^ 30)
    let busy := skerry id fun c => { c with cxl := { c.cxl with cfgBusy := true } }
    let w := fun (x : State) => x.m.chip.cxl.win[(15 : Fin 16)]
    s.m.chip.railsOn = true ∧ (w s).enable = false ∧ bit v 63 = true ∧ s.m.chip.winOk 15 (fld v 30 14 * gib) = true ∧ (cxl 1 id).m.chip.winOk 15 (fld v 30 14 * gib) = false ∧
    (w (cxl 2 fun y => { y with enable := true, wstate := 1 })).enable = true ∧ s.m.chip.cxl.port[(3 : Fin 4)].st ≠ 0 ∧ 3 ∈ Mach.winPorts (w s) ∧
    (cxl 4 id).m.chip.cxl.port[(3 : Fin 4)].st = 4 ∧ (cxl 0 id).m.chip.cxl.port[(3 : Fin 4)].st = 0 ∧ s.m.chip.lit (6 + (3 : Fin 4).val / 2) = true ∧
    (cxl 1 id).m.chip.cxl.port[(3 : Fin 4)].st = 1 ∧ (cxl 3 id).m.chip.cxl.port[(3 : Fin 4)].st = 3 ∧
    (8 : Nat) ≤ 8 ∧ s.m.chip.cxl.cfgBusy = false ∧ busy.m.chip.cxl.cfgBusy = true ∧ busy.m.chip.railsOn = true ∧ s.m.chip.portUp 1 = true ∧
    (0x3FFFFF8 : BitVec 26).toNat % 8 = 0 ∧ (∀ n : Fin 4, s.m.chip.dsq[n].pageIns = []) ∧ bit s.m.chip.mesh.cut (6 + (3 : Fin 4).val / 2) = false := by decide +kernel
/-- A served module with a region of memory and an I/O queue of a port. -/
def region : Region := ⟨0, 0, 0x100000, 0x10000, true, true⟩
def ring : Ring := { resetRing with sqBase := 0x100000, cqBase := 0x108000, n := 16, m := 16, vector := 2047 }
def host (q : QSt) (r : Ring) (cmds : List Cmd) (f : Chip → Chip) : State := gddr 2 fun c => f { c with hif := { c.hif with
  port := c.hif.port.map (fun p => { p with fn := { p.fn with msixOn := true }, aq := { p.aq with enable := true, ready := true, ring := r } }),
  regions := [region], queues := [{ slot := 5, st := q, port := 0, cls := 0, sqReg := 2 ^ 18, cqReg := 2 ^ 18, ring := r, destroyer := none }], cmds := cmds, nextId := 9 } }
theorem witness_RegistersAndPortsAct :
    let s := host .active ring [] fun c => c.onTile 0 fun t => { t with mirror := 1 }
    let c := s.m.chip
    let off := skerry id id
    let failed := on .serving fun c => { c with hif := { c.hif with port := c.hif.port.map (fun p => { p with st := 2 }) } }
    let aq : W32 := BitVec.ofNat 32 (2 ^ 31 + 12 * 2 ^ 20 + 4 * 2 ^ 16 + 2047)
    let bell := fun (i : Nat) => BitVec.ofNat 32 (2 ^ 18 + i)
    c.portUp 0 = true ∧ c.portUp 1 = true ∧ (1000 : W64).toNat < 65536 ∧ (0x1F000C : W32).toNat = 0x10000C + 0x10000 * (15 : Fin 16).val ∧ listed (0x5FFFFC : W32).toNat = true ∧
    (0x5FFFFE : W32).toNat % 4 ≠ 0 ∧ listed (0x5FFFFE : W32).toNat = true ∧ listed (0x600000 : W32).toNat = false ∧ failed.m.chip.portUp 0 = false ∧
    (0x7FF0 : W32).toNat = 16 * 2047 ∧ 2047 ∉ c.hif.port[(0 : Fin 2)].pba ∧ (∀ i : Fin 4, c.mapped (0x20000 + i.val) = true) ∧ c.holds (some (portSkerry 0).val) 0x20000 4 = false ∧
    Mach.mirrorPieces c 0x20000 (slice [1, 2, 3, 4] 0 4) = [] ∧ s.m.badUnits 0x20000 4 = [] ∧ 0xFFFF < sramSize ∧ c.mapped 0xFFFF = true ∧ c.holds (some (portSkerry 0).val) 0xFFFF 1 = false ∧
    c.granule (tileOfSram 0xFFFF) (0xFFFF % sliceSize) = true ∧ c.tile[tileOfSram 0xFFFF].mirrorSlot = some (0, 0) ∧ (∀ i : Fin 4, c.mapped (sramSize + i.val) = false) ∧
    c.holds (some (portSkerry 0).val) sramSize 4 = false ∧ (c.queue? 5).any (fun q => decide (q.st = .active ∧ q.port = 0)) = true ∧ fld (bell 15) 18 14 = spGet 1 5 c.hif.qgen ∧ fld (bell 15) 0 16 < ring.n ∧
    ring.n ≤ fld (bell 16) 0 16 ∧ c.queue? 6 = none ∧ off.m.chip.hif.port[(0 : Fin 2)].aq.enable = false ∧ bit aq 31 = true ∧ 4 ≤ fld aq 16 4 ∧ fld aq 20 4 ≤ 12 ∧
    c.hif.port[(0 : Fin 2)].aq.enable = true ∧ c.hif.port[(0 : Fin 2)].aq.ready = true ∧ bit (0 : W32) 31 = false ∧ c.railsOn = true ∧ c.lit 7 = true ∧ c.errs = [] ∧
    c.hif.port[(0 : Fin 2)].st ≠ 2 ∧ failed.m.chip.hif.port[(0 : Fin 2)].st = 2 := by decide +kernel
/-- A check gives a value or fails with a status, said so that it can be decided. -/
abbrev gives {α : Type} (e : Except Nat α) (v : α) : Prop := e.toOption = some v
def statusOf {α : Type} : Except Nat α → Option Nat
  | .ok _ => none
  | .error n => some n
abbrev fails {α : Type} (e : Except Nat α) (n : Nat) : Prop := statusOf e = some n
theorem gives_iff {α : Type} (e : Except Nat α) (v : α) : gives e v ↔ e = .ok v := by cases e <;> simp [gives, Except.toOption]
theorem fails_iff {α : Type} (e : Except Nat α) (n : Nat) : fails e n ↔ e = .error n := by cases e <;> simp [fails, statusOf]
/-- A fetched command of a queue with fields at byte offsets. -/
def cmd (id : Nat) (q : QRef) (l : List (Nat × Nat)) : Cmd :=
  { id := id, port := 0, q := q, tag := 7, sqHead := 0, entry := BitVec.ofNat 512 (l.foldl (fun a p => a + p.2 * 2 ^ (8 * p.1)) 0), started := false,
    ended := none, detached := false, late := false, serving := false, moved := 0, stopAt := none, part := [], bar := 0 }
def adm (l : List (Nat × Nat)) : Cmd := cmd 1 (.admin 0) l
def io (l : List (Nat × Nat)) : Cmd := cmd 1 (.io 5) l
/-- A served host with one command in progress. -/
def hostWith (x : Cmd) : State := host .active ring [x] id
def own (x : Cmd) (op : Nat) : Prop := (hostWith x).m.chip.take op 1 = some x ∧ x.detached = false
theorem witness_HostCommandsComplete_queues :
    let full := { ring with cqHead := 1, unsig := 1, cnt := 2, tim := 1, sqTail := 15, sqHead := 14 }
    let c := (host .active full [] id).m.chip
    let done := { io [] with started := true, ended := some (0, 3) }
    let d := (host .active { full with cqHead := 0, cnt := 3 } [done] id).m.chip
    let e := (host .active full [done] fun c => c.onPort 0 fun p => { p with msix := [(2047, 0)] }).m.chip
    let r := { full with cqHead := 0, cnt := 3 }
    (c.portUp 0 = true ∧ (c.hif.cmds.filter (fun y => y.port == 0)).length < 4096 ∧ c.nextQueue 0 = some (.admin 0) ∧ c.ringOf (.admin 0) = some full ∧
      (∀ y ∈ c.hif.cmds, y.id ≠ c.hif.nextId)) ∧
    (d.cmd? 1 = some done ∧ done.ended = some (0, 3) ∧ done.detached = false ∧ d.ringOf done.q = some r ∧ d.servedQ done.q = true ∧ d.portUp done.port = true ∧
      d.held = [] ∧ (r.cqTail + 1) % r.m ≠ r.cqHead ∧ r.cnt ≠ 0 ∧ r.tim ≠ 0 ∧ r.unsig + 1 < r.cnt ∧ full.cnt ≤ full.unsig + 1) ∧
    (e.cmd? 1 = some done ∧ e.ringOf done.q = some full ∧ (full.cqTail + 1) % full.m = full.cqHead) ∧
    (e.hif.port[(0 : Fin 2)].fn.msixOn = true ∧ e.hif.port[(0 : Fin 2)].fn.msixMask = false ∧ e.portOf (.io 5) = some 0 ∧ 0 < full.unsig ∧ full.vector < 2048 ∧ e.portUp 0 = true ∧
      bit (spGet (BitVec.ofNat 128 (2 ^ 96)) full.vector e.hif.port[(0 : Fin 2)].msix) 96 = false) ∧
    (c.queue? 5).any (fun q => decide (q.st = .active)) = true ∧ ((host .destroying ring [] id).m.chip.queue? 5).any (fun q => decide (q.st = .destroying)) = true := by
  decide +kernel
theorem witness_HostCommandsComplete_admin :
    let create := adm [(0, 2), (8, 2 ^ 18), (12, 2 ^ 18), (24, 0x1000), (32, 4), (33, 4), (34, 2047)]
    let destroy := adm [(0, 3), (8, 2 ^ 18 + 5)]
    let ident := adm [(0, 1), (8, 2 ^ 18), (16, 0xF000)]
    let lost := adm [(0, 1), (8, 2 ^ 18 + 1)]
    let reg := adm [(0, 4), (8, 0x200000), (16, 4096), (24, 3)]
    let badReg := adm [(0, 4), (8, 0x200000), (16, 0), (24, 3)]
    let rel := adm [(0, 5), (8, 2 ^ 18)]
    let c := fun (x : Cmd) => (hostWith x).m.chip
    let free := (host .active ring [rel] fun c => { c with hif := { c.hif with queues := [] } }).m.chip
    (own create 2 ∧ gives ((c create).twoRegions 0 (create.f 8 4) (create.f 12 4)) (region, region) ∧ 4 ≤ create.f 32 1 ∧ create.f 33 1 ≤ 16 ∧ create.f 34 2 ≤ 2047 ∧
      create.f 16 8 % 4096 = 0 ∧ create.f 24 8 % 4096 = 0 ∧ region.holds (create.f 16 8) (64 * 2 ^ create.f 32 1) false = true ∧
      region.holds (create.f 24 8) (16 * 2 ^ create.f 33 1) true = true ∧ (c create).hif.queues.length < 262144 ∧ lowestFree ((c create).hif.queues.map (fun q => q.slot)) = 0) ∧
    (own destroy 3 ∧ gives ((c destroy).queueOf 0 (destroy.f 8 4)) ((c destroy).hif.queues.headD ⟨0, .stopped, 0, 0, 0, 0, ring, none⟩) ∧
      ((c destroy).queue? 5).any (fun q => decide (q.st ≠ .destroying)) = true) ∧
    ((host .destroying ring [destroy] id).m.chip.take 3 1 = some destroy ∧ ((host .destroying ring [destroy] id).m.chip.queueOf 0 (destroy.f 8 4)).toOption.any
      (fun q => decide (q.st = .destroying)) = true) ∧
    (own ident 1 ∧ (c ident).portUp 0 = true ∧ gives ((c ident).regionAt 0 (ident.f 8 4)) region ∧ ident.f 16 8 % 4096 = 0 ∧ region.holds (ident.f 16 8) 4096 true = true) ∧
    (own lost 1 ∧ fails ((c lost).regionAt 0 (lost.f 8 4)) 3) ∧
    (own reg 4 ∧ reg.f 8 8 % 4096 = 0 ∧ reg.f 16 8 % 4096 = 0 ∧ 4096 ≤ reg.f 16 8 ∧ reg.f 16 8 ≤ 2 ^ 40 ∧ reg.f 24 1 ≠ 0 ∧ (c reg).hif.regions.length < 65536 ∧
      lowestFree ((c reg).hif.regions.map (fun r => r.slot)) = 1) ∧ (own badReg 4 ∧ badReg.f 16 8 = 0) ∧
    (free.take 5 1 = some rel ∧ gives (free.regionAt 0 (rel.f 8 4)) region ∧ free.hif.queues = [] ∧ (∀ y ∈ free.hif.cmds, y.id ≠ 1 → namesRegion y (rel.f 8 4) = false) ∧
      (∀ i : Fin 128, free.seq[i].st ≠ .generating)) ∧
    (own rel 5 ∧ gives ((c rel).regionAt 0 (rel.f 8 4)) region ∧ ∃ q ∈ (c rel).hif.queues, q.sqReg = rel.f 8 4) := by
  unfold own; decide +kernel
theorem witness_HostCommandsComplete_others :
    let perm := fun (n : Nat) => adm [(0, 9), (8, n)]
    let inState := fun (ms : ModState) (n : Nat) => (host .active ring [perm n] fun c => { c with mod := { c.mod with st := ms } }).m.chip
    let abort := adm [(0, 0x0A), (8, 2 ^ 18 + 5), (12, 7)]
    let y := cmd 2 (.io 5) [(0, 0x21)]
    let two := (host .active ring [abort, y] id).m.chip
    let ev := adm [(0, 0x0B)]
    let evs := fun (r q : List Nat) => (host .active ring [ev] fun c => c.onPort 0 fun p => { p with evReq := r, evQ := q }).m.chip
    let nop := io [(0, 0x20)]
    (own (perm 2) 9 ∧ (perm 2).f 8 1 ≠ 0 ∧ (perm 2).f 8 1 ≤ 2 ∧ (hostWith (perm 2)).m.chip.mod.st = .serving ∧ (hostWith (perm 2)).m.chip.sec.ret = 0) ∧
    (own (perm 0) 9 ∧ canDrain (hostWith (perm 0)).m.chip.mod.st = true) ∧ ((inState .standby 0).take 9 1 = some (perm 0) ∧ (perm 0).f 8 1 = 0 ∧ (inState .standby 0).mod.st = .standby) ∧ (own (perm 3) 9 ∧ 2 < (perm 3).f 8 1) ∧
    ((inState .ochre 1).take 9 1 = some (perm 1) ∧ (inState .ochre 1).mod.st = .ochre) ∧
    (own abort 0x0A ∧ ((hostWith abort).m.chip.queueOf 0 (abort.f 8 4)).toOption.isSome = true ∧
      ∀ z ∈ (hostWith abort).m.chip.hif.cmds, z.q ≠ .io (BitVec.ofNat 18 5) ∨ z.tag ≠ abort.f 12 4 ∨ z.ended.isSome = true ∨ z.detached = true) ∧
    (two.take 0x0A 1 = some abort ∧ two.cmd? 2 = some y ∧ y.q = .io (BitVec.ofNat 18 5) ∧ y.tag = abort.f 12 4 ∧ y.started = false ∧ y.ended = none ∧
      (∀ z ∈ two.hif.cmds, z ≠ y → z.q ≠ y.q ∨ z.tag ≠ y.tag)) ∧
    ((evs [] []).take 0x0B 1 = some ev ∧ (evs [] []).hif.port[(0 : Fin 2)].evReq.length < 8 ∧ (evs [] []).hif.port[(0 : Fin 2)].evQ = [] ∧
      (evs [1, 2, 3, 4, 5, 6, 7] [9]).take 0x0B 1 = some ev ∧ (evs [1, 2, 3, 4, 5, 6, 7] [9]).hif.port[(0 : Fin 2)].evReq.length < 8 ∧
      (evs [1, 2, 3, 4, 5, 6, 7] [9]).hif.port[(0 : Fin 2)].evQ = [9] ∧ (evs (List.replicate 8 1) []).take 0x0B 1 = some ev ∧
      8 ≤ (evs (List.replicate 8 1) []).hif.port[(0 : Fin 2)].evReq.length) ∧ own nop 0x20 := by
  unfold own; decide +kernel
theorem witness_HostCommandsComplete_copy :
    let copy := fun (dir n ua : Nat) => io [(0, 0x21), (8, 2 ^ 18), (12, dir), (16, 0x10), (24, ua), (32, n)]
    let s := fun (x : Cmd) => hostWith x
    let run := { copy 0 4 0x100 with started := true }
    let out := copy 1 4 0x100
    let inn := copy 0 4 0x100
    let bad := copy 1 0 0x100
    (own out 0x21 ∧ gives ((s out).m.copyCheck out) (region, 0x100) ∧ (s out).m.chip.portUp 0 = true ∧ out.f 12 1 ≠ 0 ∧ (s out).m.chip.holds (some (portSkerry 0).val) 0x100 (out.f 32 8) = false ∧ (s out).m.chip.errs = [] ∧
      (s out).m.badUnits 0x100 (out.f 32 8) = []) ∧ (own inn 0x21 ∧ gives ((s inn).m.copyCheck inn) (region, 0x100) ∧ inn.f 12 1 = 0) ∧
    (own bad 0x21 ∧ fails ((s bad).m.copyCheck bad) 2) ∧
    ((s run).m.chip.cmd? 1 = some run ∧ run.detached = false ∧ run.op = 0x21 ∧ run.started = true ∧ run.ended = none ∧ run.f 12 1 = 0 ∧ (s run).m.chip.portUp 0 = true ∧
      (s run).m.chip.held = [] ∧ (s run).m.chip.localOf (run.f 24 8) = some 0x100 ∧ (s run).m.chip.rangeMapped 0x100 (run.f 32 8) = true ∧
      (s run).m.chip.errs = [] ∧ copyGoal run - run.moved ≤ [(1 : Byte), 2, 3, 4].length ∧ (s run).m.chip.holds (some (portSkerry 0).val) (0x100 + run.moved) 4 = false ∧
      Mach.mirrorPieces (s run).m.chip (0x100 + run.moved) (slice [1, 2, 3, 4] 0 4) = [] ∧ (s run).m.chip.hif.loads = [] ∧
      -- seventeen bytes of a longer copy: one whole unit is written
      ¬copyGoal { copy 0 40 0x100 with started := true } ≤ (List.replicate 17 (0 : Byte)).length ∧ (0x100 + 0 + 17) / 16 * 16 - (0x100 + 0) = 16) := by
  unfold own; decide +kernel
/-- Bytes with fields at offsets. -/
def fields (n : Nat) (l : List (Nat × Nat)) : Bytes := bytesLe n (l.foldl (fun a p => a + p.2 * 2 ^ (8 * p.1)) 0)
/-- A runner plan's image for tile 63 (R225 to R227): header, section table; one word, one INIT, the schedule. -/
def head (n flags : Nat) : Bytes :=
  fields 128 [(0, 0x4E414C50), (4, 1), (6, 128), (8, 274), (16, 2), (17, flags), (18, 0xB0), (20, 1), (24, n), (32, 128), (48, 7)]
def table : Bytes := fields 96 [(0, 1), (4, 63), (8, 224), (16, 8), (32, 2), (36, 63), (40, 240), (48, 32), (64, 5), (72, 272), (80, 2)]
def loading (n flags stage : Nat) : Load := ⟨1, 15, head n flags, table, 1 - stage / 2, [], stage⟩
def plan (st : PlanSt) (f : Plan → Plan) : Plan :=
  f { resetPlan with st := st, kind := 2, mask := 1, schedule := [63], imgs := [⟨63, [0], 0, 0, 7, 9, [], []⟩], copies := [0, 8], copyLen := 4096 }
/-- A served host with a command and plan 15. -/
def plans (x : Cmd) (p : Plan) (f : Chip → Chip) : State := host .active ring [x] fun c => f (c.onPlan 15 fun _ => p)
theorem witness_PlansLoadRunAndUnload_load :
    let x := adm [(0, 6), (8, 2 ^ 18), (16, 0x100), (24, 274)]
    let s := host .active ring [x] fun c => { c with hif := { c.hif with plans := (Vector.replicate 16 (plan .unloading fun p => { p with imgs := [] })).set 15 resetPlan } }
    let run := { adm [(0, 6)] with started := true }
    let ld := fun (n flags stage : Nat) => (plans run (plan .loading id) fun c => { c with hif := { c.hif with loads := [loading n flags stage] } }).m
    (s.m.chip.take 6 1 = some x ∧ x.detached = false ∧ gives (s.m.chip.regionAt 0 (x.f 8 4)) region ∧ region.holds (x.f 16 8) (x.f 24 8) false = true ∧
      s.m.chip.loadCheck (!x.late && (x.serving || decide (s.m.chip.mod.st = .serving))) (x.f 24 8) (head 3 0) (sectsOf (head 3 0) table) = 0 ∧ s.m.chip.portUp 0 = true ∧
      (fins 16).find? (fun (j : Fin 16) => decide (s.m.chip.hif.plans[j].st = .free)) = some 15) ∧
    s.m.chip.loadCheck true (x.f 24 8) (head 2 0) (sectsOf (head 2 0) table) = 0x0B ∧
    (sectsOf (loading 0 0 2).head table = [] ∧ Chip.signatureOk ⟨1, 15, head 0 0, table, 0, [], 1⟩ [] = true ∧
      Chip.signatureOk ⟨1, 15, head 0 0, table, 1, [], 1⟩ (slice [] 0 (fieldLe (head 0 0) 8 8)) = false) ∧
    (sectsOf (head 1 0) table = [⟨1, 0, 63, 224, 8, 0⟩] ∧
      ((chunks 8 (slice (slice (List.replicate 274 0) 0 (fieldLe (head 1 0) 8 8)) 224 8)).map (fun b => BitVec.ofNat 64 (numLe b))).all wordLoads = true) ∧
    ((ld 3 0 1).chip.hif.loads.map (·.stage) = [1] ∧ (ld 3 0 2).chip.hif.loads = [loading 3 0 2] ∧ (loading 3 0 2).slot = (15 : Fin 16).val ∧ (ld 3 0 2).chip.held = [] ∧
      (ld 3 0 2).chip.cmd? 1 = some run ∧ run.ended = none ∧ run.detached = false ∧ (ld 3 0 2).tileWhole 63 = true ∧
      (ld 3 0 2).chip.hif.plans[(15 : Fin 16)].imgs.map (·.tile) = [63]) := by decide +kernel
def plan15 (s : State) : Plan := s.m.chip.hif.plans[(15 : Fin 16)]
def at15 (op : Nat) (x : Cmd) (p : Plan) : Prop :=
  (plans x p id).m.chip.take op 1 = some x ∧ x.detached = false ∧ gives ((plans x p id).m.chip.planOf (x.f 8 4)) 15 ∧ plan15 (plans x p id) = p
theorem witness_PlansLoadRunAndUnload_unload :
    let un := adm [(0, 7), (8, 2 ^ 18 + 15)]
    let rs := adm [(0, 8), (8, 2 ^ 18 + 15)]
    let s := plans un (plan .ready id) id
    let held := { un with started := true }
    let unl := plans held (plan .unloading fun p => { p with unloader := some 1 }) id
    (at15 7 un (plan .ready id) ∧ (plan .ready id).run = none ∧ s.m.chip.waitingRuns 15 = [] ∧ (∀ i : Fin 128, s.m.chip.seq[i].st = .free) ∧
      ∀ n : Fin 4, s.m.chip.dsq[n].run = none) ∧
    (at15 7 un (plan .loading id) ∧ (plan .loading id).st = .loading) ∧
    ((plan15 unl).st = .unloading ∧ unl.m.chip.cmd? 1 = some held ∧ (plan15 unl).unloader = some 1 ∧ held.ended = none ∧ held.detached = false) ∧
    (at15 8 rs (plan .stopped id) ∧ (∀ i : Fin 16, bit (plan .stopped id).mask i.val = true → (plans rs (plan .stopped id) id).m.chip.sk[i].st ≠ .failed) ∧
      (plan .stopped id).copies ≠ []) ∧ (at15 8 rs (plan .ready id) ∧ (plan .ready id).st ≠ .stopped) := by
  unfold at15; decide +kernel
theorem witness_PlansLoadRunAndUnload_run :
    let rn := io [(0, 0x22), (8, 2 ^ 18 + 15), (16, 1), (40, 4), (48, 100)]
    let busy := { rn with started := true }
    let first := plans busy (plan .ready fun p => { p with queue := [1] }) id
    let step : RunStep := ⟨1, Vector.replicate 4 0, 100, [], false⟩
    let s := plans busy (plan .ready fun p => { p with run := some step }) id
    (at15 0x22 rn (plan .ready id) ∧ (plan .ready id).kind = 2 ∧ rn.late = false ∧ rn.bar = 0) ∧ at15 0x22 { rn with bar := 0x0E } (plan .ready id) ∧ (at15 0x22 rn (plan .stopped id) ∧ (plan .stopped id).st = .stopped) ∧
    ((plan15 first).st = .ready ∧ (plan15 first).queue = [1] ∧ (plan15 first).run = none ∧ first.m.chip.cmd? 1 = some busy ∧ first.m.planWhole 15 = true ∧
      (∀ y ∈ first.m.chip.hif.cmds, y.id < 1 → y.started = true ∨ first.m.chip.runsPlan 15 y = false) ∧
      ∀ g ∈ (plan15 first).schedule, first.m.chip.tile[(Fin.ofNat 1024 g : Fin 1024)].exec ≠ .exception) ∧
    ((plan15 s).st = .ready ∧ (plan15 s).run = some step ∧ step.waiting = [] ∧ step.aborted = false ∧ step.cmd = 1 ∧ s.m.chip.cmd? 1 = some busy ∧ busy.ended = none ∧
      busy.detached = false ∧ step.timeout ≠ 0 ∧ (plan15 s).kind = 2 ∧ 1 ∉ (plan15 s).queue ∧ s.m.chip.hif.port[(0 : Fin 2)].evReq = [] ∧
      s.m.chip.hif.port[(1 : Fin 2)].evReq = []) := by
  unfold at15; decide +kernel
/-- A sequence's context in device 0, its root table and its leaf. -/
def ctxAt : Nat := devAddr 0 0x1000
def context (l : List (Nat × Nat)) : Bytes :=
  fields 256 ([(0, 2 ^ 18), (8, 2 ^ 18), (12, 4), (14, 1), (24, devAddr 0 0x2000), (32, devAddr 0 0x40000), (40, devAddr 0 0x80000), (68, 0x3F800000), (72, 0x3F800000),
    (80, 4), (88, 1)] ++ l)
/-- A served module whose sequencer 1 has a sequence with a leaf, on the target plan 0 of vocabulary 8. -/
def target (f : Plan → Plan) : Plan := f { plan .ready id with kind := 0, mask := 1, params := fields 64 [(0, 8), (4, 12), (5, 4), (7, 1), (8, 0x10000), (16, 0x4000), (56, 1)] }
def decode (cmds : List Cmd) (l : List (Nat × Nat)) (q : Seq → Seq) (f : Chip → Chip) : State :=
  let s := host .active ring cmds fun c => f { (c.onPlan 0 fun _ => target id) with
    seq := vput c.seq 32 (q { resetSeq with st := .idle, ctx := ctxAt }), dsq := c.dsq.map (fun d => { d with leaves := [devAddr 0 0x4000] }) }
  { s with m := (s.m.write ctxAt (context l)).write (devAddr 0 0x2000) (fields 8 [(0, 2 ^ 63 + devAddr 0 0x3000)]) }
def sq (op : Nat) (l : List (Nat × Nat)) : Cmd := io ([(0, op), (8, 2 ^ 18 + 32)] ++ l)
def mine (s : State) (op : Nat) (x : Cmd) : Prop :=
  decide (s.m.chip.take op 1 = some x ∧ x.detached = false ∧ s.m.cmdHeld x = false ∧ gives (s.m.chip.seqAt (x.f 8 4)) 32) = true
def names : Mach.CtxNames := ⟨0, none⟩
theorem witness_SequenceCommandsAct_lives :
    let create := io [(0, 0x40), (8, ctxAt), (16, 2)]
    let c := decode [create] [] (fun _ => resetSeq) id
    let bad := decode [create] [(80, 2 ^ 24)] id id
    let des := sq 0x41 []
    let gen := sq 0x42 [(12, 1048576)]
    let none' := sq 0x42 []
    let stop := sq 0x43 []
    let running := fun (x : Cmd) (y : List Cmd) => decode (x :: y) [] (fun q => { q with st := .generating, cmd := some 2 }) id
    let y := { cmd 2 (.io 5) [(0, 0x42)] with started := true }
    let run : DsqRun := ⟨0, 0, 0, 0, [], [], [], [], [], none, false, [32]⟩
    let busy := decode [stop] [] (fun q => { q with st := .generating }) fun c => c.onDsq 1 fun d => { d with run := some run }
    (c.m.chip.take 0x40 1 = some create ∧ c.m.cmdHeld create = false ∧ gives (c.m.ctxCheck (create.f 8 8) true) names ∧ c.m.chip.hif.plans[names.plan].st = .ready ∧ c.m.chip.freeSeq (create.f 16 1 % 16) = some 32) ∧
    (bad.m.chip.take 0x40 1 = some create ∧ fails (bad.m.ctxCheck (create.f 8 8) true) 0x0103) ∧
    (mine (decode [des] [] id id) 0x41 des ∧ (decode [des] [] id id).m.chip.seq[(32 : Fin 128)].st = .idle ∧ (decode [des] [] id id).m.chip.seq[(32 : Fin 128)].shadow = none ∧
      (decode [des] [] id id).m.chip.str.outst = [] ∧ (decode [des] [] id id).m.chip.str.waiting = []) ∧
    (mine (running des []) 0x41 des ∧ (running des []).m.chip.seq[(32 : Fin 128)].st = .generating) ∧
    (mine (decode [gen] [] id id) 0x42 gen ∧ gen.f 12 4 = 1048576 ∧ gives ((decode [gen] [] id id).m.ctxCheck ctxAt true) names ∧
      (decode [gen] [] id id).m.chip.dsq[dsqOf 32].failed = false ∧
      (decode [gen] [] id id).m.chip.mod.st ≠ .draining ∧ nbit ((decode [gen] [] id id).m.ctx 32 13 1) 0 = false ∧ nbit ((decode [gen] [] id id).m.ctx 32 13 1) 2 = false ∧
      (decode [gen] [] id id).m.ctx 32 88 4 < (decode [gen] [] id id).m.ctx 32 80 4) ∧
    (mine (decode [none'] [] id id) 0x42 none' ∧ none'.f 12 4 = 0) ∧ (mine (running gen []) 0x42 gen ∧ gives ((running gen []).m.ctxCheck ctxAt true) names) ∧
    mine (decode [stop] [] id id) 0x43 stop ∧ (mine busy 0x43 stop ∧ busy.m.chip.inRun 32 = true ∧ busy.m.chip.seq[(32 : Fin 128)].st = .generating) ∧
    (mine (running stop [y]) 0x43 stop ∧ (running stop [y]).m.chip.inRun 32 = false ∧ (running stop [y]).m.chip.cmd? 2 = some y ∧
      (let v := (running stop [y]).m.chip.seq[(32 : Fin 128)]
       v.st = .generating ∧ v.endWith = none ∧ v.loose = false ∧ v.commits = false ∧ v.ring = [] ∧ v.cmd = some y.id) ∧ y.ended = none ∧ y.detached = false ∧
      y.id ≠ stop.id) := by
  unfold mine; decide +kernel
theorem witness_SequenceCommandsAct_trees :
    let samp := sq 0x44 [(12, 0), (16, 0x3F800000), (20, 0x3F800000), (24, 1024), (26, 4096)]
    let w := fun (o : Nat) => BitVec.ofNat 32 (samp.f o 4)
    let nan := sq 0x44 [(12, 0x7FC00000)]
    let tree := sq 0x45 [(12, 2 ^ 18), (24, 1)]
    let b : Bytes := [7, 0, 0, 0, 0xFF, 0, 0, 0]
    let noTree := sq 0x45 [(12, 2 ^ 18), (24, 65)]
    let fork := sq 0x46 [(12, 2), (16, devAddr 0 0x5000)]
    let s := fun (x : Cmd) => decode [x] [(84, 1), (88, 1)] id id
    let forked := { s fork with m := (s fork).m.write (devAddr 0 0x5000) (context []) }
    let trim := sq 0x47 [(12, 2)]
    let cut := ((s trim).m.setCtx 32 88 4 2).setCtx 32 84 4 1
    let badTrim := sq 0x47 [(12, 3)]
    (mine (s samp) 0x44 samp ∧ (s samp).m.chip.seq[(32 : Fin 128)].shadow = none ∧ (s samp).m.chip.rangeHeld (ctxAt + 64) 16 = false ∧ Mach.mirrorPieces (s samp).m.chip (ctxAt + 64) (bytesLe 16 (samp.f 12 16)) = [] ∧ finite32 (w 12) = true ∧ 0 ≤ rank32 (w 12) ∧
      isNan32 (w 16) = false ∧ 0 < rank32 (w 16) ∧ finite32 (w 20) = true ∧ 0 < rank32 (w 20) ∧ samp.f 24 2 ≤ 1024 ∧ samp.f 26 2 ≤ 4096) ∧
    (mine (s nan) 0x44 nan ∧ isNan32 (BitVec.ofNat 32 (nan.f 12 4)) = true) ∧
    (mine (s tree) 0x45 tree ∧ (s tree).m.chip.portUp 0 = true ∧ gives ((s tree).m.chip.regionAt 0 (tree.f 12 4)) region ∧ 1 ≤ tree.f 24 1 ∧
      region.holds (tree.f 16 8) (8 * tree.f 24 1) false = true ∧ Chip.treeNodes (tree.f 24 1) b = some [(7, 0xFF)] ∧ Chip.treeOk (((s tree).m.chip.planAt 0).prm 0 4) [(7, 0xFF)] = true) ∧
    (mine (s noTree) 0x45 noTree ∧ gives ((s noTree).m.chip.regionAt 0 (noTree.f 12 4)) region ∧ 64 < noTree.f 24 1) ∧
    (mine forked 0x46 fork ∧ forked.m.chip.errs = [] ∧ forked.m.chip.seq[(32 : Fin 128)].st = .idle ∧ gives (forked.m.ctxCheck (fork.f 16 8) false) names ∧ forked.m.readNat (fork.f 16 8) 8 = forked.m.readNat ctxAt 8 ∧
      fork.f 12 4 ≤ forked.m.readNat (fork.f 16 8 + 80) 4 ∧ fork.f 12 4 ≤ forked.m.ctx 32 88 4 ∧ forked.m.chip.freeSeq (2 ^ (dsqOf 32).val) = some 33 ∧
      (forked.m.forkLeaves 32 (min (forked.m.ctx 32 84 4) (fork.f 12 4 - 1))).length = 1 ∧ forked.m.chip.dsq[dsqOf 32].leaves.length = 1) ∧
    (mine (s trim) 0x47 trim ∧ (s trim).m.chip.seq[(32 : Fin 128)].st = .idle ∧ (s trim).m.chip.seq[(32 : Fin 128)].shadow = none ∧ trim.f 12 4 ≤ (s trim).m.ctx 32 88 4 ∧ (s trim).m.chip.seq[(32 : Fin 128)].poolLeaves = [] ∧ cut.pagesOf 32 = []) ∧
    (mine (s badTrim) 0x47 badTrim ∧ (s badTrim).m.ctx 32 88 4 < badTrim.f 12 4) := by
  unfold mine; decide +kernel
theorem witness_SequenceCommandsAct_pages :
    let s := fun (x : Cmd) => decode [x] [] id id
    let set := sq 0x48 [(12, 255), (16, 1), (20, 2 ^ 18)]
    let leaf := devAddr 0 0x3000
    let add := fun (n : Nat) => io [(0, 0x49), (8, 2 ^ 18), (24, n), (28, 3), (29, 1)]
    let b := fields 16 [(0, 2 ^ 56 + devAddr 0 0x6000)]
    let tk := fun (n : Nat) => io [(0, 0x4A), (8, 2 ^ 18), (24, n), (28, 3), (29, 1)]
    (mine (s set) 0x48 set ∧ (s set).m.chip.portUp 0 = true ∧ gives ((s set).m.chip.regionAt 0 (set.f 20 4)) region ∧ set.f 16 4 = 1 ∧ set.f 12 4 < 16384 ∧
      region.holds (set.f 24 8) 16 false = true ∧ (s set).m.chip.seq[(32 : Fin 128)].st = .idle ∧ (s set).m.leafAt 32 (set.f 12 4) = some leaf ∧
      (s set).m.leafAt 32 (256 * (set.f 12 4 / 256)) = some leaf ∧ bit ((s set).m.word (leaf + set.f 12 4 % 256 * 16)) 63 = false) ∧
    ((s (add 1)).m.chip.take 0x49 1 = some (add 1) ∧ (s (add 1)).m.chip.portUp 0 = true ∧ gives ((s (add 1)).m.poolArgs (add 1) false) (region, 3) ∧ (add 1).f 29 1 = 1 ∧
      (add 1).f 24 4 + (s (add 1)).m.chip.dsq[(3 : Fin 4)].leaves.length ≤ 4096 ∧
      ∀ i < 1, (s (add 1)).m.chip.leafOk (BitVec.ofNat 64 (fieldLe b (16 * i) 8)) (BitVec.ofNat 64 (fieldLe b (16 * i + 8) 8)) = 0) ∧
    ((s (tk 4)).m.chip.take 0x4A 1 = some (tk 4) ∧ gives ((s (tk 4)).m.poolArgs (tk 4) true) (region, 3) ∧ (s (tk 4)).m.chip.dsq[(3 : Fin 4)].leaves ≠ []) ∧
    ((s (add 0)).m.chip.take 0x49 1 = some (add 0) ∧ fails ((s (add 0)).m.poolArgs (add 0) false) 2) ∧
    ((s (tk 0)).m.chip.take 0x4A 1 = some (tk 0) ∧ fails ((s (tk 0)).m.poolArgs (tk 0) true) 2) := by
  unfold mine; decide +kernel
/-- The sequence generating, with frames in the pool, a run of its sequencer, tile 63 running the plan; an expert table and CXL window 0. -/
def gen (l : List (Nat × Nat)) (q : Seq → Seq) (f : Chip → Chip) : State := decode [] l (fun y => q { y with st := .generating }) fun c => f { c.onTile 63 (fun t => { t with
  plan := some 0, exec := .running, c := vput t.c 13 0xFFFFFFFE }) with
  dsq := c.dsq.map (fun d => { d with gddrFrames := [⟨12, BitVec.ofNat 64 (2 ^ 63 + 2 ^ 56 + devAddr 0 0x10000), 0⟩] }),
  cxl := { c.cxl with win := upd c.cxl.win 0 (fun w => { w with enable := true, wstate := 1, size := 1, ports := 1 }) } }
def running (r : DsqRun) (c : Chip) : Chip := c.onDsq 1 fun d => { d with run := some r }
def row : Row := ⟨32, 0, 0, 0xFF, true, false, 0⟩
def stepRun (f : DsqRun → DsqRun) : DsqRun := f ⟨0, 0, 0, 0x6000, [], [row], [(63, 1)], [], [], none, false, [32]⟩
def dsq1 (s : State) : Dsq := s.m.chip.dsq[(1 : Fin 4)]
theorem witness_SequencerStepsRun_start :
    let s := gen [] id id
    let none' := decode [] [] id id
    let g := s.m.gather 1 0
    ((dsq1 (gen [] id (running (stepRun id)))).run.isSome = true ∧ (dsq1 none').run = none ∧ (∀ q : Fin 128, dsqOf q = 1 → none'.m.seqReady q = false) ∧ (dsq1 none').commitMap = 0) ∧
    ((dsq1 s).run = none ∧ (dsq1 s).commitMap = 0 ∧ (s.m.slotsFrom 1).filter (fun q => s.m.seqReady q) = [32] ∧ s.m.chip.seq[(32 : Fin 128)].plan = 0 ∧ s.m.dsqTurn 1 0 = true ∧
      s.m.planFree 0 = true ∧ s.m.draftFor 32 = none ∧ (dsq1 s).failed = false ∧ s.m.dsqHeld 1 = false ∧ s.m.chip.hif.plans[(0 : Fin 16)].holdTo ≤ s.m.chip.time ∧ g.2 = [row] ∧ g.1.commitDue 1 = false ∧ g.1.chip.dsq[(1 : Fin 4)].run = none ∧ g.1.planWhole 0 = true ∧
      g.1.chip.hif.plans[(0 : Fin 16)].kind = 0 ∧ ∀ t ∈ g.1.chip.hif.plans[(0 : Fin 16)].schedule, g.1.chip.tile[(Fin.ofNat 1024 t : Fin 1024)].exec ≠ .exception) := by decide +kernel
theorem witness_SequencerStepsRun_events :
    let expert := fun (st : Nat) (f : Chip → Chip) =>
      let s := gen [] id fun c => f (c.onPlan 0 fun p => { p with params := fields 64 [(0, 8), (4, 12), (5, 4), (7, 1), (24, devAddr 0 0x7000), (32, 2), (34, 1), (36, 0x10000),
        (46, 1), (48, 100), (56, 1)] })
      { s with m := s.m.write (devAddr 0 0x7010) (fields 16 [(0, cxlBase), (10, st)]) }
    let r := stepRun id
    let s := gen [] id (running r)
    let idle := gen [] id id
    let hot := expert 3 id
    let cold := expert 1 id
    let done := expert 2 fun c => c.onDsq 1 fun d => { d with pageIns := [(0, 1, 0)], waiters := [(0, 1, 63)] }
    let p := fun (x : State) => x.m.chip.hif.plans[(0 : Fin 16)]
    let tile := fun (x : State) => x.m.chip.tile[(63 : Fin 1024)]
    let plain := fun (x : State) => x.m.expertHeld (p x) = false ∧ x.m.chip.errs = [] ∧ x.m.badUnits ((p x).prm 24 8) (16 * (p x).prm 32 2) = []
    (let ev := fun (k : Fin 16) => (⟨.tile 63, .dsq 1, .event k 1⟩ : MeshPkt)
     (∀ k : Fin 16, (sent [ev k] s).m.chip.mesh.due (ev k) = true ∧ s.m.chip.mesh.due (ev k) = false ∧ Still ((sent [ev k] s).m.chip.mesh.took (ev k))) ∧
     Clear (sent [ev 3] s).m.chip.mesh (.dsq 1) (.tile 63) ∧ Clear s.m.chip.mesh (.dsq 1) (.tile 63)) ∧ plain hot ∧ plain cold ∧ plain done ∧
    cold.m.chip.holds (some (dsqSkerry 1).val) (Mach.expertAt (p cold) 1 + 8) 3 = false ∧
    done.m.chip.holds (some (dsqSkerry (Fin.ofNat 4 ((p done).prm 7 1))).val) (Mach.expertAt (p done) 1 + 8) 3 = false ∧
    (s.m.runFor 1 63 = some r ∧ r.aborted = false ∧ idle.m.runFor 1 63 = none ∧ idle.m.chip.tile[(0 : Fin 1024)].plan = none) ∧
    ((tile hot).plan = some 0 ∧ (tile hot).exec = .running ∧ Mach.cget (tile hot) 13 < 0xFFFFFFFF ∧ (p hot).kind = 0 ∧ (p hot).schedule.contains 63 = true ∧ (p hot).prm 7 1 = 1 ∧
      (1 : W32).toNat < (p hot).prm 32 2 ∧ hot.m.readNat (Mach.expertAt (p hot) 1 + 10) 1 = 3) ∧
    ((tile cold).plan = some 0 ∧ (dsq1 cold).waiters = [] ∧ (dsq1 cold).pageIns.length < 4 ∧ (p cold).st = .ready ∧ cold.m.readNat (Mach.expertAt (p cold) 1 + 10) 1 = 1 ∧
      cold.m.imageGone (p cold) 1 = false ∧ cold.m.expertSlot 1 0 = some (0, none)) ∧
    ((dsq1 done).pageIns.find? (fun e => e.2.1 == 0) = none ∧ (dsq1 done).pageIns = [(0, 1, 0)] ∧ (dsq1 done).waiters = [(0, 1, 63)] ∧ done.m.imageGone (p done) 1 = false ∧ done.m.chip.errs = [] ∧
      (∀ i < (p done).prm 46 2, done.m.chip.sliceHeld (Fin.ofNat 1024 ((p done).prm 44 2 + i)) = false) ∧
      done.m.badUnits (done.m.readNat (Mach.expertAt (p done) 1) 8) ((p done).prm 46 2 * (p done).prm 36 4) = [] ∧
      (tile done).exec = .running ∧ Mach.cget (tile done) 13 < 0xFFFFFFFF) := by
  unfold Still Clear
  dsimp only
  repeat' apply And.intro
  all_goals decide +kernel
theorem witness_SequencerStepsRun_ends :
    let r := stepRun id
    let s := gen [] id (running r)
    let late := stepRun fun r => { r with ready := [] }
    let next := fun (x : State) (r : DsqRun) => r.live.findSome? (fun s' => (x.m.trace r s').need.bind fun i => if x.m.rowReady r i then some (s', i) else none)
    let got := stepRun fun r => { r with drawn := [(0, 7)] }
    let fin := gen [] id (running got)
    let waits := stepRun fun r => { r with waiting := [63] }
    let timed := gen [] id fun c => running r (c.onPlan 0 fun p => { p with params := fields 64 [(0, 8), (4, 12), (48, 100)] })
    let full := List.replicate 15 (List.replicate 16 (0 : Byte))
    let ring := gen [] (fun q => { q with ring := full }) id
    let bad := gen [(132, 16)] (fun q => { q with ring := full }) id
    ((dsq1 s).run = some r ∧ r.kind = 0 ∧ r.aborted = false ∧ next s r = some (32, 0) ∧ s.m.dsqHeld 1 = false ∧ s.m.chip.errs = [] ∧ s.m.badUnits 0x10000 32 = []) ∧ ((dsq1 (gen [] id (running waits))).run = some waits ∧ waits.waiting ≠ []) ∧
    ((dsq1 fin).run = some got ∧ got.waiting = [] ∧ got.live = [32] ∧ dsqOf 32 = 1 ∧ fin.m.chip.seq[(32 : Fin 128)].st = .generating ∧ (fin.m.trace got 32).need = none ∧
      (∀ i : Fin 4, fin.m.chip.dsq[i].waiters = []) ∧ fin.m.chip.seq[(32 : Fin 128)].endWith = none ∧ fin.m.dsqHeld 1 = false) ∧
    ((decode [] [] id id).m.chip.seq[(32 : Fin 128)].st ≠ .generating ∧ bad.m.chip.seq[(32 : Fin 128)].ring ≠ [] ∧ bad.m.seqHeld 32 = false ∧ ring.m.seqHeld 32 = false ∧ 2 ^ bad.m.ctx 32 12 1 ≤ bad.m.ctx 32 132 4 ∧
      ring.m.chip.seq[(32 : Fin 128)].ring ≠ [] ∧ ring.m.chip.seq[(32 : Fin 128)].endWith = none ∧ ring.m.ctx 32 132 4 < 2 ^ ring.m.ctx 32 12 1 ∧
      ring.m.chip.regionLive (ring.m.ctx 32 8 4) = some region ∧ ring.m.chip.portUp region.port = true ∧
      full.length ≤ (ring.m.ctx 32 132 4 + 2 ^ ring.m.ctx 32 12 1 - ring.m.ctx 32 128 4 - 1) % 2 ^ ring.m.ctx 32 12 1) ∧
    ((dsq1 (gen [] id (running late))).run = some late ∧ late.waiting = [] ∧ (row, 0) ∈ late.rows.zipIdx ∧ row.sample = true ∧ late.kind = 0 ∧ late.aborted = false ∧
      s.m.rowReady late 0 = false ∧ s.m.chip.hif.plans[late.plan].st = .ready) ∧
    (timed.m.chip.hif.plans[r.plan].prm 48 4 ≠ 0 ∧ timed.m.chip.hif.plans[r.plan].kind = 0 ∧ ring.m.chip.errs = [] ∧ got.kind = 0 ∧ got.aborted = false ∧ timed.m.chip.hif.plans[r.plan].st = .ready ∧ (dsq1 timed).run = some r ∧ s.m.chip.hif.plans[r.plan].prm 48 4 = 0) := by
  decide +kernel
/-- A served module with module ID 5 whose straits are in a state with a set of lanes; module 9 and 16385 are reachable. -/
def strait (st : Nat) (lanes : Byte) (l : Strait → Strait) (f : Chip → Chip) : State := gddr 2 fun c => f { c with str := { c.str with
  modId := 5, link := c.str.link.map (fun x => l { x with st := st, lanes := lanes, rx := 4095, reach := x.reach.set 0 (some (fields 256 [(1, 1)])) }) } }
def link (s : State) : Strait := s.m.chip.str.link[(11 : Fin 12)]
/-- A packet with its CRC. -/
def pkt (dest src typ : Nat) (ref addr len : Nat) (payload : Bytes) : Packet :=
  let p : Packet := ⟨BitVec.ofNat 16 dest, BitVec.ofNat 16 src, BitVec.ofNat 8 typ, 0, BitVec.ofNat 16 len, 77, BitVec.ofNat 32 ref, BitVec.ofNat 64 addr, 0, 0, 0, 0, payload⟩
  { p with crc := pktCrc p }
def own' (typ addr : Nat) (payload : Bytes) : Packet := pkt 0xFFFF 9 typ 0 addr payload.length payload
set_option maxRecDepth 100000 in
theorem witness_StraitsComeUpAndGoDown_flits :
    let s := strait 3 0xFF id id
    let idle := fields 508 [(496, 0x0000), (500, 3), (502, 4)]
    let flit := idle ++ wordBytes (crc32 idle)
    let ack := fields 508 [(496, 0x1000), (498, 0xFFF)]
    let acked := ack ++ wordBytes (crc32 ack)
    let kept := strait 3 0xFF (fun l => { l with buffer := [(4095, [1]), (0, [2])] }) id
    let old := fields 508 [(496, 0x0FFF), (500, 3)]
    let twice := old ++ wordBytes (crc32 old)
    let gap := fields 508 [(496, 0x0001)]
    ((link s).st = 3 ∧ bit (link s).lanes (7 : Fin 8).val = true ∧ 4 ≤ popCount (setBit (link s).lanes 7 false)) ∧
    (bit (link (strait 3 0x0F id id)).lanes (0 : Fin 8).val = true ∧ popCount (setBit (link (strait 3 0x0F id id)).lanes 0 false) < 4) ∧ ([] : Bytes).length ≠ 512 ∧
    (flit.length = 512 ∧ BitVec.ofNat 32 (fieldLe flit 508 4) = crc32 (flit.take 508) ∧ fieldLe flit 496 2 / 4096 = 0 ∧ fieldLe flit 496 2 = ((link s).rx + 1) % 4096 ∧
      (link s).buffer = [] ∧ (link s).outReq = [] ∧ (link s).outRsp = []) ∧
    (acked.length = 512 ∧ BitVec.ofNat 32 (fieldLe acked 508 4) = crc32 (acked.take 508) ∧ fieldLe acked 496 2 / 4096 = 1 ∧ (link kept).buffer = (4095, [1]) :: [(0, [2])] ∧
      fieldLe acked 498 2 % 4096 = 4095) ∧
    (twice.length = 512 ∧ BitVec.ofNat 32 (fieldLe twice 508 4) = crc32 (twice.take 508) ∧ fieldLe twice 496 2 / 4096 = 0 ∧ fieldLe twice 496 2 ≠ ((link s).rx + 1) % 4096 ∧
      ((link s).rx + 4096 - fieldLe twice 496 2) % 4096 < 2048 ∧ fieldLe gap 496 2 ≠ ((link s).rx + 1) % 4096 ∧ 2048 ≤ ((link s).rx + 4096 - fieldLe gap 496 2) % 4096) := by
  decide +kernel
set_option maxRecDepth 100000 in
theorem witness_StraitsComeUpAndGoDown_credits :
    let s := strait 3 0xFF id id
    let alive := own' 0xF5 0 []
    let paid := strait 3 0xFF (fun l => { l with credRsp := 1, inRsp := [alive], heldRsp := 1 }) id
    let gone := strait 3 0xFF id fun c => { c with pwr := { c.pwr with engFailed := 0x20 } }
    (link paid).outReq = [] ∧ (link paid).outRsp = [] ∧ 1 ≤ (link paid).credRsp ∧ (link s).credRsp = 0 ∧ alive ∉ (link s).inRsp ∧ alive ∉ (link s).inReq ∧
    (link paid).inRsp = [alive] ∧ 0 < (link paid).heldRsp ∧ bit s.m.chip.pwr.engFailed ((11 : Fin 12).val / 2) = false ∧ s.m.chip.railsOn = true ∧
    bit gone.m.chip.pwr.engFailed 5 = true ∧ s.m.chip.str.modId ≠ 0 ∧ fieldLe (fields 16 [(0, 7), (8, 11)]) 0 4 ≠ s.m.chip.str.domain := by decide +kernel
set_option maxRecDepth 100000 in
theorem witness_StraitsComeUpAndGoDown_links :
    let anon := fun (st : Nat) => strait st 0xFF id fun c => { c with str := { c.str with modId := 0 } }
    let good := fun (typ : Nat) (p : Packet) => p.crc = pktCrc p ∧ p.typ.toNat = typ ∧ p.dest = 0xFFFF ∧ p.flags.toNat < 8 ∧ p.rsv = 0 ∧ p.len.toNat = p.payload.length
    let ack := own' 0xF1 0 (fields 16 [(0, 7), (4, 8), (8, 11)])
    let far := own' 0xF1 0 (fields 16 [(8, 10)])
    let name := own' 0xF2 0 (fields 16 [(0, 7), (4, 20480)])
    let reach := own' 0xF4 9 (List.replicate 256 1)
    let alive := own' 0xF5 0 []
    let s := strait 3 0xFF id id
    ((strait 1 0 id id).m.chip.railsOn = true ∧ (strait 1 0 id id).m.chip.lit ((11 : Fin 12).val / 2) = true ∧ (link (strait 1 0 id id)).st = 1 ∧ 4 ≤ popCount (0x0F : Byte)) ∧
    ((link (anon 2)).st = 2 ∧ good 0xF1 ack ∧ fieldLe ack.payload 8 1 = (11 : Fin 12).val ∧ (anon 2).m.chip.str.modId = 0) ∧ (good 0xF1 far ∧ fieldLe far.payload 8 1 ≠ 11) ∧
    (good 0xF2 name ∧ (link (anon 3)).st = 3 ∧ fieldLe name.payload 4 2 = 20480) ∧ (s.m.chip.str.modId ≠ 0 ∧ fieldLe name.payload 4 2 ≠ s.m.chip.str.modId) ∧
    (good 0xF4 reach ∧ fld reach.addr 0 4 = (9 : Fin 10).val) ∧ good 0xF5 alive ∧ { alive with crc := 0 }.crc ≠ pktCrc { alive with crc := 0 } ∧
    ((link (strait 0 0 id id)).st ≠ 3 ∧ (strait 0 0 id id).m.chip.str.waiting = [] ∧ (∀ (e : Fin 6) (k : Fin 16), s.m.chip.str.ce[e].slots[k].run = none) ∧
      (link (strait 5 0 id id)).st = 5) := by decide +kernel
/-- A request to module 9 waits for its answer. -/
def req (typ : Nat) (o : Owner) (tries : Nat) : Req := ⟨pkt 9 5 typ 0 0 16 (if typ = 2 then [] else List.replicate 16 0), 0, some 0, tries, o⟩
def asking (r : Req) (f : Chip → Chip) : State := strait 3 0xFF id fun c => f { c with str := { c.str with outst := [r] } }
set_option maxRecDepth 100000 in
theorem witness_PeersAreServed_requests :
    let good := fun (s : State) (typ : Nat) (p : Packet) => (link s).st = 3 ∧ Chip.pktBad typ p = false ∧ bit p.flags 0 = false
    let a := devAddr 0 0x10000
    let exp := fun (c : Chip) => c.onStr fun s => { s with exp := s.exp.set 15 ⟨true, true, true, a, 0x10000⟩ }
    let s := strait 3 0xFF id exp
    let held := strait 3 0xFF id fun c => (c.onSk 0 fun k => { k with st := .resetting }).onStr fun y => { y with exp := y.exp.set 15 ⟨true, true, true, 0, 0x10000⟩ }
    let wr := pkt 5 9 1 0 a 256 (List.replicate 256 7)
    let rd := pkt 5 9 2 0 a 256 []
    let out := pkt 5 9 1 0 (a + 0xFF80) 256 (List.replicate 256 7)
    let far := pkt 5 9 1 0 0 256 (List.replicate 256 7)
    (∃ j ∈ s.m.chip.candidates wr.src.toNat, s.m.chip.str.link[j].lanes = 0xFF) ∧
    (good s 1 wr ∧ s.m.chip.refusal wr = 0 ∧ s.m.chip.holds (some (Chip.strSkerry 11).val) a wr.payload.length = false ∧ Mach.mirrorPieces s.m.chip a wr.payload = [] ∧ bit wr.flags 2 = false ∧
      s.m.chip.errs = []) ∧
    (good held 1 far ∧ held.m.chip.refusal far = 0 ∧ held.m.chip.holds (some (Chip.strSkerry 11).val) 0 far.payload.length = true ∧ held.m.chip.errs = [] ∧ Mach.holdRuns 0 far.payload.length = [(0, far.payload.length)] ∧
      far ∉ (link held).inReq ∧ far ∉ (link held).inRsp) ∧ (good s 1 out ∧ s.m.chip.refusal out = 3) ∧ wr ∉ (link s).inReq ∧ wr ∉ (link s).inRsp ∧
    Chip.pktBad 1 { wr with crc := 0 } = true ∧
    (good s 2 rd ∧ s.m.chip.refusal rd = 0 ∧ s.m.chip.holds (some (Chip.strSkerry 11).val) a rd.len.toNat = false ∧ s.m.badUnits a rd.len.toNat = []) := by
  decide +kernel
set_option maxRecDepth 100000 in
theorem witness_PeersAreServed_engine :
    let good := fun (s : State) (typ : Nat) (p : Packet) => (link s).st = 3 ∧ Chip.pktBad typ p = false ∧ bit p.flags 0 = false
    let eng := strait 3 0xFF id fun c => c.onEng 5 fun e => { e with valid := true, table := devAddr 0 0x20000 }
    let e := { eng with m := eng.m.write (devAddr 0 0x20000 + 64 * 15) (fields 64 [(4, 3)]) }
    let coll := pkt 5 9 3 0 0x7F 16 (List.replicate 16 1)
    let arr := pkt 5 9 4 2 0x7F 0 []
    (good e 3 coll ∧ e.m.engWaits 11 coll = false ∧ e.m.engWaits 11 arr = false ∧ e.m.chip.refusal coll = 0 ∧ engOf (fld coll.addr 4 4) = some 5 ∧ e.m.chip.str.ce[(5 : Fin 6)].slots[(15 : Fin 16)].run = none ∧
      e.m.chip.str.ce[(5 : Fin 6)].rx = [] ∧ fld coll.addr 32 16 = e.m.chip.str.ce[(5 : Fin 6)].slots[(15 : Fin 16)].serial) ∧
    (good e 4 arr ∧ e.m.chip.refusal arr = 0 ∧ e.m.chip.str.ce[(5 : Fin 6)].valid = true ∧ e.m.chip.str.ce[(5 : Fin 6)].failed = false ∧
      min (e.m.chip.str.ce[(5 : Fin 6)].slots[(15 : Fin 16)].arrivals + arr.ref.toNat) 0xFFFFFFFF < dsc (e.m.read (e.m.chip.str.ce[(5 : Fin 6)].table + 64 * 15) 64) 4 4) := by
  decide +kernel
set_option maxRecDepth 100000 in
theorem witness_PeersAreServed_answers :
    let good := fun (typ : Nat) (p : Packet) => Chip.pktBad typ p = false ∧ bit p.flags 0 = false ∧ p.ref = 77 ∧ p.src = 9 ∧ p.dest.toNat = 5
    let ack := fun (typ : Nat) => pkt 5 9 typ 77 0 0 []
    let resp := pkt 5 9 0x82 77 0 16 (List.replicate 16 3)
    let d : Dma := ⟨4, true, [], 0, 0, 16, 0, true, true, none⟩
    let put := asking (req 1 (.tilePut 0 4) 0) id
    let get := asking (req 2 (.tileGet 0 4 0) 0) fun c => c.onTile 0 fun t => { t with dm := [d] }
    let o : CeOp := ⟨[], [], 6, 0, 0, [], true, false, false⟩
    let arr := asking (req 4 (.arrive 5 15 6) 0) fun c => c.onCe 5 15 fun x => { x with run := some o }
    let last := asking (req 1 (.tilePut 0 4) 3) id
    (put.m.chip.str.outst = [req 1 (.tilePut 0 4) 0] ∧ put.m.chip.str.waiting = [] ∧ (link put).st = 3 ∧ (req 1 (.tilePut 0 4) 0).pkt.seq = 77 ∧
      (req 1 (.tilePut 0 4) 0).pkt.dest = 9 ∧ put.m.chip.str.modId = 5 ∧ put.m.answerWaits 11 (req 1 (.tilePut 0 4) 0) = false ∧ ack 0x81 ∉ (link put).inReq ∧
      ack 0x81 ∉ (link put).inRsp ∧ (∀ j : Fin 12, put.m.chip.str.link[j].outReq = [])) ∧ get.m.answerWaits 11 (req 2 (.tileGet 0 4 0) 0) = false ∧
    (asking (req 3 (.coll 5 15 6) 0) id).m.answerWaits 11 (req 3 (.coll 5 15 6) 0) = false ∧ ack 0x83 ∉ (link put).inReq ∧ ack 0x83 ∉ (link put).inRsp ∧
    arr.m.answerWaits 11 (req 4 (.arrive 5 15 6) 0) = false ∧
    (∃ q ∈ (link (strait 3 0xFF (fun l => { l with outReq := [ack 0x81] }) id)).outReq, q.seq = (ack 0x81).seq) ∧
    good 0x81 (ack 0x81) ∧ (good 0x82 resp ∧ bit resp.flags 2 = false ∧ resp.payload.length = (req 2 (.tileGet 0 4 0) 0).pkt.len.toNat ∧
      get.m.chip.tile[(0 : Fin 1024)].dm = [d] ∧ d.get = true ∧ (req 2 (.tileGet 0 4 0) 0).owner = .tileGet 0 d.key 0) ∧
    (good 0x83 (ack 0x83) ∧ (req 3 (.coll 5 15 6) 0).pkt.typ.toNat = 3 ∧ (asking (req 3 (.coll 5 15 6) 0) id).m.chip.str.ce[(5 : Fin 6)].slots[(15 : Fin 16)].run = none) ∧
    (good 0x84 (ack 0x84) ∧ arr.m.chip.str.ce[(5 : Fin 6)].slots[(15 : Fin 16)].run = some o ∧ (req 4 (.arrive 5 15 6) 0).owner = .arrive 5 15 o.serial) ∧
    good 0x8F (ack 0x8F) ∧ (∀ r ∈ (strait 3 0xFF id id).m.chip.str.outst, r.pkt.seq ≠ (ack 0x81).ref) ∧ (req 1 (.tilePut 0 4) 0).tries < put.m.chip.str.retries ∧
    (last.m.chip.str.outst = [req 1 (.tilePut 0 4) 3] ∧ last.m.chip.str.retries ≤ (req 1 (.tilePut 0 4) 3).tries) ∧ (∀ r ∈ put.m.chip.str.outst, r.pkt.seq ≠ 78) := by
  dsimp only
  repeat' apply And.intro
  all_goals decide +kernel
/-- An operation runs in slot 15 of engine 5. -/
def collect (o : CeOp) (f : Chip → Chip) : State := strait 3 0xFF id fun c => f (c.onCe 5 15 fun x => { x with run := some o })
def op (l : List (Nat × Nat)) (acked : Bool) : CeOp := ⟨fields 64 l, [], 6, 0, 0, [], true, acked, false⟩
theorem witness_CollectivesAndShadowsRun_operations :
    let slot := fun (s : State) => s.m.chip.str.ce[(5 : Fin 6)].slots[(15 : Fin 16)]
    let a := devAddr 0 0x10000
    let barrier := op [(0, 5), (42, 3)] false
    let send := op [(0, 1), (42, 3)] true
    let waits := op [(0, 1), (42, 3)] false
    let all := op [(0, 3), (16, a), (24, 32), (28, 2), (42, 3)] false
    let sum := op [(0, 4), (16, a), (24, 32), (28, 2), (42, 3)] false
    let told := op [(0, 5), (43, 15), (44, 1023), (48, 9)] false
    let b := [(0, List.replicate 16 (0 : Byte)), (16, List.replicate 16 9)]
    let r := collect sum fun c => c.onEng 5 fun e => { e with rx := [⟨15, 6, 0, 1, 0, wordBytes (0x3F800000 : W32) ++ List.replicate 12 0, false⟩] }
    let one := wordBytes (0x3F800000 : W32) ++ List.replicate 12 0
    let s := collect all fun c => c.onEng 5 fun e => { e with rx := [⟨15, 6, 0, 1, 0, List.replicate 16 9, false⟩] }
    let idle := strait 3 0xFF id id
    ((slot (collect barrier id)).run = some barrier ∧ (slot (collect barrier id)).queued = none ∧ dsc barrier.desc 0 1 = 5 ∧ dsc barrier.desc 42 1 = 3) ∧
    ((slot (collect send id)).run = some send ∧ dsc send.desc 0 1 = 1 ∧ send.arriveAcked = true ∧ dsc send.desc 42 1 = 3) ∧
    ((slot (collect waits id)).run = some waits ∧ dsc waits.desc 0 1 = 1 ∧ waits.arriveAcked = false) ∧
    ((slot s).run = some all ∧ dsc all.desc 0 1 ≠ 5 ∧ dsc all.desc 0 1 ≠ 1 ∧ dsc all.desc 42 1 = 3 ∧ Mach.atLast all = true ∧ s.m.resultOf 5 15 all = some b ∧
      s.m.chip.holds (some (Mach.engSk 5).val) (dsc all.desc 16 8) (Mach.dstLen all.desc) = false ∧ s.m.chip.rangeMapped (dsc all.desc 16 8) (Mach.dstLen all.desc) = true ∧
      s.m.chip.errs = [] ∧ Mach.dstLen all.desc ≤ 0x1000000) ∧ (slot (collect told id)).run = some told ∧ (slot (collect told id)).queued = none ∧
    Clear (collect told id).m.chip.mesh (.ce 5) (.tile (Fin.ofNat 1024 (dsc told.desc 44 2))) ∧ (slot idle).queued = none ∧
    ((slot r).run = some sum ∧ Mach.atLast sum = true ∧ r.m.resultOf 5 15 sum = some [(0, one)] ∧ Mach.mirrorPieces r.m.chip (dsc sum.desc 16 8) one = []) ∧
    (collect all id).m.resultOf 5 15 all = none ∧ (dsc told.desc 0 1 = 5 ∧ dsc told.desc 42 1 = 0 ∧ dsc told.desc 43 1 = 15) ∧
    (Mach.dstLen barrier.desc = 0 ∧ Mach.dstLen all.desc = 32 ∧ (slot s).queued = none ∧ Mach.mirrorPieces s.m.chip (dsc all.desc 16 8) (s.m.chip.freeBytes 32) = []) ∧
    (slot idle).run = none ∧ idle.m.chip.railsOn = true ∧ bit (BitVec.ofNat 64 (2 ^ 63) : W64) 63 = true ∧ bit (0 : W64) 63 = false := by
  unfold Clear
  dsimp only
  repeat' apply And.intro
  all_goals decide +kernel
theorem witness_CollectivesAndShadowsRun_windows :
    let v : W64 := BitVec.ofNat 64 (2 ^ 63 + 2 ^ 62 + devAddr 0 0)
    let exp := fun (e : Bool) (n : Nat) => strait 3 0xFF id fun c => c.onStr fun y => { y with exp := y.exp.set 15 ⟨e, true, true, 0, n⟩ }
    let w := fun (s : State) => s.m.chip.str.exp[(15 : Fin 16)]
    let fire := io [(0, 0x81), (8, 7), (9, 15), (12, 2)]
    let eng := host .active ring [fire] fun c => c.onEng 5 fun e => { e with valid := true, table := devAddr 0 0x20000 }
    let e := { eng with m := eng.m.write (devAddr 0 0x20000 + 64 * 15) (fields 64 [(4, 3)]) }
    let bad := io [(0, 0x81), (8, 5)]
    ((w (exp false 65536)).enable = false ∧ bit v 63 = true ∧ (w (exp false 65536)).len ≠ 0 ∧ Mach.spanMapped (exp false 65536).m.chip (fld v 16 32 * 65536) 65536 = true) ∧
    ((w (exp false 0)).enable = false ∧ (w (exp false 0)).len = 0) ∧ ((w (exp true 65536)).enable = true ∧ bit (0 : W64) 63 = false) ∧
    Mach.spanMapped (exp false (2 ^ 40)).m.chip (fld v 16 32 * 65536) (2 ^ 40) = false ∧ e.m.chip.str.ce[(5 : Fin 6)].failed = false ∧
    (e.m.chip.take 0x81 1 = some fire ∧ fire.detached = false ∧ engOf (fire.f 8 1) = some 5 ∧ fire.f 9 1 = 15 ∧ e.m.chip.str.ce[(5 : Fin 6)].valid = true ∧
      min (e.m.chip.str.ce[(5 : Fin 6)].slots[(15 : Fin 16)].arrivals + fire.f 12 4) 0xFFFFFFFF < dsc (e.m.read (e.m.chip.str.ce[(5 : Fin 6)].table + 64 * 15) 64) 4 4) ∧
    ((host .active ring [bad] id).m.chip.take 0x81 1 = some bad ∧ engOf (bad.f 8 1) = none) := by decide +kernel
/-- The idle sequence of a reachable partner, with a shadow. -/
def shadowed (x : Cmd) (h : Option Shadow) : State := decode [x] [] (fun q => { q with shadow := h }) fun c => c.onStr fun y => { y with
  modId := 5, partnerEn := true, partner := 9, link := y.link.map (fun l => { l with st := 3, lanes := 0xFF, reach := l.reach.set 0 (some (fields 256 [(1, 1)])) }) }
def shadow (due : Bool) : Shadow := ⟨0x200, 0, 0, 3, 0, 0, 1, 0, 1, due, []⟩
theorem witness_CollectivesAndShadowsRun_shadows :
    let copy := fun (n : Nat) => io [(0, 0x80), (8, devAddr 0 0x10000), (16, 9 * 2 ^ 48 + 0x100), (24, n), (32, 1)]
    let set := fun (a : Nat) => sq 0x82 [(16, a)]
    let sync := sq 0x83 []
    let c := (shadowed (copy 16) none).m.chip
    let near := (shadowed (set 512) none).m.chip
    let seq := fun (s : State) => s.m.chip.seq[(32 : Fin 128)]
    let h := fun (due : Bool) => shadowed sync (some (shadow due))
    (c.take 0x80 1 = some (copy 16) ∧ (shadowed (copy 16) none).m.cmdHeld (copy 16) = false ∧ (copy 16).f 24 8 ≤ 2 ^ 32 ∧ 16 ≤ (copy 16).f 24 8 ∧ (copy 16).f 24 8 % 16 = 0 ∧ (copy 16).f 33 1 ≤ 2 ∧ c.localOf ((copy 16).f 8 8) = some (devAddr 0 0x10000) ∧
      c.rangeMapped (devAddr 0 0x10000) 16 = true ∧ c.localOf ((copy 16).f 16 8) = none ∧ devAddr 0 0x10000 % 16 = 0 ∧ (copy 16).f 16 8 % 16 = 0 ∧
      (copy 16).f 16 8 % 2 ^ 48 + 16 ≤ 2 ^ 48 ∧ c.str.modId ≠ 0 ∧ c.reachable ((copy 16).f 16 8 / 2 ^ 48) = true ∧ (copy 16).f 32 1 = 1) ∧
    ((shadowed (copy 15) none).m.chip.take 0x80 1 = some (copy 15) ∧ (shadowed (copy 15) none).m.cmdHeld (copy 15) = false ∧ (copy 15).f 24 8 < 16) ∧
    (mine (shadowed (set 0) none) 0x82 (set 0) ∧ (set 0).f 16 8 = 0 ∧ (seq (shadowed (set 0) none)).st = .idle ∧ (seq (shadowed (set 0) none)).shadow = none) ∧
    (mine (shadowed (set 512) none) 0x82 (set 512) ∧ (set 512).f 16 8 ≠ 0 ∧ (set 512).f 16 8 % 512 = 0 ∧ (set 512).f 16 8 + 512 ≤ 2 ^ 48 ∧ near.str.modId ≠ 0 ∧
      near.str.partnerEn = true ∧ near.reachable near.str.partner = true) ∧ (mine (shadowed (set 511) none) 0x82 (set 511) ∧ (set 511).f 16 8 % 512 ≠ 0) ∧
    (mine (shadowed sync none) 0x83 sync ∧ (seq (shadowed sync none)).shadow = none) ∧
    (mine (h false) 0x83 sync ∧ (seq (h false)).shadow = some (shadow false) ∧ (h false).m.chip.str.partnerEn = true ∧ (h false).m.chip.str.outst = [] ∧
      (h false).m.chip.str.waiting = []) ∧ (mine (h true) 0x83 sync ∧ (seq (h true)).shadow = some (shadow true) ∧ (shadow true).due = true ∧ (h true).m.chip.str.partnerEn = true ∧ (h true).m.chip.str.waiting = [] ∧ (h true).m.chip.str.outst = []) := by
  unfold mine; decide +kernel
theorem witness_StepTakesTheFront : State.reset.pending = [] ∧ (State.reset.withFetchWord 8 0).pending = [] := by decide +kernel
theorem witness_MemoryKeepsItsForm :
    let s := { host .active ring [] id with pending := [.bar2Access 0 (BitVec.ofNat 38 (devAddr 0 0)) 4 (some [1, 0, 2, 0]) []] }
    let after := match step s with | .next t => t.m.mem | _ => []
    (∃ t, step s = .next t) ∧ s.memWf ∧ after.length = 2 := ⟨⟨_, rfl⟩, by unfold State.memWf; decide +kernel⟩
/-! ### Ill-formed commands: one for each check -/
theorem test_ill_formed :
    let p := pkt 5 9 1 0 0 16 []
    let f : ReadFault := { addr := 2 ^ 48, kind := .correctable }
    let g : ReadFault := { addr := 0, kind := .retried 0 }
    Instr.wf (.hotSwapClose 65536) = false ∧ Instr.wf (.hotSwapOpen .presence 65536) = false ∧ Instr.wf (.sramRowRepair 0 49152) = false ∧
    Instr.wf (.sramPatrolScrub 0 [f]) = false ∧ Instr.wf (.gddr7ScrubPass [g]) = false ∧ Instr.wf (.cxlApertureAccess 0 0 0 none []) = false ∧
    Instr.wf (.cxlApertureAccess 0 0 4 none [1]) = false ∧ Instr.wf (.bar2Access 0 0 4 (some [1]) []) = false ∧ Instr.wf (.hostLinkUp 0 2 resetPort.fn) = false ∧
    Instr.wf (.flitReceive 0 []) = false ∧ Instr.wf (.readReq 0 { p with payload := [1] }) = false ∧ Instr.wf (.write 0 p) = false ∧ Instr.wf (.sampleRow 0 65536) = false ∧
    Instr.wf (.hostLinkUp 0 4 { resetPort.fn with payload := 1024 }) = false ∧ Instr.wf (.hostLinkUp 0 4 resetPort.fn) = true ∧
    Instr.wf (.controlTick { tickIn with volts := 65536 }) = false ∧ Instr.wf (.controlTick { tickIn with periods := [(2, 1)] }) = false ∧ Instr.wf (.controlTick tickIn) = true ∧
    Instr.wf (.registerWrite 0 false 0 0 none) = false ∧ Instr.wf (.cxlPortTrained 0 4 true true 9 false) = false ∧ Instr.wf (.updateComponent cl 0 0 0) = false ∧
    Instr.wf (.tachGap 0 151) = true ∧ Instr.wf (.rpdoReceive 0 (List.replicate 65 0)) = false ∧ Instr.wf (.planKey cl 0 (List.replicate 114 0)) = false := by decide +kernel

/-! ### The spec's worked examples -/
/-- The KL4 block of model A: bytes 0xC6 and 0x12, scale 0x7F, NX raised. -/
theorem test_kl4_block : convArray 9 false false 0 0 ([0x40A00000, 0xC0200000, 0x3FA66666, 0x3F19999A] ++ List.replicate 28 0) =
    ([0xC6, 0x12] ++ List.replicate 14 0, [0x7F], cNX) := by decide +kernel
/-- The KL4 block partial: 0xC1E95F62, NX raised. -/
theorem test_kl4_partial : blockPartial 9 9 (0x26 :: List.replicate 15 0) (0x1C :: List.replicate 15 0) 0x7F 0x80 = (0xC1E95F62, cNX) := by decide +kernel
/-- The MXFP4 block of model B: elements 0x7, 0x6, 0x9, scale 0x80, SAT raised. -/
theorem test_mxfp4_block : let r := convArray 7 false false 0 0 ([0x41500000, 0x41200000, 0xBFB33333] ++ List.replicate 29 0)
    r.1.take 2 = [0x67, 0x09] ∧ r.2.1 = [0x80] ∧ r.2.2 &&& cSAT = cSAT := by decide +kernel
/-- FP32 to BF16: ties go to the even upper half. -/
theorem test_bf16_ties : convElem 1 0x3F808000 127 none false = (0x3F80, cNX) ∧ convElem 1 0x3F818000 127 none false = (0x3F82, cNX) := by decide +kernel
/-- SR of 1.3 into KL4: code 2 from r = 18,071 on. -/
theorem test_sr_kl4 : (convElem 9 0x3FA66666 127 (some 18071) false).1 = 2 ∧ (convElem 9 0x3FA66666 127 (some 18070) false).1 = 1 := by decide +kernel
/-- The KV frame of R177: position 300,000 is found in device 13 at offset 0x0200_0000. -/
theorem test_kv_walk :
    let m := ((gddr 2 id).m.write 0x1090 (wordBytes (BitVec.ofNat 64 (2 ^ 63 + 0x2000)))).write 0x24F0 (wordBytes (0x8100001C32000000 : W64))
    (m.walk 0x1000 300000 18).toOption.map (fun w => (w.leafAt, w.frame)) = some (0x24F0, 0x001C32000000) ∧ devOf 0x001C32000000 = 13 ∧
    devOff 0x001C32000000 = 0x02000000 := by decide +kernel
/-- The junction sample: em −40, um −2,750 at ym 1,512. -/
theorem test_junction_terms : resetChip.terms 0 8 1512 0 0 = (-40, -2750, 0) := by decide +kernel
/-- The installer's write of 3,600 W to 4010.03 as both controllers record it: bytes 4, 6 and 16 to 25. -/
def inst : Client := ⟨.can, 0x21⟩
def recorded (s : State) (k : Fin 2) : Bytes :=
  match exec (.objectWrite inst 0x4010 3 [0x10, 0x0E]) s with
  | .next t => (t.m.chip.nv[k].log.queue.map (fun e => let b := logBytes e.2; [b.getD 4 0, b.getD 6 0] ++ slice b 16 10)).flatten
  | _ => []
theorem test_installer_record :
    let s := on .serving fun c => holds [] { c with sec := { c.sec with roles := [⟨inst, 1, 0⟩] } }
    recorded s 0 = [4, 0x15, 1, 2, 0x21, 0x10, 0x10, 0x40, 3, 0x10, 0x0E, 0] ∧ recorded s 1 = recorded s 0 := by decide +kernel

end Sys2Proof.Tests
end

/-!
PROOFS. The machine after reset (R12, R40, R103, R161, R180, R234, R235, R271, R311): every numbered part stands in the one record that its chapter gives for reset.
-/
namespace Sys2Proof.Machine

@[simp] theorem reset_sk (k : Fin 16) : State.reset.m.chip.sk[k] = resetSkerry := Vector.getElem_replicate ..
@[simp] theorem reset_dev (d : Fin 24) : State.reset.m.chip.gmc.dev[d] = resetGddr := Vector.getElem_replicate ..
@[simp] theorem reset_plan (k : Fin 16) : State.reset.m.chip.hif.plans[k] = resetPlan := Vector.getElem_replicate ..
@[simp] theorem reset_dsq (n : Fin 4) : State.reset.m.chip.dsq[n] = resetDsq := Vector.getElem_replicate ..
@[simp] theorem reset_seq (k : Fin 128) : State.reset.m.chip.seq[k] = resetSeq := Vector.getElem_replicate ..
@[simp] theorem reset_link (k : Fin 12) : State.reset.m.chip.str.link[k] = resetStrait := Vector.getElem_replicate ..
@[simp] theorem reset_hifCount (k : Fin 8) : State.reset.m.chip.hif.cnt[k] = 0 := Vector.getElem_replicate ..
@[simp] theorem reset_win_enable (w : Fin 16) : State.reset.m.chip.cxl.win[w].enable = false := by
  simp [State.reset, resetChip, resetCxl]

/-- The mirror of a tile's slice is its own slot of a device (R161). -/
@[simp] theorem reset_tile (g : Fin 1024) :
    State.reset.m.chip.tile[g] = { resetTile with mirrorSlot := some (g.val % 24, g.val / 24) } := Vector.getElem_ofFn ..

theorem reset_memWf : State.reset.memWf := ⟨rfl, List.Pairwise.nil⟩

/-- Settles O59: the numbered parts by the lemmas on reset above, the single registers by their values in the reset records. -/
theorem resetIsAsSpecified : Obligations.ResetIsAsSpecified := by
  unfold Obligations.ResetIsAsSpecified
  refine ⟨rfl, reset_memWf, fun _ => rfl, rfl, rfl, rfl, rfl, rfl, fun k => ?skerries, fun g => ?tiles, reset_dev, rfl, rfl, reset_win_enable,
    rfl, reset_hifCount, rfl, rfl, rfl, fun k => ?plans, fun n => ?sequencers, fun k => ?sequences, rfl, rfl, rfl, rfl, rfl, rfl, rfl, rfl, fun k => ?straits⟩
  case skerries => rw [reset_sk]; exact ⟨rfl, rfl, rfl, rfl, rfl, rfl, rfl⟩
  case tiles => rw [reset_tile]; exact ⟨rfl, rfl, rfl, rfl, rfl, rfl, rfl⟩
  case plans => rw [reset_plan]; exact ⟨rfl, rfl⟩
  case sequencers => rw [reset_dsq]; exact ⟨rfl, rfl, rfl⟩
  case sequences => rw [reset_seq]; exact ⟨rfl, rfl⟩
  case straits => rw [reset_link]; rfl

end Sys2Proof.Machine

/-!
PROOFS. A write of SKR_RESET that meets the host ports dark (R436, R438): while the package rails go down it is refused and counted, though no port is up.
-/
namespace Sys2Proof.Machine

/-- SKR_RESET of skerry 0 (R103, R188). -/
theorem regAt_skrReset_zero : regAt 0x10001C = some (.skrReset 0) := by decide

/-- A keyed SKR_RESET is refused while the module has darkened its ports (R438). -/
theorem skrReset_darkened (k : Fin 16) {v : W32} {m : Mach} (key : fld v 16 16 = 0x5A5A) (go : bit v 0 = true) (dark : m.chip.pwr.darkened = true) :
    m.skrReset k v = m.on Chip.hifRefused := by
  simp [Mach.skrReset, Chip.resetRefused, key, go, dark]

/-- Through a port that is not up, a keyed write of SKR_RESET still reaches the counters of refused commands while the ports are dark (R438). -/
theorem exec_skrReset_darkened {s : State} {hp : Fin 2} (down : s.m.chip.portUp hp = false) (rails : s.m.chip.railsOn = true) (dark : s.m.chip.pwr.darkened = true) :
    exec (.registerWrite hp false 0x10001C 4 (some 0x5A5A0001)) s = .next { s with m := s.m.on Chip.hifRefused } := by
  have refused := skrReset_darkened 0 (v := 0x5A5A0001) (m := s.m) (by decide) (by decide) dark
  have write : s.m.bar0Write hp 0x10001C 4 0x5A5A0001 = s.m.on Chip.hifRefused := by
    simpa [Mach.bar0Write, Mach.darkWrite, Chip.aligned, down, rails, dark, regAt_skrReset_zero] using refused
  exact congrArg (fun m => Host.Outcome.next { s with m := m }) write

/-- HIF_ERR.REFUSED and its counter rise (R234), so a chip whose REFUSED bit is clear is not what it was. -/
theorem hifRefused_ne_self {c : Chip} (clear : bit c.hif.err 3 = false) : c.hifRefused ≠ c := by
  intro h
  have same : setBit c.hif.err 3 true = c.hif.err := congrArg (fun d : Chip => d.hif.err) h
  have set : bit (setBit c.hif.err 3 true) 3 = true := by simp [bit, setBit]
  rw [same, clear] at set
  cases set

/-- The module in a power-down: a package rail is still on, the lasers are dark, and no host port has a link. -/
def darkState : State :=
  { State.reset with m := { State.reset.m with chip := { resetChip with pwr := { resetPower with enabled := 1, darkened := true } } } }

/-- Refutes O50: its clause that an access through a port that is not up leaves the state as it is fails while the ports are dark in a power-down (R438). There a
keyed write of SKR_RESET is refused and counted in HIF_ERR and HIF_ERR_COUNT. -/
theorem not_registersAndPortsAct : ¬ Obligations.RegistersAndPortsAct := by
  unfold Obligations.RegistersAndPortsAct
  intro h
  obtain ⟨-, -, -, -, -, -, portDown, -⟩ := h darkState 0
  have down : darkState.m.chip.portUp 0 = false := by decide
  obtain ⟨t, ran, unchanged⟩ := portDown false 0x10001C 4 (some 0x5A5A0001) down
  rw [exec_skrReset_darkened down (by decide) rfl] at ran
  injection ran with ran
  have same : darkState.m.chip.hifRefused = darkState.m.chip := congrArg (fun x : State => x.m.chip) (ran.trans unchanged)
  exact hifRefused_ne_self (by decide) same

end Sys2Proof.Machine
